-- ==== Sys2Proof/Word.lean ====
section
/-!
DEFINITION. The word types of the Aedelo: 64-bit g registers, 128-bit vector registers, bytes,
and the five-bit register codes of 01 R25.
-/

namespace Sys2Proof

/-- A 64-bit dword: a g register, a control register, an F/E word. -/
abbrev Word := BitVec 64

/-- A byte of any memory. -/
abbrev Byte := BitVec 8

/-- A 128-bit value: a vector register, a stream or queue element. -/
abbrev Vec := BitVec 128

/-- A five-bit register code (01 R25). -/
abbrev Reg := BitVec 5

/-- The spaces of 06 R163, in the order of their codes 0 to 4. -/
inductive Space where
  | gl | wm | wb | ab | cb
deriving DecidableEq, Repr

end Sys2Proof
end

