-- ==== Sys2Proof/Syntax.lean ====
section
/-!
DEFINITION. The abstract syntax: one constructor for each row of spec/opcode_table.json. The
223 instruction words come first; each carries the operand fields of its word under the
table's field names (the lone flag L and the park marker P belong to the bundle, not to the
instruction: 02 R44). The 86 steps of the part that have no word (95_what_each_step_holds)
follow; which core, slot, operation, queue or context such a step acts on, and the data that an
outside agent brings, stand in `Sel`.
-/

namespace Sys2Proof

inductive Instr where
  /-- R59: No operation. -/
  | nop
  /-- R103: Jump by a signed word offset. -/
  | j (o : BitVec 22)
  /-- R103: Jump by offset and write the return address to g31. -/
  | jal (o : BitVec 22)
  /-- R103: Jump to a register plus an offset. -/
  | jr (a : BitVec 5) (i : BitVec 12)
  /-- R103: Jump to a register plus an offset and write the return address. -/
  | jalr (d : BitVec 5) (a : BitVec 5) (i : BitVec 12)
  /-- R101: Branch if equal. -/
  | bEq (a : BitVec 5) (b : BitVec 5) (o : BitVec 12)
  /-- R101: Branch if not equal. -/
  | bNe (a : BitVec 5) (b : BitVec 5) (o : BitVec 12)
  /-- R101: Branch if less, signed. -/
  | bLt (a : BitVec 5) (b : BitVec 5) (o : BitVec 12)
  /-- R101: Branch if greater or equal, signed. -/
  | bGe (a : BitVec 5) (b : BitVec 5) (o : BitVec 12)
  /-- R101: Branch if less, unsigned. -/
  | bLtu (a : BitVec 5) (b : BitVec 5) (o : BitVec 12)
  /-- R101: Branch if greater or equal, unsigned. -/
  | bGeu (a : BitVec 5) (b : BitVec 5) (o : BitVec 12)
  /-- R107: Check nesting and start a hardware loop level over a body. -/
  | loop (v : BitVec 2) (c : BitVec 5) (n : BitVec 15)
  /-- R109: Leave a loop level and the levels inside it, and transfer control past the body. -/
  | lbrk (v : BitVec 2)
  /-- R109: Clear a loop level and the levels inside it without transferring control. -/
  | lbrkStay (v : BitVec 2)
  /-- R112: Increment a join counter and push a continuation record for a fork arm. -/
  | fork (a : BitVec 5) (b : BitVec 5) (o : BitVec 12)
  /-- R113: Decrement a join counter, continuing if it was 1 and retiring otherwise. -/
  | join (d : BitVec 5) (a : BitVec 5) (i : BitVec 12)
  /-- R114: Write a suspended continuation record to GL and free the slot. -/
  | susp (a : BitVec 5) (i : BitVec 12)
  /-- R115: Push the thread's record on top of a non-empty deque and take the bottom record. -/
  | yield
  /-- R116: End the thread and free its slot, or in slot 0 sleep until a trap record is queued. -/
  | halt
  /-- R168: Load a byte, sign-extended. -/
  | ldB (d : BitVec 5) (a : BitVec 5) (s : BitVec 3) (o : BitVec 9)
  /-- R168: Load a byte, zero-extended. -/
  | ldBu (d : BitVec 5) (a : BitVec 5) (s : BitVec 3) (o : BitVec 9)
  /-- R168: Load a half-word, sign-extended. -/
  | ldH (d : BitVec 5) (a : BitVec 5) (s : BitVec 3) (o : BitVec 9)
  /-- R168: Load a half-word, zero-extended. -/
  | ldHu (d : BitVec 5) (a : BitVec 5) (s : BitVec 3) (o : BitVec 9)
  /-- R168: Load a word, sign-extended. -/
  | ldW (d : BitVec 5) (a : BitVec 5) (s : BitVec 3) (o : BitVec 9)
  /-- R168: Load a word, zero-extended. -/
  | ldWu (d : BitVec 5) (a : BitVec 5) (s : BitVec 3) (o : BitVec 9)
  /-- R168: Load a dword. -/
  | ldD (d : BitVec 5) (a : BitVec 5) (s : BitVec 3) (o : BitVec 9)
  /-- R168: Store a byte. -/
  | stB (d : BitVec 5) (a : BitVec 5) (s : BitVec 3) (o : BitVec 9)
  /-- R168: Store a half-word. -/
  | stH (d : BitVec 5) (a : BitVec 5) (s : BitVec 3) (o : BitVec 9)
  /-- R168: Store a word. -/
  | stW (d : BitVec 5) (a : BitVec 5) (s : BitVec 3) (o : BitVec 9)
  /-- R168: Store a dword. -/
  | stD (d : BitVec 5) (a : BitVec 5) (s : BitVec 3) (o : BitVec 9)
  /-- R169: Load 128 bits into a vector register as one access. -/
  | vld (d : BitVec 5) (a : BitVec 5) (s : BitVec 3) (o : BitVec 9)
  /-- R169: Store 128 bits from a vector register or port as one access. -/
  | vst (d : BitVec 5) (a : BitVec 5) (s : BitVec 3) (o : BitVec 9)
  /-- R170: Load the byte lanes that a mask selects and write zero elsewhere. -/
  | vldm (d : BitVec 5) (a : BitVec 5) (s : BitVec 3) (m : BitVec 3) (o : BitVec 6)
  /-- R170: Store the byte lanes that a mask selects. -/
  | vstm (d : BitVec 5) (a : BitVec 5) (s : BitVec 3) (m : BitVec 3) (o : BitVec 6)
  /-- R171: Gather lanes from a base plus per-lane offsets. -/
  | vgat (d : BitVec 5) (a : BitVec 5) (b : BitVec 5) (z : BitVec 2) (s : BitVec 3)
  /-- R171: Scatter lanes to a base plus per-lane offsets in ascending order. -/
  | vsca (d : BitVec 5) (a : BitVec 5) (b : BitVec 5) (z : BitVec 2) (s : BitVec 3)
  /-- R172: Ask the station to bring a line into its memory-side cache. -/
  | pref (a : BitVec 5) (s : BitVec 3) (o : BitVec 9)
  /-- R174: Wait for a word to be full, read it and set it empty, with acquire. -/
  | ldfe (d : BitVec 5) (a : BitVec 5) (s : BitVec 3) (o : BitVec 9)
  /-- R174: Wait for a word to be full and read it, leaving it full, with acquire. -/
  | ldfx (d : BitVec 5) (a : BitVec 5) (s : BitVec 3) (o : BitVec 9)
  /-- R174: Wait for a word to be empty, write it and set it full, with release. -/
  | stfe (d : BitVec 5) (a : BitVec 5) (s : BitVec 3) (o : BitVec 9)
  /-- R174: Write a word and set it full, with release. -/
  | stff (d : BitVec 5) (a : BitVec 5) (s : BitVec 3) (o : BitVec 9)
  /-- R174: Read a word's full/empty tag. -/
  | fepoll (d : BitVec 5) (a : BitVec 5) (s : BitVec 3) (o : BitVec 9)
  /-- R174: Set a word's tag empty, with release. -/
  | fesetE (a : BitVec 5) (s : BitVec 3) (o : BitVec 9)
  /-- R174: Set a word's tag full, with release. -/
  | fesetF (a : BitVec 5) (s : BitVec 3) (o : BitVec 9)
  /-- R179: Atomically replace a word with op(old, gb) and return the old value. -/
  | amo (d : BitVec 5) (a : BitVec 5) (b : BitVec 5) (s : BitVec 2) (z : BitVec 1) (o : BitVec 4)
  /-- R180: Atomically compare a word and swap it, returning the old value. -/
  | cas (d : BitVec 5) (a : BitVec 5) (b : BitVec 5) (c : BitVec 5) (s : BitVec 1) (z : BitVec 1)
  /-- R183: Park as a park marker would, acquiring in the scope. -/
  | fenceAcq (a : BitVec 5) (v : BitVec 3) (r : BitVec 1)
  /-- R183: Place a release marker in the store buffer and continue. -/
  | fenceRel (a : BitVec 5) (v : BitVec 3) (r : BitVec 1)
  /-- R183: Place a release marker and park. -/
  | fenceAr (a : BitVec 5) (v : BitVec 3) (r : BitVec 1)
  /-- R183: Park until every operation has returned and every store is visible throughout the scope. -/
  | fenceSc (a : BitVec 5) (v : BitVec 3) (r : BitVec 1)
  /-- R185: Arrive at a barrier and park until its episode completes, receiving the arrival rank. -/
  | bar (d : BitVec 5) (a : BitVec 5) (b : BitVec 5) (v : BitVec 3) (r : BitVec 1) (n : BitVec 2)
  /-- R185: Arrive at a barrier without parking. -/
  | barnb (d : BitVec 5) (a : BitVec 5) (b : BitVec 5) (v : BitVec 3) (r : BitVec 1) (n : BitVec 2)
  /-- R188: Queue a 128-bit message for a port of a core in the package. -/
  | send (a : BitVec 5) (b : BitVec 5) (n : BitVec 6)
  /-- R189: Take the oldest delivered message on a port, asynchronously. -/
  | recv (d : BitVec 5) (n : BitVec 6)
  /-- R189: Count the unclaimed delivered messages on a port. -/
  | rprobe (d : BitVec 5) (n : BitVec 6)
  /-- R191: Bind a stream port to an e0 copy of a record's window. -/
  | sbind (d : BitVec 5) (a : BitVec 5)
  /-- R192: Stop a stream's copy and discard unread elements. -/
  | sclose (d : BitVec 5)
  /-- R243: Push an e0 command that copies a source window into a destination window, optionally permuting rows. -/
  | xcopy (a : BitVec 5) (b : BitVec 5) (c : BitVec 5) (e : BitVec 1) (q : BitVec 3)
  /-- R244: Push an e0 command that writes the destination record's fill value into its window. -/
  | xcopyFill (a : BitVec 5) (b : BitVec 5) (c : BitVec 5) (e : BitVec 1) (q : BitVec 3)
  /-- R246: Push an e1 command that gathers rows by an index list. -/
  | xgat (a : BitVec 5) (b : BitVec 5) (c : BitVec 5)
  /-- R246: Push an e1 command that scatters rows by an index list. -/
  | xgatSca (a : BitVec 5) (b : BitVec 5) (c : BitVec 5)
  /-- R246: Push an e1 command that scatters and adds rows by an index list. -/
  | xgatScadd (a : BitVec 5) (b : BitVec 5) (c : BitVec 5)
  /-- R247: Push a Marver command that changes layout, transposes and converts a window. -/
  | xform (a : BitVec 5) (b : BitVec 5) (c : BitVec 5)
  /-- R248: Push a Marver command that expands an interleaved rANS blob. -/
  | xformRans (a : BitVec 5) (b : BitVec 5) (c : BitVec 5)
  /-- R252: Push an e3 command that joins a reduction collective over a scope. -/
  | xcoll (a : BitVec 5) (b : BitVec 5) (c : BitVec 5)
  /-- R252: Push an e3 command that joins a broadcast collective over a scope. -/
  | xcollBcast (a : BitVec 5) (b : BitVec 5) (c : BitVec 5)
  /-- R241: Wait until a barrier object's COUNT reaches a target, acquiring the engine's writes. -/
  | xwait (d : BitVec 5) (a : BitVec 5)
  /-- R241: Read a barrier object without waiting, acquiring only if COUNT has reached the target. -/
  | xwaitPoll (d : BitVec 5) (a : BitVec 5)
  /-- R242: Check a tensor layout record and return the result without trapping on it. -/
  | tlrchk (a : BitVec 5) (b : BitVec 5)
  /-- R259: Allocate the lowest free layer id and initialise its entry. -/
  | lnew (a : BitVec 5) (b : BitVec 5) (c : BitVec 5)
  /-- R259: Free a layer and clear the caster fields that name it. -/
  | lfree (a : BitVec 5)
  /-- R260: Copy a pose record into a layer's current pose and side entry. -/
  | lpose (a : BitVec 5) (b : BitVec 5)
  /-- R261: Publish a layer's surface and pose and mark its shadow receivers stale. -/
  | lcommit (a : BitVec 5) (b : BitVec 5)
  /-- R262: Move the selected pixels of a layer into a new child layer. -/
  | lsplit (a : BitVec 5) (b : BitVec 5) (c : BitVec 5)
  /-- R263: Fold an absorbed layer into a survivor and free it. -/
  | lmerge (a : BitVec 5) (b : BitVec 5) (c : BitVec 5)
  /-- R264: Return a layer's AGE and ERROR. -/
  | lerr (a : BitVec 5) (b : BitVec 5)
  /-- R264: Return a layer's header dword 0. -/
  | lerrHdr (a : BitVec 5) (b : BitVec 5)
  /-- R264: Set a layer's price. -/
  | lprice (a : BitVec 5) (b : BitVec 5)
  /-- R264: Set a layer's order key. -/
  | lorder (a : BitVec 5) (b : BitVec 5)
  /-- R264: Set a layer's light mask and light penalty. -/
  | llight (a : BitVec 5) (b : BitVec 5) (c : BitVec 5)
  /-- R264: Advance a light slot and mark its subscribed layers light-stale. -/
  | llightBump (a : BitVec 5)
  /-- R265: Set a layer's caster fields. -/
  | lshadow (a : BitVec 5) (b : BitVec 5)
  /-- R266: Copy a 64-byte re-render template into a layer's side entry. -/
  | lreqTmpl (a : BitVec 5) (b : BitVec 5)
  /-- R266: Push a layer's template into the render deque when REQ is 0. -/
  | lreqNow (a : BitVec 5)
  /-- R266: Clear a layer's REQ. -/
  | lreqClr (a : BitVec 5)
  /-- R194: Write an entry of the twin's window, waiting for empty with FE. -/
  | twput (d : BitVec 5) (e : BitVec 1) (i : BitVec 4)
  /-- R194: Read an entry of the own window, waiting for full with FE. -/
  | twget (d : BitVec 5) (e : BitVec 1) (i : BitVec 4)
  /-- R193: Read the full bits of the own or the twin's window. -/
  | twtest (d : BitVec 5) (w : BitVec 1)
  /-- R123: Read a control register. -/
  | crd (d : BitVec 5) (r : BitVec 12)
  /-- R123: Write a control register. -/
  | cwr (a : BitVec 5) (r : BitVec 12)
  /-- R123: Exchange a control register indivisibly. -/
  | crx (d : BitVec 5) (a : BitVec 5) (r : BitVec 12)
  /-- R127: Trap the thread with cause 0xE0 + n. -/
  | trap (a : BitVec 5) (n : BitVec 4)
  /-- R128: Remove the head trap record and resume the slot it names. -/
  | rte
  /-- R129: Read a dword of a slot's workspace. -/
  | wrd (d : BitVec 5) (a : BitVec 5) (b : BitVec 5)
  /-- R129: Write a dword of a slot's workspace. -/
  | wwr (d : BitVec 5) (a : BitVec 5) (b : BitVec 5)
  /-- R130: Take the lowest free workspace block from the pool, clean. -/
  | walloc (d : BitVec 5)
  /-- R130: Return a workspace block to the pool. -/
  | wallocRel (a : BitVec 5)
  /-- R132: End a slot's thread, withdrawing its waits and removing its head record. -/
  | slotctlKill (d : BitVec 5) (a : BitVec 5)
  /-- R133: Return a slot's status word. -/
  | slotctlStat (d : BitVec 5) (a : BitVec 5)
  /-- R132: Hold a slot's thread at its next bundle boundary. -/
  | slotctlStop (d : BitVec 5) (a : BitVec 5)
  /-- R132: Release a slot's hold. -/
  | slotctlGo (d : BitVec 5) (a : BitVec 5)
  /-- R134: Read TIME or the core's cycle count. -/
  | tsc (d : BitVec 5) (i : BitVec 12)
  /-- R131: Replace a slot's workspace and return the old WSP. -/
  | wspx (d : BitVec 5) (a : BitVec 5) (b : BitVec 5)
  /-- R216: Read the quad's LICENCE register. -/
  | mlicQ (d : BitVec 5)
  /-- R216: Set the core's explicit licence hold once the quad holds the licence. -/
  | mlicAcq (d : BitVec 5)
  /-- R216: Clear the core's explicit licence hold. -/
  | mlicRel (d : BitVec 5)
  /-- R94: Add two g registers. -/
  | add (d : BitVec 5) (a : BitVec 5) (b : BitVec 5)
  /-- R94: Subtract two g registers. -/
  | sub (d : BitVec 5) (a : BitVec 5) (b : BitVec 5)
  /-- R94: Bitwise AND. -/
  | and (d : BitVec 5) (a : BitVec 5) (b : BitVec 5)
  /-- R94: Bitwise OR. -/
  | or (d : BitVec 5) (a : BitVec 5) (b : BitVec 5)
  /-- R94: Bitwise XOR. -/
  | xor (d : BitVec 5) (a : BitVec 5) (b : BitVec 5)
  /-- R94: Shift left by a register count. -/
  | shl (d : BitVec 5) (a : BitVec 5) (b : BitVec 5)
  /-- R94: Logical shift right by a register count. -/
  | shr (d : BitVec 5) (a : BitVec 5) (b : BitVec 5)
  /-- R94: Arithmetic shift right by a register count. -/
  | sra (d : BitVec 5) (a : BitVec 5) (b : BitVec 5)
  /-- R94: Low 64 bits of the product. -/
  | mul (d : BitVec 5) (a : BitVec 5) (b : BitVec 5)
  /-- R94: High 64 bits of the signed product. -/
  | mulh (d : BitVec 5) (a : BitVec 5) (b : BitVec 5)
  /-- R94: High 64 bits of the unsigned product. -/
  | mulhu (d : BitVec 5) (a : BitVec 5) (b : BitVec 5)
  /-- R95: Signed division. -/
  | div (d : BitVec 5) (a : BitVec 5) (b : BitVec 5)
  /-- R95: Unsigned division. -/
  | divu (d : BitVec 5) (a : BitVec 5) (b : BitVec 5)
  /-- R95: Signed remainder. -/
  | rem (d : BitVec 5) (a : BitVec 5) (b : BitVec 5)
  /-- R95: Unsigned remainder. -/
  | remu (d : BitVec 5) (a : BitVec 5) (b : BitVec 5)
  /-- R94: Signed minimum. -/
  | min (d : BitVec 5) (a : BitVec 5) (b : BitVec 5)
  /-- R94: Signed maximum. -/
  | max (d : BitVec 5) (a : BitVec 5) (b : BitVec 5)
  /-- R94: Unsigned minimum. -/
  | minu (d : BitVec 5) (a : BitVec 5) (b : BitVec 5)
  /-- R94: Unsigned maximum. -/
  | maxu (d : BitVec 5) (a : BitVec 5) (b : BitVec 5)
  /-- R94: Set if less, signed. -/
  | slt (d : BitVec 5) (a : BitVec 5) (b : BitVec 5)
  /-- R94: Set if less, unsigned. -/
  | sltu (d : BitVec 5) (a : BitVec 5) (b : BitVec 5)
  /-- R94: Count leading zero bits. -/
  | clz (d : BitVec 5) (a : BitVec 5)
  /-- R94: Count trailing zero bits. -/
  | ctz (d : BitVec 5) (a : BitVec 5)
  /-- R94: Count one bits. -/
  | popc (d : BitVec 5) (a : BitVec 5)
  /-- R94: Reverse the bytes of a register. -/
  | revB (d : BitVec 5) (a : BitVec 5)
  /-- R94: Reverse the bits of a register. -/
  | revBit (d : BitVec 5) (a : BitVec 5)
  /-- R96: Extract a bit field, zero-extended. -/
  | ext (d : BitVec 5) (a : BitVec 5) (u : BitVec 6) (n : BitVec 6)
  /-- R96: Insert a bit field into the destination. -/
  | ins (d : BitVec 5) (a : BitVec 5) (u : BitVec 6) (n : BitVec 6)
  /-- R97: Select one of two registers by a third. -/
  | sel (d : BitVec 5) (a : BitVec 5) (b : BitVec 5) (c : BitVec 5)
  /-- R98: Add a signed immediate. -/
  | addi (d : BitVec 5) (a : BitVec 5) (i : BitVec 12)
  /-- R98: AND with a signed immediate. -/
  | andi (d : BitVec 5) (a : BitVec 5) (i : BitVec 12)
  /-- R98: OR with an unsigned immediate. -/
  | ori (d : BitVec 5) (a : BitVec 5) (i : BitVec 12)
  /-- R98: XOR with an unsigned immediate. -/
  | xori (d : BitVec 5) (a : BitVec 5) (i : BitVec 12)
  /-- R98: Shift left by an immediate. -/
  | shli (d : BitVec 5) (a : BitVec 5) (n : BitVec 6)
  /-- R98: Logical shift right by an immediate. -/
  | shri (d : BitVec 5) (a : BitVec 5) (n : BitVec 6)
  /-- R98: Arithmetic shift right by an immediate. -/
  | srai (d : BitVec 5) (a : BitVec 5) (n : BitVec 6)
  /-- R98: Set if less than an immediate, signed. -/
  | slti (d : BitVec 5) (a : BitVec 5) (i : BitVec 12)
  /-- R99: Load a sign-extended 17-bit constant. -/
  | kon (d : BitVec 5) (i : BitVec 17)
  /-- R99: Shift left by 17 and OR in a 17-bit constant. -/
  | konh (d : BitVec 5) (i : BitVec 17)
  /-- R98: Set if less than an immediate, unsigned. -/
  | sltiu (d : BitVec 5) (a : BitVec 5) (i : BitVec 12)
  /-- R138: Element-wise add. -/
  | vadd (d : BitVec 5) (a : BitVec 5) (b : BitVec 5) (s : BitVec 1) (r : BitVec 3) (t : BitVec 3)
  /-- R138: Element-wise subtract. -/
  | vsub (d : BitVec 5) (a : BitVec 5) (b : BitVec 5) (s : BitVec 1) (r : BitVec 3) (t : BitVec 3)
  /-- R138: Element-wise multiply. -/
  | vmul (d : BitVec 5) (a : BitVec 5) (b : BitVec 5) (s : BitVec 1) (r : BitVec 3) (t : BitVec 3)
  /-- R138: High half of element-wise integer products. -/
  | vmulh (d : BitVec 5) (a : BitVec 5) (b : BitVec 5) (s : BitVec 1) (r : BitVec 3) (t : BitVec 3)
  /-- R140: Fused multiply-add with one rounding. -/
  | vfma (d : BitVec 5) (a : BitVec 5) (b : BitVec 5) (s : BitVec 1) (r : BitVec 3) (t : BitVec 3)
  /-- R140: Fused multiply-subtract with one rounding. -/
  | vfms (d : BitVec 5) (a : BitVec 5) (b : BitVec 5) (s : BitVec 1) (r : BitVec 3) (t : BitVec 3)
  /-- R140: Fused negated multiply-add with one rounding. -/
  | vfnma (d : BitVec 5) (a : BitVec 5) (b : BitVec 5) (s : BitVec 1) (r : BitVec 3) (t : BitVec 3)
  /-- R140: Element-wise floating-point division. -/
  | vdiv (d : BitVec 5) (a : BitVec 5) (b : BitVec 5) (s : BitVec 1) (r : BitVec 3) (t : BitVec 3)
  /-- R140: Element-wise floating-point square root. -/
  | vsqrt (d : BitVec 5) (a : BitVec 5) (s : BitVec 1) (r : BitVec 3) (t : BitVec 3)
  /-- R88: Element-wise minimum, NaN-propagating. -/
  | vmin (d : BitVec 5) (a : BitVec 5) (b : BitVec 5) (s : BitVec 1) (r : BitVec 3) (t : BitVec 3)
  /-- R88: Element-wise maximum, NaN-propagating. -/
  | vmax (d : BitVec 5) (a : BitVec 5) (b : BitVec 5) (s : BitVec 1) (r : BitVec 3) (t : BitVec 3)
  /-- R88: Element-wise minimum, preferring numbers. -/
  | vminn (d : BitVec 5) (a : BitVec 5) (b : BitVec 5) (s : BitVec 1) (r : BitVec 3) (t : BitVec 3)
  /-- R88: Element-wise maximum, preferring numbers. -/
  | vmaxn (d : BitVec 5) (a : BitVec 5) (b : BitVec 5) (s : BitVec 1) (r : BitVec 3) (t : BitVec 3)
  /-- R139: Element-wise absolute value. -/
  | vabs (d : BitVec 5) (a : BitVec 5) (s : BitVec 1) (r : BitVec 3) (t : BitVec 3)
  /-- R139: Element-wise negation. -/
  | vneg (d : BitVec 5) (a : BitVec 5) (s : BitVec 1) (r : BitVec 3) (t : BitVec 3)
  /-- R138: 128-bit AND. -/
  | vand (d : BitVec 5) (a : BitVec 5) (b : BitVec 5)
  /-- R138: 128-bit OR. -/
  | vor (d : BitVec 5) (a : BitVec 5) (b : BitVec 5)
  /-- R138: 128-bit XOR. -/
  | vxor (d : BitVec 5) (a : BitVec 5) (b : BitVec 5)
  /-- R138: 128-bit NOT. -/
  | vnot (d : BitVec 5) (a : BitVec 5)
  /-- R141: Element-wise shift left. -/
  | vshl (d : BitVec 5) (a : BitVec 5) (b : BitVec 5) (s : BitVec 1) (r : BitVec 3) (t : BitVec 3)
  /-- R141: Element-wise logical shift right. -/
  | vshr (d : BitVec 5) (a : BitVec 5) (b : BitVec 5) (s : BitVec 1) (r : BitVec 3) (t : BitVec 3)
  /-- R141: Element-wise arithmetic shift right. -/
  | vsra (d : BitVec 5) (a : BitVec 5) (b : BitVec 5) (s : BitVec 1) (r : BitVec 3) (t : BitVec 3)
  /-- R144: Compare elements and write a mask. -/
  | vcmp (d : BitVec 5) (a : BitVec 5) (b : BitVec 5) (c : BitVec 3) (u : BitVec 1) (t : BitVec 3)
  /-- R145: Select bytes by a mask. -/
  | vsel (d : BitVec 5) (a : BitVec 5) (b : BitVec 5) (c : BitVec 5)
  /-- R148: Broadcast a g register into every element. -/
  | vsplat (d : BitVec 5) (a : BitVec 5) (u : BitVec 1) (t : BitVec 3)
  /-- R148: Insert a g register into one element. -/
  | vins (d : BitVec 5) (a : BitVec 5) (b : BitVec 5) (u : BitVec 1) (t : BitVec 3)
  /-- R148: Extract one element into a g register. -/
  | vext (d : BitVec 5) (a : BitVec 5) (b : BitVec 5) (u : BitVec 1) (t : BitVec 3)
  /-- R148: Shuffle bytes by an index vector. -/
  | vshuf (d : BitVec 5) (a : BitVec 5) (b : BitVec 5)
  /-- R148: Interleave elements of two vectors. -/
  | vzip (d : BitVec 5) (a : BitVec 5) (b : BitVec 5) (h : BitVec 1) (u : BitVec 1) (t : BitVec 3)
  /-- R148: De-interleave elements of two vectors. -/
  | vunzip (d : BitVec 5) (a : BitVec 5) (b : BitVec 5) (h : BitVec 1) (u : BitVec 1) (t : BitVec 3)
  /-- R149: Reduce the elements of a vector pairwise into a g register. -/
  | vred (d : BitVec 5) (a : BitVec 5) (o : BitVec 5) (s : BitVec 1) (r : BitVec 3) (t : BitVec 3)
  /-- R150: Accumulate dot products into wider lanes. -/
  | vdot (d : BitVec 5) (a : BitVec 5) (b : BitVec 5) (s : BitVec 1) (r : BitVec 3) (t : BitVec 3)
  /-- R151: Accumulate sums of absolute differences. -/
  | vsad (d : BitVec 5) (a : BitVec 5) (b : BitVec 5) (s : BitVec 1) (r : BitVec 3) (t : BitVec 3)
  /-- R153: Convert elements between formats. -/
  | vcvt (d : BitVec 5) (a : BitVec 5) (s : BitVec 5) (r : BitVec 2) (t : BitVec 5)
  /-- R154: Pack byte containers into one part of a sub-byte group. -/
  | vpack (d : BitVec 5) (a : BitVec 5) (n : BitVec 3) (s : BitVec 1) (c : BitVec 5)
  /-- R154: Unpack one part of a sub-byte group into byte containers. -/
  | vunpack (d : BitVec 5) (a : BitVec 5) (n : BitVec 3) (c : BitVec 5)
  /-- R142: Correctly rounded reciprocal. -/
  | vrcp (d : BitVec 5) (a : BitVec 5) (s : BitVec 1) (r : BitVec 3) (t : BitVec 3)
  /-- R142: Correctly rounded reciprocal square root. -/
  | vrsq (d : BitVec 5) (a : BitVec 5) (s : BitVec 1) (r : BitVec 3) (t : BitVec 3)
  /-- R142: Correctly rounded 2 to the power a. -/
  | vexp2 (d : BitVec 5) (a : BitVec 5) (s : BitVec 1) (r : BitVec 3) (t : BitVec 3)
  /-- R142: Correctly rounded base-2 logarithm. -/
  | vlog2 (d : BitVec 5) (a : BitVec 5) (s : BitVec 1) (r : BitVec 3) (t : BitVec 3)
  /-- R142: Correctly rounded sine of a half-turn argument. -/
  | vsin (d : BitVec 5) (a : BitVec 5) (s : BitVec 1) (r : BitVec 3) (t : BitVec 3)
  /-- R142: Correctly rounded cosine of a half-turn argument. -/
  | vcos (d : BitVec 5) (a : BitVec 5) (s : BitVec 1) (r : BitVec 3) (t : BitVec 3)
  /-- R143: Classify float elements. -/
  | vclass (d : BitVec 5) (a : BitVec 5) (t : BitVec 3)
  /-- R148: Copy 128 bits between vector registers and ports. -/
  | vmov (d : BitVec 5) (a : BitVec 5)
  /-- R146: Mask AND. -/
  | mand (d : BitVec 5) (a : BitVec 5) (b : BitVec 5)
  /-- R146: Mask AND NOT. -/
  | mandNot (d : BitVec 5) (a : BitVec 5) (b : BitVec 5)
  /-- R146: Mask OR. -/
  | mor (d : BitVec 5) (a : BitVec 5) (b : BitVec 5)
  /-- R146: OR the low 16 bits of two g registers into a mask. -/
  | morG (d : BitVec 5) (a : BitVec 5) (b : BitVec 5)
  /-- R146: Mask XOR. -/
  | mxor (d : BitVec 5) (a : BitVec 5) (b : BitVec 5)
  /-- R146: Mask NOT. -/
  | mnot (d : BitVec 5) (a : BitVec 5)
  /-- R146: Count the one bits of a mask. -/
  | mcnt (d : BitVec 5) (a : BitVec 5)
  /-- R146: Move a mask into a g register. -/
  | mcntRaw (d : BitVec 5) (a : BitVec 5)
  /-- R146: Index of the lowest one bit of a mask. -/
  | mfirst (d : BitVec 5) (a : BitVec 5)
  /-- R156: Bind the bit buffer to a stream in local WM. -/
  | bbind (a : BitVec 5) (b : BitVec 5)
  /-- R158: Take and consume n bits of the stream. -/
  | bget (d : BitVec 5) (i : BitVec 12)
  /-- R158: Take and consume a register-given number of bits. -/
  | bgetv (d : BitVec 5) (a : BitVec 5)
  /-- R158: Read n bits of the stream without consuming them. -/
  | bpeek (d : BitVec 5) (i : BitVec 12)
  /-- R158: Skip bits of the stream. -/
  | bskip (a : BitVec 5) (i : BitVec 12)
  /-- R158: Read the bit-buffer position. -/
  | bpos (d : BitVec 5)
  /-- R158: Read the bits left in the stream. -/
  | bposLeft (d : BitVec 5)
  /-- R158: Read the bit-buffer state dword. -/
  | bposState (d : BitVec 5)
  /-- R162: Perform one rANS decode step with renormalisation. -/
  | ansd (d : BitVec 5) (a : BitVec 5) (b : BitVec 5)
  /-- R207: Place a matrix multiply-accumulate into the dispatch queue. -/
  | mma (a : BitVec 5) (b : BitVec 5) (c : BitVec 5) (e : BitVec 1) (q : BitVec 3) (x : BitVec 1) (y : BitVec 1)
  /-- R207: Place a complex matrix multiply-accumulate into the dispatch queue. -/
  | mmac (a : BitVec 5) (b : BitVec 5) (c : BitVec 5) (e : BitVec 1) (q : BitVec 3) (x : BitVec 1) (y : BitVec 1)
  /-- R208: Zero a C tile. -/
  | mmz (a : BitVec 5) (w : BitVec 1)
  /-- R211: Drain a C tile into rows of a typed buffer, optionally permuted and cleared. -/
  | mmd (a : BitVec 5) (b : BitVec 5) (e : BitVec 1) (q : BitVec 3) (k : BitVec 1) (w : BitVec 1)
  /-- R201: Write the slot's unfolding configuration. -/
  | munf (a : BitVec 5) (b : BitVec 5) (c : BitVec 5)
  /-- R223: Check an index vector and solve it into a q register. -/
  | qld (d : BitVec 3) (g : BitVec 5) (s : BitVec 3)
  /-- R223: Store the permutation of a q register as 64 bytes. -/
  | qst (a : BitVec 3) (g : BitVec 5) (s : BitVec 3)
  /-- R224: Solve the composition of two permutations. -/
  | qcomp (d : BitVec 3) (a : BitVec 3) (b : BitVec 3)
  /-- R224: Solve the inverse of a permutation. -/
  | qinv (d : BitVec 3) (a : BitVec 3)
  /-- R225: Draw a random permutation and solve it. -/
  | qrnd (d : BitVec 3)
  /-- R224: Write identity settings at once. -/
  | qid (d : BitVec 3)
  /-- R226: Apply a permutation to the bytes of a vector. -/
  | qapp (a : BitVec 3) (g : BitVec 5) (v : BitVec 5)
  /-- R227: Place an in-place row permutation of a buffer tile into the dispatch queue. -/
  | qtile (a : BitVec 3) (g : BitVec 5)
  /-- R228: Return the cycle structure of a permutation. -/
  | qcyc (a : BitVec 3) (g : BitVec 5)
  /-- R223: Check an index vector without trapping. -/
  | qchk (g : BitVec 5) (d : BitVec 5) (s : BitVec 3)
  /-- R37: In each core cycle the slot whose turn it is issues its thread's next bundle if the thread is eligible, and otherwise the cycle is a gated bubble. -/
  | barrelTurn
  /-- R41: An outstanding asynchronous operation writes its result into its destination register, which may release a park or a sleep. -/
  | asyncResultWrite
  /-- R65: An asynchronous operation that faults after issue parks its thread at its first turn after the fault arrives, and records the trap with the deferred flag set. -/
  | deferredTrap
  /-- R316: Once a trapped thread's operations have returned and its store buffer has drained, its record joins the tail of the core's trap queue. -/
  | trapRecordEnqueue
  /-- R166: The oldest store-buffer entry of a slot leaves the buffer and becomes visible, in buffer order. -/
  | storeBufferDrain
  /-- R414: The station performs a write to a GL line: it verifies the checks, merges the bytes, re-encodes a compressed line and writes new check values. -/
  | stationWrite
  /-- R179: The home of a word performs an amo or cas atomically, once every earlier store of the issuing thread is visible to it. -/
  | homeAtomic
  /-- R175: The home of a word performs an F/E operation, and after each change of the tag walks the wait list in arrival order. -/
  | feHomeOperation
  /-- R177: A thread asleep on an F/E word for more than WLIM cycles traps 0x64 at its turn, while its waiting operations stay on their lists. -/
  | waitLimitTrap
  /-- R194: A twput.fe or twget.fe bundle that has failed to issue for more than WLIM cycles traps 0x64 precisely. -/
  | twinWaitLimitTrap
  /-- R187: An arrival is counted into its barrier instance's episode once the arriver's earlier stores are visible in the scope. -/
  | barrierArrival
  /-- R188: A queued message is delivered into the destination's receive store once the sender's earlier stores are visible and an entry is free. -/
  | channelDelivery
  /-- R191: Engine e0 fetches the next element of a bound stream, at most four ahead of the reader. -/
  | streamElementArrival
  /-- R233: An engine starts to execute a command once its last operand element has arrived, serving slots round robin. -/
  | engineCommandStart
  /-- R238: An engine command completes or ends on a fault, counts into its barrier object and pushes its result element. -/
  | engineCommandComplete
  /-- R252: Once every core of the scope has contributed, the collective writes every participant's destination and completes there. -/
  | collectiveComplete
  /-- R200: The matrix engine retires an engine operation in queue order. -/
  | matrixOperationRetire
  /-- R221: The quad's route-solving unit writes the settings of a q register that was solving. -/
  | routeSolveComplete
  /-- R355: Once per report interval the Gaffer serves the matrix licences of the twin pairs in order. -/
  | licenceService
  /-- R215: LEFT reaching 0 while the twin waits sets YIELD on the holder. -/
  | licenceQuantumExpiry
  /-- R215: A holder passes the licence to its waiting twin in the idle, quantum or pre-emption case, clearing its HOLD bits. -/
  | licencePass
  /-- R112: After a fork's join increment has returned, its record is pushed onto the bottom of the core's deque. -/
  | forkRecordPush
  /-- R277: At its turn the lowest idle slot seeks a record from its own deque, the overflow ring, the quad, the die or the render deque, and runs it. -/
  | idleSlotSeek
  /-- R281: After 4,096 ticks with every live thread of a launch asleep and nothing in flight, the Gaffer traps every listed thread with 0x65. -/
  | hangDetected
  /-- R398: A core applies its domain's new rotation level at slot 0's first turn after the boundary, holding or releasing slots 13 to 15. -/
  | slotLevelApply
  /-- R401: At each 10 µs boundary the power controller refills permits, orders the claims, grants or denies them, and sets domain levels. -/
  | boostIntervalBoundary
  /-- R338: The station holding a queue's control block tells the Gaffer of a change to WIDX. -/
  | widxUpdate
  /-- R350: The Gaffer makes one service step, starting the pending packet of a ready queue chosen by level, ageing and round robin. -/
  | gafferServiceStep
  /-- R343: A LAUNCH packet is checked and its cohorts are placed, or it resumes continuation records, once its wait signal reads zero. -/
  | launch
  /-- R344: A WAIT packet holds its queue until its signal meets the condition. -/
  | wait
  /-- R344: A SIGNAL packet stores, adds or subtracts its operand at a signal. -/
  | signal
  /-- R344: A BARRIER-AND packet holds its queue until every signal it names reads zero, then decrements its own signal. -/
  | barrierAnd
  /-- R379: A SCENE-FRAME packet arms the Lehr with a first frame time, a period and a frame count. -/
  | sceneFrame
  /-- R346: Once every core has granted its reservation, the Gaffer writes the cohort's threads in ascending order. -/
  | cohortWrite
  /-- R344: The Gaffer re-reads a signal that a waiting packet names after a write, a station change report, or a report interval. -/
  | signalReread
  /-- R349: When a launch completes, the Gaffer decrements CSIG with a release at pod scope. -/
  | launchComplete
  /-- R348: Every 1 µs each die sends the Gaffer its free slots, free blocks, contexts and licence states. -/
  | dieReport
  /-- R352: A queue waiting on a non-resident signal page releases its hardware slot when QHOLD expires and is parked. -/
  | qholdExpiry
  /-- R364: A PRG response completes or rejects a page request, and the waiting accesses walk the tables again or fault 0x44. -/
  | pageRequestReply
  /-- R444: A page request without a response after 100 ms is treated as rejected. -/
  | pageRequestTimeout
  /-- R366: A mesh interrupt from the Gaffer stops the context's slots on a core and withdraws its waits. -/
  | preemptionInterrupt
  /-- R369: Once operations have returned and buffers have drained, the core writes the save area body and then its header, reports, and is freed. -/
  | preemptionSave
  /-- R372: The Gaffer resumes a save area on a free core, at the same or a migrated position, restoring state and resending withdrawn operations. -/
  | contextResume
  /-- R370: A message arriving at a core without its PID goes to the Gaffer, which forwards it, spills it, or drops it. -/
  | messageForward
  /-- R253: The Lehr performs a scene's next layer instruction atomically in arrival order. -/
  | layerInstructionPerform
  /-- R380: A frame starts at the later of its scheduled time and the previous frame's end, snapshots the table, and sets STARTED. -/
  | frameStart
  /-- R385: The pass ends with the composite output written, end-of-pass updates made and requests pushed, and DONE set with a release. -/
  | frameEnd
  /-- R430: The mailbox STATUS command returns the start stage, the replacement state, failing HBM sites and layer versions. -/
  | status
  /-- R337: The mailbox QREG command registers a queue descriptor and returns its queue number. -/
  | qreg
  /-- R430: The mailbox QUNREG command removes a queue and discards its pending packets. -/
  | qunreg
  /-- R400: The mailbox PART command configures a partition descriptor and resets its permits, charges and refill count. -/
  | part
  /-- R369: The mailbox SAVEREG command gives the Gaffer the save region. -/
  | savereg
  /-- R361: The mailbox INVAL command invalidates the cached translations of a PID over a virtual span. -/
  | inval
  /-- R419: The mailbox LMETA command returns a line's metadata entry at one point of that line's order. -/
  | lmeta
  /-- R411: The mailbox SCRUB command writes sectors whole as zeros with their check values, clearing poison. -/
  | scrub
  /-- R430: The mailbox ERRCNT command returns the corrected-error count of each station. -/
  | errcnt
  /-- R432: The mailbox STAGING command names the host staging area and starts LOADING of the boot images. -/
  | staging
  /-- R435: The mailbox STAGE command checks a patch-set image and drives a live replacement of its layer. -/
  | stage
  /-- R437: The mailbox HOREAD command returns the current hand-over record. -/
  | horead
  /-- R428: A write to a register without behaviour of its own, such as the mailbox payload window, stores its value. -/
  | registerWrite
  /-- R435: At the old image's safe point the hand-over record is written, the layer's patch entries are replaced, and PROBATION begins. -/
  | quiesceSafePoint
  /-- R435: A quiesce that has not reached a safe point after 10 ms abandons the replacement with DETAIL 0xD3. -/
  | quiesceTimeout
  /-- R438: The new image writes a heartbeat that meets the current probation deadline. -/
  | heartbeat
  /-- R438: At each 1 ms deadline of probation the sequencer checks heartbeats and STATE, and commits the image at deadline 100 or enters FALLBACK. -/
  | probationDeadline
  /-- R439: The sequencer invalidates all patch entries and reinstalls the previous images from the directory. -/
  | fallback
  /-- R433: Derivation of a layer's DICE key completes, and the stage advances or a re-certify group is written. -/
  | keyDerivationComplete
  /-- R432: At power good the mask ROM runs in stage SAFE, with TIME and the licences reset. -/
  | powerGood
  /-- R432: With the memories trained, every line is written as zero with the reset metadata, except the save areas named in the context table. -/
  | memoryTrained
  /-- R434: The SPDM GET_VERSION request is answered through DOE. -/
  | getVersion
  /-- R434: The SPDM GET_CAPABILITIES request is answered. -/
  | getCapabilities
  /-- R434: The SPDM NEGOTIATE_ALGORITHMS request settles on RSASSA_4096 and SHA-512. -/
  | negotiateAlgorithms
  /-- R434: The SPDM GET_DIGESTS request returns the digest of the slot-0 chain. -/
  | getDigests
  /-- R434: The SPDM GET_CERTIFICATE request returns the slot-0 certificate chain. -/
  | getCertificate
  /-- R434: The SPDM CHALLENGE request is signed with key 3, or answered with ResponseNotReady during derivation. -/
  | challenge
  /-- R434: The SPDM GET_MEASUREMENTS request returns M0 and M[1] to M[3], signed. -/
  | getMeasurements
  /-- R442: The host link trains to the highest common generation and width, and retrains when FULL begins. -/
  | linkTraining
  /-- R443: A host CXL.mem access reaches HBM or the second tier, with checks made and verified at ingress and egress. -/
  | hostDeviceMemoryAccess
  /-- R445: While the host link is down, accesses to host targets wait at the station. -/
  | linkDown
  /-- R445: After 10 ms down, waiting reads return poison, waiting writes trap 0x45, and page requests are rejected. -/
  | linkDownTimeout
  /-- R446: Kenlink ports train to a pod switch, which assigns the package's device number. -/
  | kenlinkTraining
  /-- R446: A GL access arriving from a peer package over Kenlink is checked and performed. -/
  | peerGlAccess
  /-- R447: A peer unreachable on every port for 1 ms is declared failed, and its traffic is dropped. -/
  | peerDeviceFailed
  /-- R448: A sensor reaching a threshold raises the package thermal level and writes a level record. -/
  | thermalLevelEnter
  /-- R448: After every sensor has stayed 5 °C below the threshold for 1 ms, the level falls and saved contexts resume. -/
  | thermalLevelLeave
  /-- R448: At 125 °C an independent comparator cuts power to the compute dies, the HBM and the base die logic. -/
  | hardTrip
  /-- R450: Loss of the standby rail loses the context table and every save area without report. -/
  | standbyRailLoss
deriving DecidableEq, Repr

/-- What a step without a word acts on: the core and slot; the number of an operation, quad,
engine, queue, context, launch or sensor; a second number; the two flags and the bytes that an
outside agent brings. Each meaning says which of these it reads. -/
structure Sel where
  core : Nat := 0
  slot : Nat := 0
  num  : Nat := 0
  aux  : Nat := 0
  yes  : Bool := false
  write : Bool := false
  data : List Byte := []
deriving DecidableEq, Repr

end Sys2Proof
end

