-- ==== Sys2Proof/WellFormed.lean ====
section
/-!
DEFINITION. Well-formed instructions: the operand values that decode accepts beyond the fixed
bits of an encoding (02 R52-R55, R58 and the limits each instruction chapter states). A word
whose field breaks one of them traps 0x02. The steps without a word have
no operands.
-/

namespace Sys2Proof

/-- A space code of 06 R163: 5 to 7 trap 0x02 (02 R52). -/
def spaceOk (s : BitVec 3) : Bool := decide (s.toNat < 5)

/-- The spaces of the full/empty instructions: GL and WM (06 R163). -/
def homeSpace (s : BitVec 3) : Bool := decide (s.toNat < 2)

/-- A vector code that is no queue port (06 R169). -/
def notQueue (d : BitVec 5) : Bool := decide (d.toNat < 28)

/-- A vector code that is no port at all (05 R136). -/
def notPort (d : BitVec 5) : Bool := decide (d.toNat < 24)

/-- A code of t0 to t3 (06 R191). -/
def isStream (d : BitVec 5) : Bool := decide (24 ≤ d.toNat ∧ d.toNat < 28)

/-- A code of m0 to m7 (02 R53). -/
def maskReg (d : BitVec 5) : Bool := decide (d.toNat < 8)

/-- Scope fields of `fence`, `bar` and `barnb` (06 R182): in level form ra is 0 and the level is
1 to 6; in register form the level field is 0. -/
def scopeOk (r : BitVec 1) (v : BitVec 3) (a : BitVec 5) : Bool :=
  if r == 0 then a == 0 && v != 0 && v != 7 else v == 0

/-- The float types are T = 4 to 7 (02 R54). -/
def isFloat (t : BitVec 3) : Bool := decide (4 ≤ t.toNat)

/-- The fields S, RM or U, and T of 02 R54 and R55. -/
def typeOk (s : BitVec 1) (r : BitVec 3) (t : BitVec 3) : Bool :=
  if isFloat t then s == 0 && r != 6 else decide (r.toNat < 2)

/-- As `typeOk`, for an integer type only. -/
def intType (s : BitVec 1) (r : BitVec 3) (t : BitVec 3) : Bool := typeOk s r t && ! isFloat t

/-- As `typeOk`, for a float type only. -/
def floatType (s : BitVec 1) (r : BitVec 3) (t : BitVec 3) : Bool := typeOk s r t && isFloat t

/-- An element format code of 05 R152. -/
def elemCode (c : BitVec 5) : Bool :=
  decide (c.toNat < 12) || decide (16 ≤ c.toNat ∧ c.toNat < 24)

/-- A sub-byte code and part of 05 R154: the part is below the slots of the container; an NF
code's width is checked at issue. -/
def subCode (c : BitVec 5) (n : BitVec 3) : Bool :=
  if c.toNat < 2 then decide (n.toNat < 2)
  else if c.toNat < 4 then decide (n.toNat < 4)
  else if c.toNat = 4 then true
  else decide (16 ≤ c.toNat ∧ c.toNat < 24)

/-- A control-register number that 04 R118 assigns. -/
def crAssigned (r : BitVec 12) : Bool :=
  let n := r.toNat
  decide (n ≤ 4) || n == 8 || decide (0x10 ≤ n ∧ n ≤ 0x19) || decide (0x20 ≤ n ∧ n ≤ 0x22)
    || decide (0x30 ≤ n ∧ n ≤ 0x32) || n == 0x40 || n == 0x50

/-- A control-register number that some slot may write with `cwr` or `crx` (04 R118, R124). -/
def crWritable (r : BitVec 12) : Bool :=
  let n := r.toNat
  decide (0x10 ≤ n ∧ n ≤ 0x19) || decide (0x20 ≤ n ∧ n ≤ 0x22)
    || decide (0x30 ≤ n ∧ n ≤ 0x32) || n == 0x50

/-- The operand values that an encoding admits. -/
def wellFormed (i : Instr) : Bool :=
  match i with
  | .nop => true
  | .j _ => true
  | .jal _ => true
  | .jr _ _ => true
  | .jalr _ _ _ => true
  | .bEq _ _ _ => true
  | .bNe _ _ _ => true
  | .bLt _ _ _ => true
  | .bGe _ _ _ => true
  | .bLtu _ _ _ => true
  | .bGeu _ _ _ => true
  | .loop v _ _ => v != 3
  | .lbrk v => v != 3
  | .lbrkStay v => v != 3
  | .fork _ _ _ => true
  | .join _ _ _ => true
  | .susp _ _ => true
  | .yield => true
  | .halt => true
  | .ldB _ _ s _ => spaceOk s
  | .ldBu _ _ s _ => spaceOk s
  | .ldH _ _ s _ => spaceOk s
  | .ldHu _ _ s _ => spaceOk s
  | .ldW _ _ s _ => spaceOk s
  | .ldWu _ _ s _ => spaceOk s
  | .ldD _ _ s _ => spaceOk s
  | .stB _ _ s _ => spaceOk s
  | .stH _ _ s _ => spaceOk s
  | .stW _ _ s _ => spaceOk s
  | .stD _ _ s _ => spaceOk s
  | .vld d _ s _ => spaceOk s && notQueue d
  | .vst _ _ s _ => spaceOk s
  | .vldm d _ s _ _ => spaceOk s && notQueue d
  | .vstm _ _ s _ _ => spaceOk s
  | .vgat d _ _ _ s => spaceOk s && notQueue d
  | .vsca _ _ _ _ s => spaceOk s
  | .pref _ s _ => s == 0
  | .ldfe _ _ s _ => homeSpace s
  | .ldfx _ _ s _ => homeSpace s
  | .stfe _ _ s _ => homeSpace s
  | .stff _ _ s _ => homeSpace s
  | .fepoll _ _ s _ => homeSpace s
  | .fesetE _ s _ => homeSpace s
  | .fesetF _ s _ => homeSpace s
  | .amo _ _ _ s _ o => decide (s.toNat < 2 ∧ o.toNat < 9)
  | .cas _ _ _ _ _ _ => true
  | .fenceAcq a v r => scopeOk r v a
  | .fenceRel a v r => scopeOk r v a
  | .fenceAr a v r => scopeOk r v a
  | .fenceSc a v r => scopeOk r v a
  | .bar _ a _ v r _ => scopeOk r v a
  | .barnb _ a _ v r _ => scopeOk r v a
  | .send _ _ _ => true
  | .recv d _ => notQueue d
  | .rprobe _ _ => true
  | .sbind d _ => isStream d
  | .sclose d => isStream d
  | .xcopy _ _ _ _ _ => true
  | .xcopyFill _ _ _ _ _ => true
  | .xgat _ _ _ => true
  | .xgatSca _ _ _ => true
  | .xgatScadd _ _ _ => true
  | .xform _ _ _ => true
  | .xformRans _ _ _ => true
  | .xcoll _ _ _ => true
  | .xcollBcast _ _ _ => true
  | .xwait _ _ => true
  | .xwaitPoll _ _ => true
  | .tlrchk _ _ => true
  | .lnew _ _ _ => true
  | .lfree _ => true
  | .lpose _ _ => true
  | .lcommit _ _ => true
  | .lsplit _ _ _ => true
  | .lmerge _ _ _ => true
  | .lerr _ _ => true
  | .lerrHdr _ _ => true
  | .lprice _ _ => true
  | .lorder _ _ => true
  | .llight _ _ _ => true
  | .llightBump _ => true
  | .lshadow _ _ => true
  | .lreqTmpl _ _ => true
  | .lreqNow _ => true
  | .lreqClr _ => true
  | .twput _ _ _ => true
  | .twget d _ _ => notQueue d
  | .twtest _ _ => true
  | .crd _ r => crAssigned r
  | .cwr _ r => crWritable r
  | .crx _ _ r => crWritable r
  | .trap _ _ => true
  | .rte => true
  | .wrd _ _ _ => true
  | .wwr _ _ _ => true
  | .walloc _ => true
  | .wallocRel _ => true
  | .slotctlKill _ _ => true
  | .slotctlStat _ _ => true
  | .slotctlStop _ _ => true
  | .slotctlGo _ _ => true
  | .tsc _ i => decide (i.toNat < 2)
  | .wspx _ _ _ => true
  | .mlicQ _ => true
  | .mlicAcq _ => true
  | .mlicRel _ => true
  | .add _ _ _ => true
  | .sub _ _ _ => true
  | .and _ _ _ => true
  | .or _ _ _ => true
  | .xor _ _ _ => true
  | .shl _ _ _ => true
  | .shr _ _ _ => true
  | .sra _ _ _ => true
  | .mul _ _ _ => true
  | .mulh _ _ _ => true
  | .mulhu _ _ _ => true
  | .div _ _ _ => true
  | .divu _ _ _ => true
  | .rem _ _ _ => true
  | .remu _ _ _ => true
  | .min _ _ _ => true
  | .max _ _ _ => true
  | .minu _ _ _ => true
  | .maxu _ _ _ => true
  | .slt _ _ _ => true
  | .sltu _ _ _ => true
  | .clz _ _ => true
  | .ctz _ _ => true
  | .popc _ _ => true
  | .revB _ _ => true
  | .revBit _ _ => true
  | .ext _ _ u n => decide (u.toNat + n.toNat + 1 ≤ 64)
  | .ins _ _ u n => decide (u.toNat + n.toNat + 1 ≤ 64)
  | .sel _ _ _ _ => true
  | .addi _ _ _ => true
  | .andi _ _ _ => true
  | .ori _ _ _ => true
  | .xori _ _ _ => true
  | .shli _ _ _ => true
  | .shri _ _ _ => true
  | .srai _ _ _ => true
  | .slti _ _ _ => true
  | .kon _ _ => true
  | .konh _ _ => true
  | .sltiu _ _ _ => true
  | .vadd _ _ _ s r t => typeOk s r t
  | .vsub _ _ _ s r t => typeOk s r t
  | .vmul _ _ _ s r t => typeOk s r t
  | .vmulh _ _ _ s r t => intType s r t && s == 0
  | .vfma d _ _ s r t => typeOk s r t && notPort d
  | .vfms d _ _ s r t => typeOk s r t && notPort d
  | .vfnma d _ _ s r t => typeOk s r t && notPort d
  | .vdiv _ _ _ s r t => floatType s r t
  | .vsqrt _ _ s r t => floatType s r t
  | .vmin _ _ _ s r t => typeOk s r t && s == 0
  | .vmax _ _ _ s r t => typeOk s r t && s == 0
  | .vminn _ _ _ s r t => floatType s r t
  | .vmaxn _ _ _ s r t => floatType s r t
  | .vabs _ _ s r t => typeOk s r t
  | .vneg _ _ s r t => typeOk s r t
  | .vand _ _ _ => true
  | .vor _ _ _ => true
  | .vxor _ _ _ => true
  | .vnot _ _ => true
  | .vshl _ _ _ s r t => intType s r t
  | .vshr _ _ _ s r t => intType s r t && s == 0 && r == 0
  | .vsra _ _ _ s r t => intType s r t && s == 0 && r == 0
  | .vcmp d _ _ c u t => decide (d.toNat < 8) && c != 7 && (if isFloat t then u == 0 else c != 6)
  | .vsel _ _ _ c => decide (c.toNat < 8)
  | .vsplat _ _ u t => (! isFloat t || u == 0)
  | .vins d _ _ u t => notPort d && (! isFloat t || u == 0)
  | .vext _ _ _ u t => (! isFloat t || u == 0)
  | .vshuf _ _ _ => true
  | .vzip _ _ _ _ u t => (! isFloat t || u == 0)
  | .vunzip _ _ _ _ u t => (! isFloat t || u == 0)
  | .vred _ _ o s r t => typeOk s r t && decide (o.toNat < 5) && (! isFloat t || decide (o.toNat < 3))
  | .vdot d _ _ s r t => typeOk s r t && notPort d && (t == 0 || t == 1 || t == 4 || t == 5)
  | .vsad d _ _ s r t => typeOk s r t && notPort d && decide (t.toNat < 2)
  | .vcvt _ _ s _ t => elemCode s && elemCode t
  | .vpack d _ n s c => notPort d && subCode c n && (s == 0 || decide (c.toNat < 5))
  | .vunpack _ _ n c => subCode c n
  | .vrcp _ _ s r t => floatType s r t
  | .vrsq _ _ s r t => floatType s r t
  | .vexp2 _ _ s r t => floatType s r t
  | .vlog2 _ _ s r t => floatType s r t
  | .vsin _ _ s r t => floatType s r t
  | .vcos _ _ s r t => floatType s r t
  | .vclass _ _ t => isFloat t
  | .vmov _ _ => true
  | .mand d a b => maskReg d && maskReg a && maskReg b
  | .mandNot d a b => maskReg d && maskReg a && maskReg b
  | .mor d a b => maskReg d && maskReg a && maskReg b
  | .morG d _ _ => maskReg d
  | .mxor d a b => maskReg d && maskReg a && maskReg b
  | .mnot d a => maskReg d && maskReg a
  | .mcnt _ a => maskReg a
  | .mcntRaw _ a => maskReg a
  | .mfirst _ a => maskReg a
  | .bbind _ _ => true
  | .bget _ i => decide (1 ≤ i.toNat ∧ i.toNat ≤ 64)
  | .bgetv _ _ => true
  | .bpeek _ i => decide (1 ≤ i.toNat ∧ i.toNat ≤ 64)
  | .bskip _ _ => true
  | .bpos _ => true
  | .bposLeft _ => true
  | .bposState _ => true
  | .ansd _ _ _ => true
  | .mma _ _ _ e q _ _ => (e == 1 || q == 0)
  | .mmac _ _ _ e q _ _ => (e == 1 || q == 0)
  | .mmz _ _ => true
  | .mmd _ _ e q _ _ => (e == 1 || q == 0)
  | .munf _ _ _ => true
  | .qld _ _ s => decide (1 ≤ s.toNat ∧ s.toNat ≤ 3)
  | .qst _ _ s => decide (1 ≤ s.toNat ∧ s.toNat ≤ 3)
  | .qcomp _ _ _ => true
  | .qinv _ _ => true
  | .qrnd _ => true
  | .qid _ => true
  | .qapp _ _ _ => true
  | .qtile _ _ => true
  | .qcyc _ _ => true
  | .qchk _ _ s => decide (1 ≤ s.toNat ∧ s.toNat ≤ 3)
  | .barrelTurn => true
  | .asyncResultWrite => true
  | .deferredTrap => true
  | .trapRecordEnqueue => true
  | .storeBufferDrain => true
  | .stationWrite => true
  | .homeAtomic => true
  | .feHomeOperation => true
  | .waitLimitTrap => true
  | .twinWaitLimitTrap => true
  | .barrierArrival => true
  | .channelDelivery => true
  | .streamElementArrival => true
  | .engineCommandStart => true
  | .engineCommandComplete => true
  | .collectiveComplete => true
  | .matrixOperationRetire => true
  | .routeSolveComplete => true
  | .licenceService => true
  | .licenceQuantumExpiry => true
  | .licencePass => true
  | .forkRecordPush => true
  | .idleSlotSeek => true
  | .hangDetected => true
  | .slotLevelApply => true
  | .boostIntervalBoundary => true
  | .widxUpdate => true
  | .gafferServiceStep => true
  | .launch => true
  | .wait => true
  | .signal => true
  | .barrierAnd => true
  | .sceneFrame => true
  | .cohortWrite => true
  | .signalReread => true
  | .launchComplete => true
  | .dieReport => true
  | .qholdExpiry => true
  | .pageRequestReply => true
  | .pageRequestTimeout => true
  | .preemptionInterrupt => true
  | .preemptionSave => true
  | .contextResume => true
  | .messageForward => true
  | .layerInstructionPerform => true
  | .frameStart => true
  | .frameEnd => true
  | .status => true
  | .qreg => true
  | .qunreg => true
  | .part => true
  | .savereg => true
  | .inval => true
  | .lmeta => true
  | .scrub => true
  | .errcnt => true
  | .staging => true
  | .stage => true
  | .horead => true
  | .registerWrite => true
  | .quiesceSafePoint => true
  | .quiesceTimeout => true
  | .heartbeat => true
  | .probationDeadline => true
  | .fallback => true
  | .keyDerivationComplete => true
  | .powerGood => true
  | .memoryTrained => true
  | .getVersion => true
  | .getCapabilities => true
  | .negotiateAlgorithms => true
  | .getDigests => true
  | .getCertificate => true
  | .challenge => true
  | .getMeasurements => true
  | .linkTraining => true
  | .hostDeviceMemoryAccess => true
  | .linkDown => true
  | .linkDownTimeout => true
  | .kenlinkTraining => true
  | .peerGlAccess => true
  | .peerDeviceFailed => true
  | .thermalLevelEnter => true
  | .thermalLevelLeave => true
  | .hardTrip => true
  | .standbyRailLoss => true

end Sys2Proof
end

