-- ==== Sys2Proof/Decode.lean ====
section
/-!
DEFINITION. The decoder and the encoder of one instruction word (02 R44, R51-R58): bit 31 L,
bit 30 K, bit 29 P, bits 28 to 22 the opcode, bits 21 to 0 the operands. L and P belong to the
bundle and are read by `Machine/Bundle.lean`; both functions here leave them out.
-/

namespace Sys2Proof

/-- Why a word is no instruction: its opcode is reserved (02 R48, cause 0x01), a reserved field
or field value is non-zero (cause 0x02), or an engine word names an operation that its engine
reserves, which is found when the header is accepted (08 R235, R236, cause 0x84). -/
inductive DecodeErr where
  | reservedOp | reservedField | engineOpc
deriving DecidableEq, Repr

/-- The instruction, if its operand values are those an encoding admits. -/
def admitted (i : Instr) : Except DecodeErr Instr :=
  if wellFormed i then .ok i else .error .reservedField

/-- The C-class opcodes (02 R56). -/
def decodeC (op : Nat) (w : BitVec 32) : Except DecodeErr Instr :=
  match op with
  | 0 =>
    if w &&& 4194303 == 0 then admitted (.nop)
    else .error .reservedField
  | 1 =>
    admitted (.j (w.extractLsb' 0 22))
  | 2 =>
    admitted (.jal (w.extractLsb' 0 22))
  | 3 =>
    if w &&& 4063232 == 0 then admitted (.jr (w.extractLsb' 12 5) (w.extractLsb' 0 12))
    else .error .reservedField
  | 4 =>
    admitted (.jalr (w.extractLsb' 17 5) (w.extractLsb' 12 5) (w.extractLsb' 0 12))
  | 5 =>
    admitted (.bEq (w.extractLsb' 17 5) (w.extractLsb' 12 5) (w.extractLsb' 0 12))
  | 6 =>
    admitted (.bNe (w.extractLsb' 17 5) (w.extractLsb' 12 5) (w.extractLsb' 0 12))
  | 7 =>
    admitted (.bLt (w.extractLsb' 17 5) (w.extractLsb' 12 5) (w.extractLsb' 0 12))
  | 8 =>
    admitted (.bGe (w.extractLsb' 17 5) (w.extractLsb' 12 5) (w.extractLsb' 0 12))
  | 9 =>
    admitted (.bLtu (w.extractLsb' 17 5) (w.extractLsb' 12 5) (w.extractLsb' 0 12))
  | 10 =>
    admitted (.bGeu (w.extractLsb' 17 5) (w.extractLsb' 12 5) (w.extractLsb' 0 12))
  | 11 =>
    admitted (.loop (w.extractLsb' 20 2) (w.extractLsb' 15 5) (w.extractLsb' 0 15))
  | 12 =>
    if w &&& 1048575 == 0 then admitted (.lbrk (w.extractLsb' 20 2))
    else if w &&& 1048575 == 1 then admitted (.lbrkStay (w.extractLsb' 20 2))
    else .error .reservedField
  | 13 =>
    admitted (.fork (w.extractLsb' 17 5) (w.extractLsb' 12 5) (w.extractLsb' 0 12))
  | 14 =>
    admitted (.join (w.extractLsb' 17 5) (w.extractLsb' 12 5) (w.extractLsb' 0 12))
  | 15 =>
    if w &&& 4063232 == 0 then admitted (.susp (w.extractLsb' 12 5) (w.extractLsb' 0 12))
    else .error .reservedField
  | 16 =>
    if w &&& 4194303 == 0 then admitted (.yield)
    else .error .reservedField
  | 17 =>
    if w &&& 4194303 == 0 then admitted (.halt)
    else .error .reservedField
  | 20 =>
    admitted (.ldB (w.extractLsb' 17 5) (w.extractLsb' 12 5) (w.extractLsb' 9 3) (w.extractLsb' 0 9))
  | 21 =>
    admitted (.ldBu (w.extractLsb' 17 5) (w.extractLsb' 12 5) (w.extractLsb' 9 3) (w.extractLsb' 0 9))
  | 22 =>
    admitted (.ldH (w.extractLsb' 17 5) (w.extractLsb' 12 5) (w.extractLsb' 9 3) (w.extractLsb' 0 9))
  | 23 =>
    admitted (.ldHu (w.extractLsb' 17 5) (w.extractLsb' 12 5) (w.extractLsb' 9 3) (w.extractLsb' 0 9))
  | 24 =>
    admitted (.ldW (w.extractLsb' 17 5) (w.extractLsb' 12 5) (w.extractLsb' 9 3) (w.extractLsb' 0 9))
  | 25 =>
    admitted (.ldWu (w.extractLsb' 17 5) (w.extractLsb' 12 5) (w.extractLsb' 9 3) (w.extractLsb' 0 9))
  | 26 =>
    admitted (.ldD (w.extractLsb' 17 5) (w.extractLsb' 12 5) (w.extractLsb' 9 3) (w.extractLsb' 0 9))
  | 27 =>
    admitted (.stB (w.extractLsb' 17 5) (w.extractLsb' 12 5) (w.extractLsb' 9 3) (w.extractLsb' 0 9))
  | 28 =>
    admitted (.stH (w.extractLsb' 17 5) (w.extractLsb' 12 5) (w.extractLsb' 9 3) (w.extractLsb' 0 9))
  | 29 =>
    admitted (.stW (w.extractLsb' 17 5) (w.extractLsb' 12 5) (w.extractLsb' 9 3) (w.extractLsb' 0 9))
  | 30 =>
    admitted (.stD (w.extractLsb' 17 5) (w.extractLsb' 12 5) (w.extractLsb' 9 3) (w.extractLsb' 0 9))
  | 31 =>
    admitted (.vld (w.extractLsb' 17 5) (w.extractLsb' 12 5) (w.extractLsb' 9 3) (w.extractLsb' 0 9))
  | 32 =>
    admitted (.vst (w.extractLsb' 17 5) (w.extractLsb' 12 5) (w.extractLsb' 9 3) (w.extractLsb' 0 9))
  | 33 =>
    admitted (.vldm (w.extractLsb' 17 5) (w.extractLsb' 12 5) (w.extractLsb' 9 3) (w.extractLsb' 6 3) (w.extractLsb' 0 6))
  | 34 =>
    admitted (.vstm (w.extractLsb' 17 5) (w.extractLsb' 12 5) (w.extractLsb' 9 3) (w.extractLsb' 6 3) (w.extractLsb' 0 6))
  | 35 =>
    if w &&& 96 == 0 then admitted (.vgat (w.extractLsb' 17 5) (w.extractLsb' 12 5) (w.extractLsb' 7 5) (w.extractLsb' 3 2) (w.extractLsb' 0 3))
    else .error .reservedField
  | 36 =>
    if w &&& 96 == 0 then admitted (.vsca (w.extractLsb' 17 5) (w.extractLsb' 12 5) (w.extractLsb' 7 5) (w.extractLsb' 3 2) (w.extractLsb' 0 3))
    else .error .reservedField
  | 37 =>
    if w &&& 4063232 == 0 then admitted (.pref (w.extractLsb' 12 5) (w.extractLsb' 9 3) (w.extractLsb' 0 9))
    else .error .reservedField
  | 38 =>
    admitted (.ldfe (w.extractLsb' 17 5) (w.extractLsb' 12 5) (w.extractLsb' 9 3) (w.extractLsb' 0 9))
  | 39 =>
    admitted (.ldfx (w.extractLsb' 17 5) (w.extractLsb' 12 5) (w.extractLsb' 9 3) (w.extractLsb' 0 9))
  | 40 =>
    admitted (.stfe (w.extractLsb' 17 5) (w.extractLsb' 12 5) (w.extractLsb' 9 3) (w.extractLsb' 0 9))
  | 41 =>
    admitted (.stff (w.extractLsb' 17 5) (w.extractLsb' 12 5) (w.extractLsb' 9 3) (w.extractLsb' 0 9))
  | 42 =>
    admitted (.fepoll (w.extractLsb' 17 5) (w.extractLsb' 12 5) (w.extractLsb' 9 3) (w.extractLsb' 0 9))
  | 43 =>
    if w &&& 4063232 == 0 then admitted (.fesetE (w.extractLsb' 12 5) (w.extractLsb' 9 3) (w.extractLsb' 0 9))
    else if w &&& 4063232 == 131072 then admitted (.fesetF (w.extractLsb' 12 5) (w.extractLsb' 9 3) (w.extractLsb' 0 9))
    else .error .reservedField
  | 44 =>
    admitted (.amo (w.extractLsb' 17 5) (w.extractLsb' 12 5) (w.extractLsb' 7 5) (w.extractLsb' 5 2) (w.extractLsb' 4 1) (w.extractLsb' 0 4))
  | 45 =>
    admitted (.cas (w.extractLsb' 17 5) (w.extractLsb' 12 5) (w.extractLsb' 7 5) (w.extractLsb' 2 5) (w.extractLsb' 1 1) (w.extractLsb' 0 1))
  | 47 =>
    if w &&& 4067267 == 0 then admitted (.fenceAcq (w.extractLsb' 12 5) (w.extractLsb' 3 3) (w.extractLsb' 2 1))
    else if w &&& 4067267 == 1 then admitted (.fenceRel (w.extractLsb' 12 5) (w.extractLsb' 3 3) (w.extractLsb' 2 1))
    else if w &&& 4067267 == 2 then admitted (.fenceAr (w.extractLsb' 12 5) (w.extractLsb' 3 3) (w.extractLsb' 2 1))
    else if w &&& 4067267 == 3 then admitted (.fenceSc (w.extractLsb' 12 5) (w.extractLsb' 3 3) (w.extractLsb' 2 1))
    else .error .reservedField
  | 48 =>
    if w &&& 64 == 0 then admitted (.bar (w.extractLsb' 17 5) (w.extractLsb' 12 5) (w.extractLsb' 7 5) (w.extractLsb' 3 3) (w.extractLsb' 2 1) (w.extractLsb' 0 2))
    else .error .reservedField
  | 49 =>
    if w &&& 64 == 0 then admitted (.barnb (w.extractLsb' 17 5) (w.extractLsb' 12 5) (w.extractLsb' 7 5) (w.extractLsb' 3 3) (w.extractLsb' 2 1) (w.extractLsb' 0 2))
    else .error .reservedField
  | 50 =>
    if w &&& 4063296 == 0 then admitted (.send (w.extractLsb' 12 5) (w.extractLsb' 7 5) (w.extractLsb' 0 6))
    else .error .reservedField
  | 51 =>
    if w &&& 131008 == 0 then admitted (.recv (w.extractLsb' 17 5) (w.extractLsb' 0 6))
    else .error .reservedField
  | 52 =>
    if w &&& 131008 == 0 then admitted (.rprobe (w.extractLsb' 17 5) (w.extractLsb' 0 6))
    else .error .reservedField
  | 53 =>
    if w &&& 4095 == 0 then admitted (.sbind (w.extractLsb' 17 5) (w.extractLsb' 12 5))
    else .error .reservedField
  | 54 =>
    if w &&& 131071 == 0 then admitted (.sclose (w.extractLsb' 17 5))
    else .error .reservedField
  | 55 =>
    if w &&& 7 == 0 then admitted (.xcopy (w.extractLsb' 17 5) (w.extractLsb' 12 5) (w.extractLsb' 7 5) (w.extractLsb' 6 1) (w.extractLsb' 3 3))
    else if w &&& 7 == 1 then admitted (.xcopyFill (w.extractLsb' 17 5) (w.extractLsb' 12 5) (w.extractLsb' 7 5) (w.extractLsb' 6 1) (w.extractLsb' 3 3))
    else .error .engineOpc
  | 56 =>
    if w &&& 127 == 0 then admitted (.xgat (w.extractLsb' 17 5) (w.extractLsb' 12 5) (w.extractLsb' 7 5))
    else if w &&& 127 == 1 then admitted (.xgatSca (w.extractLsb' 17 5) (w.extractLsb' 12 5) (w.extractLsb' 7 5))
    else if w &&& 127 == 2 then admitted (.xgatScadd (w.extractLsb' 17 5) (w.extractLsb' 12 5) (w.extractLsb' 7 5))
    else if w &&& 120 == 0 then .error .engineOpc
    else .error .reservedField
  | 57 =>
    if w &&& 127 == 0 then admitted (.xform (w.extractLsb' 17 5) (w.extractLsb' 12 5) (w.extractLsb' 7 5))
    else if w &&& 127 == 1 then admitted (.xformRans (w.extractLsb' 17 5) (w.extractLsb' 12 5) (w.extractLsb' 7 5))
    else if w &&& 120 == 0 then .error .engineOpc
    else .error .reservedField
  | 58 =>
    if w &&& 127 == 0 then admitted (.xcoll (w.extractLsb' 17 5) (w.extractLsb' 12 5) (w.extractLsb' 7 5))
    else if w &&& 127 == 1 then admitted (.xcollBcast (w.extractLsb' 17 5) (w.extractLsb' 12 5) (w.extractLsb' 7 5))
    else if w &&& 120 == 0 then .error .engineOpc
    else .error .reservedField
  | 59 =>
    if w &&& 4095 == 0 then admitted (.xwait (w.extractLsb' 17 5) (w.extractLsb' 12 5))
    else if w &&& 4095 == 1 then admitted (.xwaitPoll (w.extractLsb' 17 5) (w.extractLsb' 12 5))
    else .error .reservedField
  | 60 =>
    if w &&& 4095 == 0 then admitted (.tlrchk (w.extractLsb' 17 5) (w.extractLsb' 12 5))
    else .error .reservedField
  | 61 =>
    if w &&& 127 == 0 then admitted (.lnew (w.extractLsb' 17 5) (w.extractLsb' 12 5) (w.extractLsb' 7 5))
    else .error .reservedField
  | 62 =>
    if w &&& 131071 == 0 then admitted (.lfree (w.extractLsb' 17 5))
    else .error .reservedField
  | 63 =>
    if w &&& 4095 == 0 then admitted (.lpose (w.extractLsb' 17 5) (w.extractLsb' 12 5))
    else .error .reservedField
  | 64 =>
    if w &&& 4095 == 0 then admitted (.lcommit (w.extractLsb' 17 5) (w.extractLsb' 12 5))
    else .error .reservedField
  | 65 =>
    if w &&& 127 == 0 then admitted (.lsplit (w.extractLsb' 17 5) (w.extractLsb' 12 5) (w.extractLsb' 7 5))
    else .error .reservedField
  | 66 =>
    if w &&& 127 == 0 then admitted (.lmerge (w.extractLsb' 17 5) (w.extractLsb' 12 5) (w.extractLsb' 7 5))
    else .error .reservedField
  | 67 =>
    if w &&& 4095 == 0 then admitted (.lerr (w.extractLsb' 17 5) (w.extractLsb' 12 5))
    else if w &&& 4095 == 1 then admitted (.lerrHdr (w.extractLsb' 17 5) (w.extractLsb' 12 5))
    else .error .reservedField
  | 68 =>
    if w &&& 4095 == 0 then admitted (.lprice (w.extractLsb' 17 5) (w.extractLsb' 12 5))
    else .error .reservedField
  | 69 =>
    if w &&& 4095 == 0 then admitted (.lorder (w.extractLsb' 17 5) (w.extractLsb' 12 5))
    else .error .reservedField
  | 70 =>
    if w &&& 127 == 0 then admitted (.llight (w.extractLsb' 17 5) (w.extractLsb' 12 5) (w.extractLsb' 7 5))
    else if w &&& 131071 == 1 then admitted (.llightBump (w.extractLsb' 17 5))
    else .error .reservedField
  | 71 =>
    if w &&& 4095 == 0 then admitted (.lshadow (w.extractLsb' 17 5) (w.extractLsb' 12 5))
    else .error .reservedField
  | 72 =>
    if w &&& 4095 == 0 then admitted (.lreqTmpl (w.extractLsb' 17 5) (w.extractLsb' 12 5))
    else if w &&& 131071 == 1 then admitted (.lreqNow (w.extractLsb' 17 5))
    else if w &&& 131071 == 2 then admitted (.lreqClr (w.extractLsb' 17 5))
    else .error .reservedField
  | 73 =>
    if w &&& 131040 == 0 then admitted (.twput (w.extractLsb' 17 5) (w.extractLsb' 4 1) (w.extractLsb' 0 4))
    else .error .reservedField
  | 74 =>
    if w &&& 131040 == 0 then admitted (.twget (w.extractLsb' 17 5) (w.extractLsb' 4 1) (w.extractLsb' 0 4))
    else .error .reservedField
  | 75 =>
    if w &&& 131070 == 0 then admitted (.twtest (w.extractLsb' 17 5) (w.extractLsb' 0 1))
    else .error .reservedField
  | 76 =>
    if w &&& 126976 == 0 then admitted (.crd (w.extractLsb' 17 5) (w.extractLsb' 0 12))
    else .error .reservedField
  | 77 =>
    if w &&& 4063232 == 0 then admitted (.cwr (w.extractLsb' 12 5) (w.extractLsb' 0 12))
    else .error .reservedField
  | 78 =>
    admitted (.crx (w.extractLsb' 17 5) (w.extractLsb' 12 5) (w.extractLsb' 0 12))
  | 79 =>
    if w &&& 4067312 == 0 then admitted (.trap (w.extractLsb' 12 5) (w.extractLsb' 0 4))
    else .error .reservedField
  | 80 =>
    if w &&& 4194303 == 0 then admitted (.rte)
    else .error .reservedField
  | 81 =>
    if w &&& 127 == 0 then admitted (.wrd (w.extractLsb' 17 5) (w.extractLsb' 12 5) (w.extractLsb' 7 5))
    else .error .reservedField
  | 82 =>
    if w &&& 127 == 0 then admitted (.wwr (w.extractLsb' 17 5) (w.extractLsb' 12 5) (w.extractLsb' 7 5))
    else .error .reservedField
  | 83 =>
    if w &&& 131071 == 0 then admitted (.walloc (w.extractLsb' 17 5))
    else if w &&& 4067327 == 1 then admitted (.wallocRel (w.extractLsb' 12 5))
    else .error .reservedField
  | 84 =>
    if w &&& 4095 == 0 then admitted (.slotctlKill (w.extractLsb' 17 5) (w.extractLsb' 12 5))
    else if w &&& 4095 == 1 then admitted (.slotctlStat (w.extractLsb' 17 5) (w.extractLsb' 12 5))
    else if w &&& 4095 == 2 then admitted (.slotctlStop (w.extractLsb' 17 5) (w.extractLsb' 12 5))
    else if w &&& 4095 == 3 then admitted (.slotctlGo (w.extractLsb' 17 5) (w.extractLsb' 12 5))
    else .error .reservedField
  | 85 =>
    if w &&& 126976 == 0 then admitted (.tsc (w.extractLsb' 17 5) (w.extractLsb' 0 12))
    else .error .reservedField
  | 86 =>
    if w &&& 127 == 0 then admitted (.wspx (w.extractLsb' 17 5) (w.extractLsb' 12 5) (w.extractLsb' 7 5))
    else .error .reservedField
  | 87 =>
    if w &&& 131071 == 0 then admitted (.mlicQ (w.extractLsb' 17 5))
    else if w &&& 131071 == 1 then admitted (.mlicAcq (w.extractLsb' 17 5))
    else if w &&& 131071 == 2 then admitted (.mlicRel (w.extractLsb' 17 5))
    else .error .reservedField
  | _ => .error .reservedOp

/-- The A-class opcodes (02 R57). -/
def decodeA (op : Nat) (w : BitVec 32) : Except DecodeErr Instr :=
  match op with
  | 0 =>
    if w &&& 127 == 0 then admitted (.add (w.extractLsb' 17 5) (w.extractLsb' 12 5) (w.extractLsb' 7 5))
    else .error .reservedField
  | 1 =>
    if w &&& 127 == 0 then admitted (.sub (w.extractLsb' 17 5) (w.extractLsb' 12 5) (w.extractLsb' 7 5))
    else .error .reservedField
  | 2 =>
    if w &&& 127 == 0 then admitted (.and (w.extractLsb' 17 5) (w.extractLsb' 12 5) (w.extractLsb' 7 5))
    else .error .reservedField
  | 3 =>
    if w &&& 127 == 0 then admitted (.or (w.extractLsb' 17 5) (w.extractLsb' 12 5) (w.extractLsb' 7 5))
    else .error .reservedField
  | 4 =>
    if w &&& 127 == 0 then admitted (.xor (w.extractLsb' 17 5) (w.extractLsb' 12 5) (w.extractLsb' 7 5))
    else .error .reservedField
  | 5 =>
    if w &&& 127 == 0 then admitted (.shl (w.extractLsb' 17 5) (w.extractLsb' 12 5) (w.extractLsb' 7 5))
    else .error .reservedField
  | 6 =>
    if w &&& 127 == 0 then admitted (.shr (w.extractLsb' 17 5) (w.extractLsb' 12 5) (w.extractLsb' 7 5))
    else .error .reservedField
  | 7 =>
    if w &&& 127 == 0 then admitted (.sra (w.extractLsb' 17 5) (w.extractLsb' 12 5) (w.extractLsb' 7 5))
    else .error .reservedField
  | 8 =>
    if w &&& 127 == 0 then admitted (.mul (w.extractLsb' 17 5) (w.extractLsb' 12 5) (w.extractLsb' 7 5))
    else .error .reservedField
  | 9 =>
    if w &&& 127 == 0 then admitted (.mulh (w.extractLsb' 17 5) (w.extractLsb' 12 5) (w.extractLsb' 7 5))
    else .error .reservedField
  | 10 =>
    if w &&& 127 == 0 then admitted (.mulhu (w.extractLsb' 17 5) (w.extractLsb' 12 5) (w.extractLsb' 7 5))
    else .error .reservedField
  | 11 =>
    if w &&& 127 == 0 then admitted (.div (w.extractLsb' 17 5) (w.extractLsb' 12 5) (w.extractLsb' 7 5))
    else .error .reservedField
  | 12 =>
    if w &&& 127 == 0 then admitted (.divu (w.extractLsb' 17 5) (w.extractLsb' 12 5) (w.extractLsb' 7 5))
    else .error .reservedField
  | 13 =>
    if w &&& 127 == 0 then admitted (.rem (w.extractLsb' 17 5) (w.extractLsb' 12 5) (w.extractLsb' 7 5))
    else .error .reservedField
  | 14 =>
    if w &&& 127 == 0 then admitted (.remu (w.extractLsb' 17 5) (w.extractLsb' 12 5) (w.extractLsb' 7 5))
    else .error .reservedField
  | 15 =>
    if w &&& 127 == 0 then admitted (.min (w.extractLsb' 17 5) (w.extractLsb' 12 5) (w.extractLsb' 7 5))
    else .error .reservedField
  | 16 =>
    if w &&& 127 == 0 then admitted (.max (w.extractLsb' 17 5) (w.extractLsb' 12 5) (w.extractLsb' 7 5))
    else .error .reservedField
  | 17 =>
    if w &&& 127 == 0 then admitted (.minu (w.extractLsb' 17 5) (w.extractLsb' 12 5) (w.extractLsb' 7 5))
    else .error .reservedField
  | 18 =>
    if w &&& 127 == 0 then admitted (.maxu (w.extractLsb' 17 5) (w.extractLsb' 12 5) (w.extractLsb' 7 5))
    else .error .reservedField
  | 19 =>
    if w &&& 127 == 0 then admitted (.slt (w.extractLsb' 17 5) (w.extractLsb' 12 5) (w.extractLsb' 7 5))
    else .error .reservedField
  | 20 =>
    if w &&& 127 == 0 then admitted (.sltu (w.extractLsb' 17 5) (w.extractLsb' 12 5) (w.extractLsb' 7 5))
    else .error .reservedField
  | 21 =>
    if w &&& 4095 == 0 then admitted (.clz (w.extractLsb' 17 5) (w.extractLsb' 12 5))
    else .error .reservedField
  | 22 =>
    if w &&& 4095 == 0 then admitted (.ctz (w.extractLsb' 17 5) (w.extractLsb' 12 5))
    else .error .reservedField
  | 23 =>
    if w &&& 4095 == 0 then admitted (.popc (w.extractLsb' 17 5) (w.extractLsb' 12 5))
    else .error .reservedField
  | 24 =>
    if w &&& 4095 == 0 then admitted (.revB (w.extractLsb' 17 5) (w.extractLsb' 12 5))
    else if w &&& 4095 == 1 then admitted (.revBit (w.extractLsb' 17 5) (w.extractLsb' 12 5))
    else .error .reservedField
  | 25 =>
    admitted (.ext (w.extractLsb' 17 5) (w.extractLsb' 12 5) (w.extractLsb' 6 6) (w.extractLsb' 0 6))
  | 26 =>
    admitted (.ins (w.extractLsb' 17 5) (w.extractLsb' 12 5) (w.extractLsb' 6 6) (w.extractLsb' 0 6))
  | 27 =>
    if w &&& 3 == 0 then admitted (.sel (w.extractLsb' 17 5) (w.extractLsb' 12 5) (w.extractLsb' 7 5) (w.extractLsb' 2 5))
    else .error .reservedField
  | 28 =>
    admitted (.addi (w.extractLsb' 17 5) (w.extractLsb' 12 5) (w.extractLsb' 0 12))
  | 29 =>
    admitted (.andi (w.extractLsb' 17 5) (w.extractLsb' 12 5) (w.extractLsb' 0 12))
  | 30 =>
    admitted (.ori (w.extractLsb' 17 5) (w.extractLsb' 12 5) (w.extractLsb' 0 12))
  | 31 =>
    admitted (.xori (w.extractLsb' 17 5) (w.extractLsb' 12 5) (w.extractLsb' 0 12))
  | 32 =>
    if w &&& 4032 == 0 then admitted (.shli (w.extractLsb' 17 5) (w.extractLsb' 12 5) (w.extractLsb' 0 6))
    else .error .reservedField
  | 33 =>
    if w &&& 4032 == 0 then admitted (.shri (w.extractLsb' 17 5) (w.extractLsb' 12 5) (w.extractLsb' 0 6))
    else .error .reservedField
  | 34 =>
    if w &&& 4032 == 0 then admitted (.srai (w.extractLsb' 17 5) (w.extractLsb' 12 5) (w.extractLsb' 0 6))
    else .error .reservedField
  | 35 =>
    admitted (.slti (w.extractLsb' 17 5) (w.extractLsb' 12 5) (w.extractLsb' 0 12))
  | 36 =>
    admitted (.kon (w.extractLsb' 17 5) (w.extractLsb' 0 17))
  | 37 =>
    admitted (.konh (w.extractLsb' 17 5) (w.extractLsb' 0 17))
  | 38 =>
    admitted (.sltiu (w.extractLsb' 17 5) (w.extractLsb' 12 5) (w.extractLsb' 0 12))
  | 40 =>
    admitted (.vadd (w.extractLsb' 17 5) (w.extractLsb' 12 5) (w.extractLsb' 7 5) (w.extractLsb' 6 1) (w.extractLsb' 3 3) (w.extractLsb' 0 3))
  | 41 =>
    admitted (.vsub (w.extractLsb' 17 5) (w.extractLsb' 12 5) (w.extractLsb' 7 5) (w.extractLsb' 6 1) (w.extractLsb' 3 3) (w.extractLsb' 0 3))
  | 42 =>
    admitted (.vmul (w.extractLsb' 17 5) (w.extractLsb' 12 5) (w.extractLsb' 7 5) (w.extractLsb' 6 1) (w.extractLsb' 3 3) (w.extractLsb' 0 3))
  | 43 =>
    admitted (.vmulh (w.extractLsb' 17 5) (w.extractLsb' 12 5) (w.extractLsb' 7 5) (w.extractLsb' 6 1) (w.extractLsb' 3 3) (w.extractLsb' 0 3))
  | 44 =>
    admitted (.vfma (w.extractLsb' 17 5) (w.extractLsb' 12 5) (w.extractLsb' 7 5) (w.extractLsb' 6 1) (w.extractLsb' 3 3) (w.extractLsb' 0 3))
  | 45 =>
    admitted (.vfms (w.extractLsb' 17 5) (w.extractLsb' 12 5) (w.extractLsb' 7 5) (w.extractLsb' 6 1) (w.extractLsb' 3 3) (w.extractLsb' 0 3))
  | 46 =>
    admitted (.vfnma (w.extractLsb' 17 5) (w.extractLsb' 12 5) (w.extractLsb' 7 5) (w.extractLsb' 6 1) (w.extractLsb' 3 3) (w.extractLsb' 0 3))
  | 47 =>
    admitted (.vdiv (w.extractLsb' 17 5) (w.extractLsb' 12 5) (w.extractLsb' 7 5) (w.extractLsb' 6 1) (w.extractLsb' 3 3) (w.extractLsb' 0 3))
  | 48 =>
    if w &&& 3968 == 0 then admitted (.vsqrt (w.extractLsb' 17 5) (w.extractLsb' 12 5) (w.extractLsb' 6 1) (w.extractLsb' 3 3) (w.extractLsb' 0 3))
    else .error .reservedField
  | 49 =>
    admitted (.vmin (w.extractLsb' 17 5) (w.extractLsb' 12 5) (w.extractLsb' 7 5) (w.extractLsb' 6 1) (w.extractLsb' 3 3) (w.extractLsb' 0 3))
  | 50 =>
    admitted (.vmax (w.extractLsb' 17 5) (w.extractLsb' 12 5) (w.extractLsb' 7 5) (w.extractLsb' 6 1) (w.extractLsb' 3 3) (w.extractLsb' 0 3))
  | 51 =>
    admitted (.vminn (w.extractLsb' 17 5) (w.extractLsb' 12 5) (w.extractLsb' 7 5) (w.extractLsb' 6 1) (w.extractLsb' 3 3) (w.extractLsb' 0 3))
  | 52 =>
    admitted (.vmaxn (w.extractLsb' 17 5) (w.extractLsb' 12 5) (w.extractLsb' 7 5) (w.extractLsb' 6 1) (w.extractLsb' 3 3) (w.extractLsb' 0 3))
  | 53 =>
    if w &&& 3968 == 0 then admitted (.vabs (w.extractLsb' 17 5) (w.extractLsb' 12 5) (w.extractLsb' 6 1) (w.extractLsb' 3 3) (w.extractLsb' 0 3))
    else .error .reservedField
  | 54 =>
    if w &&& 3968 == 0 then admitted (.vneg (w.extractLsb' 17 5) (w.extractLsb' 12 5) (w.extractLsb' 6 1) (w.extractLsb' 3 3) (w.extractLsb' 0 3))
    else .error .reservedField
  | 55 =>
    if w &&& 127 == 0 then admitted (.vand (w.extractLsb' 17 5) (w.extractLsb' 12 5) (w.extractLsb' 7 5))
    else .error .reservedField
  | 56 =>
    if w &&& 127 == 0 then admitted (.vor (w.extractLsb' 17 5) (w.extractLsb' 12 5) (w.extractLsb' 7 5))
    else .error .reservedField
  | 57 =>
    if w &&& 127 == 0 then admitted (.vxor (w.extractLsb' 17 5) (w.extractLsb' 12 5) (w.extractLsb' 7 5))
    else .error .reservedField
  | 58 =>
    if w &&& 4095 == 0 then admitted (.vnot (w.extractLsb' 17 5) (w.extractLsb' 12 5))
    else .error .reservedField
  | 59 =>
    admitted (.vshl (w.extractLsb' 17 5) (w.extractLsb' 12 5) (w.extractLsb' 7 5) (w.extractLsb' 6 1) (w.extractLsb' 3 3) (w.extractLsb' 0 3))
  | 60 =>
    admitted (.vshr (w.extractLsb' 17 5) (w.extractLsb' 12 5) (w.extractLsb' 7 5) (w.extractLsb' 6 1) (w.extractLsb' 3 3) (w.extractLsb' 0 3))
  | 61 =>
    admitted (.vsra (w.extractLsb' 17 5) (w.extractLsb' 12 5) (w.extractLsb' 7 5) (w.extractLsb' 6 1) (w.extractLsb' 3 3) (w.extractLsb' 0 3))
  | 62 =>
    admitted (.vcmp (w.extractLsb' 17 5) (w.extractLsb' 12 5) (w.extractLsb' 7 5) (w.extractLsb' 4 3) (w.extractLsb' 3 1) (w.extractLsb' 0 3))
  | 63 =>
    if w &&& 3 == 0 then admitted (.vsel (w.extractLsb' 17 5) (w.extractLsb' 12 5) (w.extractLsb' 7 5) (w.extractLsb' 2 5))
    else .error .reservedField
  | 64 =>
    if w &&& 4080 == 0 then admitted (.vsplat (w.extractLsb' 17 5) (w.extractLsb' 12 5) (w.extractLsb' 3 1) (w.extractLsb' 0 3))
    else .error .reservedField
  | 65 =>
    if w &&& 112 == 0 then admitted (.vins (w.extractLsb' 17 5) (w.extractLsb' 12 5) (w.extractLsb' 7 5) (w.extractLsb' 3 1) (w.extractLsb' 0 3))
    else .error .reservedField
  | 66 =>
    if w &&& 112 == 0 then admitted (.vext (w.extractLsb' 17 5) (w.extractLsb' 12 5) (w.extractLsb' 7 5) (w.extractLsb' 3 1) (w.extractLsb' 0 3))
    else .error .reservedField
  | 67 =>
    if w &&& 127 == 0 then admitted (.vshuf (w.extractLsb' 17 5) (w.extractLsb' 12 5) (w.extractLsb' 7 5))
    else .error .reservedField
  | 68 =>
    if w &&& 96 == 0 then admitted (.vzip (w.extractLsb' 17 5) (w.extractLsb' 12 5) (w.extractLsb' 7 5) (w.extractLsb' 4 1) (w.extractLsb' 3 1) (w.extractLsb' 0 3))
    else .error .reservedField
  | 69 =>
    if w &&& 96 == 0 then admitted (.vunzip (w.extractLsb' 17 5) (w.extractLsb' 12 5) (w.extractLsb' 7 5) (w.extractLsb' 4 1) (w.extractLsb' 3 1) (w.extractLsb' 0 3))
    else .error .reservedField
  | 70 =>
    admitted (.vred (w.extractLsb' 17 5) (w.extractLsb' 12 5) (w.extractLsb' 7 5) (w.extractLsb' 6 1) (w.extractLsb' 3 3) (w.extractLsb' 0 3))
  | 71 =>
    admitted (.vdot (w.extractLsb' 17 5) (w.extractLsb' 12 5) (w.extractLsb' 7 5) (w.extractLsb' 6 1) (w.extractLsb' 3 3) (w.extractLsb' 0 3))
  | 72 =>
    admitted (.vsad (w.extractLsb' 17 5) (w.extractLsb' 12 5) (w.extractLsb' 7 5) (w.extractLsb' 6 1) (w.extractLsb' 3 3) (w.extractLsb' 0 3))
  | 73 =>
    admitted (.vcvt (w.extractLsb' 17 5) (w.extractLsb' 12 5) (w.extractLsb' 7 5) (w.extractLsb' 5 2) (w.extractLsb' 0 5))
  | 74 =>
    if w &&& 3104 == 0 then admitted (.vpack (w.extractLsb' 17 5) (w.extractLsb' 12 5) (w.extractLsb' 7 3) (w.extractLsb' 6 1) (w.extractLsb' 0 5))
    else .error .reservedField
  | 75 =>
    if w &&& 3168 == 0 then admitted (.vunpack (w.extractLsb' 17 5) (w.extractLsb' 12 5) (w.extractLsb' 7 3) (w.extractLsb' 0 5))
    else .error .reservedField
  | 76 =>
    if w &&& 3968 == 0 then admitted (.vrcp (w.extractLsb' 17 5) (w.extractLsb' 12 5) (w.extractLsb' 6 1) (w.extractLsb' 3 3) (w.extractLsb' 0 3))
    else .error .reservedField
  | 77 =>
    if w &&& 3968 == 0 then admitted (.vrsq (w.extractLsb' 17 5) (w.extractLsb' 12 5) (w.extractLsb' 6 1) (w.extractLsb' 3 3) (w.extractLsb' 0 3))
    else .error .reservedField
  | 78 =>
    if w &&& 3968 == 0 then admitted (.vexp2 (w.extractLsb' 17 5) (w.extractLsb' 12 5) (w.extractLsb' 6 1) (w.extractLsb' 3 3) (w.extractLsb' 0 3))
    else .error .reservedField
  | 79 =>
    if w &&& 3968 == 0 then admitted (.vlog2 (w.extractLsb' 17 5) (w.extractLsb' 12 5) (w.extractLsb' 6 1) (w.extractLsb' 3 3) (w.extractLsb' 0 3))
    else .error .reservedField
  | 80 =>
    if w &&& 3968 == 0 then admitted (.vsin (w.extractLsb' 17 5) (w.extractLsb' 12 5) (w.extractLsb' 6 1) (w.extractLsb' 3 3) (w.extractLsb' 0 3))
    else .error .reservedField
  | 81 =>
    if w &&& 3968 == 0 then admitted (.vcos (w.extractLsb' 17 5) (w.extractLsb' 12 5) (w.extractLsb' 6 1) (w.extractLsb' 3 3) (w.extractLsb' 0 3))
    else .error .reservedField
  | 82 =>
    if w &&& 4088 == 0 then admitted (.vclass (w.extractLsb' 17 5) (w.extractLsb' 12 5) (w.extractLsb' 0 3))
    else .error .reservedField
  | 83 =>
    if w &&& 4095 == 0 then admitted (.vmov (w.extractLsb' 17 5) (w.extractLsb' 12 5))
    else .error .reservedField
  | 85 =>
    if w &&& 127 == 0 then admitted (.mand (w.extractLsb' 17 5) (w.extractLsb' 12 5) (w.extractLsb' 7 5))
    else if w &&& 127 == 1 then admitted (.mandNot (w.extractLsb' 17 5) (w.extractLsb' 12 5) (w.extractLsb' 7 5))
    else .error .reservedField
  | 86 =>
    if w &&& 127 == 0 then admitted (.mor (w.extractLsb' 17 5) (w.extractLsb' 12 5) (w.extractLsb' 7 5))
    else if w &&& 127 == 1 then admitted (.morG (w.extractLsb' 17 5) (w.extractLsb' 12 5) (w.extractLsb' 7 5))
    else .error .reservedField
  | 87 =>
    if w &&& 127 == 0 then admitted (.mxor (w.extractLsb' 17 5) (w.extractLsb' 12 5) (w.extractLsb' 7 5))
    else .error .reservedField
  | 88 =>
    if w &&& 4095 == 0 then admitted (.mnot (w.extractLsb' 17 5) (w.extractLsb' 12 5))
    else .error .reservedField
  | 89 =>
    if w &&& 4095 == 0 then admitted (.mcnt (w.extractLsb' 17 5) (w.extractLsb' 12 5))
    else if w &&& 4095 == 1 then admitted (.mcntRaw (w.extractLsb' 17 5) (w.extractLsb' 12 5))
    else .error .reservedField
  | 90 =>
    if w &&& 4095 == 0 then admitted (.mfirst (w.extractLsb' 17 5) (w.extractLsb' 12 5))
    else .error .reservedField
  | 91 =>
    if w &&& 4063359 == 0 then admitted (.bbind (w.extractLsb' 12 5) (w.extractLsb' 7 5))
    else .error .reservedField
  | 92 =>
    if w &&& 126976 == 0 then admitted (.bget (w.extractLsb' 17 5) (w.extractLsb' 0 12))
    else .error .reservedField
  | 93 =>
    if w &&& 4095 == 0 then admitted (.bgetv (w.extractLsb' 17 5) (w.extractLsb' 12 5))
    else .error .reservedField
  | 94 =>
    if w &&& 126976 == 0 then admitted (.bpeek (w.extractLsb' 17 5) (w.extractLsb' 0 12))
    else .error .reservedField
  | 95 =>
    if w &&& 4063232 == 0 then admitted (.bskip (w.extractLsb' 12 5) (w.extractLsb' 0 12))
    else .error .reservedField
  | 96 =>
    if w &&& 131071 == 0 then admitted (.bpos (w.extractLsb' 17 5))
    else if w &&& 131071 == 1 then admitted (.bposLeft (w.extractLsb' 17 5))
    else if w &&& 131071 == 2 then admitted (.bposState (w.extractLsb' 17 5))
    else .error .reservedField
  | 97 =>
    if w &&& 127 == 0 then admitted (.ansd (w.extractLsb' 17 5) (w.extractLsb' 12 5) (w.extractLsb' 7 5))
    else .error .reservedField
  | 98 =>
    if w &&& 4 == 0 then admitted (.mma (w.extractLsb' 17 5) (w.extractLsb' 12 5) (w.extractLsb' 7 5) (w.extractLsb' 6 1) (w.extractLsb' 3 3) (w.extractLsb' 1 1) (w.extractLsb' 0 1))
    else .error .reservedField
  | 99 =>
    if w &&& 4 == 0 then admitted (.mmac (w.extractLsb' 17 5) (w.extractLsb' 12 5) (w.extractLsb' 7 5) (w.extractLsb' 6 1) (w.extractLsb' 3 3) (w.extractLsb' 1 1) (w.extractLsb' 0 1))
    else .error .reservedField
  | 100 =>
    if w &&& 131070 == 0 then admitted (.mmz (w.extractLsb' 17 5) (w.extractLsb' 0 1))
    else .error .reservedField
  | 101 =>
    if w &&& 3969 == 0 then admitted (.mmd (w.extractLsb' 17 5) (w.extractLsb' 12 5) (w.extractLsb' 6 1) (w.extractLsb' 3 3) (w.extractLsb' 2 1) (w.extractLsb' 1 1))
    else .error .reservedField
  | 102 =>
    if w &&& 127 == 0 then admitted (.munf (w.extractLsb' 17 5) (w.extractLsb' 12 5) (w.extractLsb' 7 5))
    else .error .reservedField
  | 103 =>
    if w &&& 516344 == 0 then admitted (.qld (w.extractLsb' 19 3) (w.extractLsb' 8 5) (w.extractLsb' 0 3))
    else .error .reservedField
  | 104 =>
    if w &&& 3727608 == 0 then admitted (.qst (w.extractLsb' 16 3) (w.extractLsb' 8 5) (w.extractLsb' 0 3))
    else .error .reservedField
  | 105 =>
    if w &&& 8191 == 0 then admitted (.qcomp (w.extractLsb' 19 3) (w.extractLsb' 16 3) (w.extractLsb' 13 3))
    else .error .reservedField
  | 106 =>
    if w &&& 65535 == 0 then admitted (.qinv (w.extractLsb' 19 3) (w.extractLsb' 16 3))
    else .error .reservedField
  | 107 =>
    if w &&& 524287 == 0 then admitted (.qrnd (w.extractLsb' 19 3))
    else .error .reservedField
  | 108 =>
    if w &&& 524287 == 0 then admitted (.qid (w.extractLsb' 19 3))
    else .error .reservedField
  | 109 =>
    if w &&& 3727584 == 0 then admitted (.qapp (w.extractLsb' 16 3) (w.extractLsb' 8 5) (w.extractLsb' 0 5))
    else .error .reservedField
  | 110 =>
    if w &&& 3727615 == 0 then admitted (.qtile (w.extractLsb' 16 3) (w.extractLsb' 8 5))
    else .error .reservedField
  | 111 =>
    if w &&& 3727615 == 0 then admitted (.qcyc (w.extractLsb' 16 3) (w.extractLsb' 8 5))
    else .error .reservedField
  | 112 =>
    if w &&& 4186112 == 0 then admitted (.qchk (w.extractLsb' 8 5) (w.extractLsb' 3 5) (w.extractLsb' 0 3))
    else .error .reservedField
  | _ => .error .reservedOp

/-- The instruction of a word, whatever its L and P. -/
def decodeWord (w : BitVec 32) : Except DecodeErr Instr :=
  if w.getLsbD 30 then decodeA (w.extractLsb' 22 7).toNat w
  else decodeC (w.extractLsb' 22 7).toNat w

/-- The instruction that a word of the opcode table's numbering gives: words are 32 bits, and a
second word of a pair (L = 0, K = 1) has no park marker (02 R44). -/
def decodeTableWord (nbits w : Nat) : Option Instr :=
  let x := BitVec.ofNat 32 w
  if nbits == 32 && decide (w < 2 ^ 32) then
    if ! x.getLsbD 31 && x.getLsbD 30 && x.getLsbD 29 then none
    else match decodeWord x with
      | .ok i => some i
      | .error _ => none
  else none

/-- The word of an instruction as the first or second word of a pair, with P = 0; none for a
step that has no word. -/
def encode (i : Instr) : Option (BitVec 32) :=
  match i with
  | .nop => some (0#10 ++ 0#22)
  | .j o => some (1#10 ++ o)
  | .jal o => some (2#10 ++ o)
  | .jr a i => some (3#10 ++ 0#5 ++ a ++ i)
  | .jalr d a i => some (4#10 ++ d ++ a ++ i)
  | .bEq a b o => some (5#10 ++ a ++ b ++ o)
  | .bNe a b o => some (6#10 ++ a ++ b ++ o)
  | .bLt a b o => some (7#10 ++ a ++ b ++ o)
  | .bGe a b o => some (8#10 ++ a ++ b ++ o)
  | .bLtu a b o => some (9#10 ++ a ++ b ++ o)
  | .bGeu a b o => some (10#10 ++ a ++ b ++ o)
  | .loop v c n => some (11#10 ++ v ++ c ++ n)
  | .lbrk v => some (12#10 ++ v ++ 0#20)
  | .lbrkStay v => some (12#10 ++ v ++ 1#20)
  | .fork a b o => some (13#10 ++ a ++ b ++ o)
  | .join d a i => some (14#10 ++ d ++ a ++ i)
  | .susp a i => some (15#10 ++ 0#5 ++ a ++ i)
  | .yield => some (16#10 ++ 0#22)
  | .halt => some (17#10 ++ 0#22)
  | .ldB d a s o => some (20#10 ++ d ++ a ++ s ++ o)
  | .ldBu d a s o => some (21#10 ++ d ++ a ++ s ++ o)
  | .ldH d a s o => some (22#10 ++ d ++ a ++ s ++ o)
  | .ldHu d a s o => some (23#10 ++ d ++ a ++ s ++ o)
  | .ldW d a s o => some (24#10 ++ d ++ a ++ s ++ o)
  | .ldWu d a s o => some (25#10 ++ d ++ a ++ s ++ o)
  | .ldD d a s o => some (26#10 ++ d ++ a ++ s ++ o)
  | .stB d a s o => some (27#10 ++ d ++ a ++ s ++ o)
  | .stH d a s o => some (28#10 ++ d ++ a ++ s ++ o)
  | .stW d a s o => some (29#10 ++ d ++ a ++ s ++ o)
  | .stD d a s o => some (30#10 ++ d ++ a ++ s ++ o)
  | .vld d a s o => some (31#10 ++ d ++ a ++ s ++ o)
  | .vst d a s o => some (32#10 ++ d ++ a ++ s ++ o)
  | .vldm d a s m o => some (33#10 ++ d ++ a ++ s ++ m ++ o)
  | .vstm d a s m o => some (34#10 ++ d ++ a ++ s ++ m ++ o)
  | .vgat d a b z s => some (35#10 ++ d ++ a ++ b ++ 0#2 ++ z ++ s)
  | .vsca d a b z s => some (36#10 ++ d ++ a ++ b ++ 0#2 ++ z ++ s)
  | .pref a s o => some (37#10 ++ 0#5 ++ a ++ s ++ o)
  | .ldfe d a s o => some (38#10 ++ d ++ a ++ s ++ o)
  | .ldfx d a s o => some (39#10 ++ d ++ a ++ s ++ o)
  | .stfe d a s o => some (40#10 ++ d ++ a ++ s ++ o)
  | .stff d a s o => some (41#10 ++ d ++ a ++ s ++ o)
  | .fepoll d a s o => some (42#10 ++ d ++ a ++ s ++ o)
  | .fesetE a s o => some (43#10 ++ 0#5 ++ a ++ s ++ o)
  | .fesetF a s o => some (43#10 ++ 1#5 ++ a ++ s ++ o)
  | .amo d a b s z o => some (44#10 ++ d ++ a ++ b ++ s ++ z ++ o)
  | .cas d a b c s z => some (45#10 ++ d ++ a ++ b ++ c ++ s ++ z)
  | .fenceAcq a v r => some (47#10 ++ 0#5 ++ a ++ 0#6 ++ v ++ r ++ 0#2)
  | .fenceRel a v r => some (47#10 ++ 0#5 ++ a ++ 0#6 ++ v ++ r ++ 1#2)
  | .fenceAr a v r => some (47#10 ++ 0#5 ++ a ++ 0#6 ++ v ++ r ++ 2#2)
  | .fenceSc a v r => some (47#10 ++ 0#5 ++ a ++ 0#6 ++ v ++ r ++ 3#2)
  | .bar d a b v r n => some (48#10 ++ d ++ a ++ b ++ 0#1 ++ v ++ r ++ n)
  | .barnb d a b v r n => some (49#10 ++ d ++ a ++ b ++ 0#1 ++ v ++ r ++ n)
  | .send a b n => some (50#10 ++ 0#5 ++ a ++ b ++ 0#1 ++ n)
  | .recv d n => some (51#10 ++ d ++ 0#11 ++ n)
  | .rprobe d n => some (52#10 ++ d ++ 0#11 ++ n)
  | .sbind d a => some (53#10 ++ d ++ a ++ 0#12)
  | .sclose d => some (54#10 ++ d ++ 0#17)
  | .xcopy a b c e q => some (55#10 ++ a ++ b ++ c ++ e ++ q ++ 0#3)
  | .xcopyFill a b c e q => some (55#10 ++ a ++ b ++ c ++ e ++ q ++ 1#3)
  | .xgat a b c => some (56#10 ++ a ++ b ++ c ++ 0#7)
  | .xgatSca a b c => some (56#10 ++ a ++ b ++ c ++ 1#7)
  | .xgatScadd a b c => some (56#10 ++ a ++ b ++ c ++ 2#7)
  | .xform a b c => some (57#10 ++ a ++ b ++ c ++ 0#7)
  | .xformRans a b c => some (57#10 ++ a ++ b ++ c ++ 1#7)
  | .xcoll a b c => some (58#10 ++ a ++ b ++ c ++ 0#7)
  | .xcollBcast a b c => some (58#10 ++ a ++ b ++ c ++ 1#7)
  | .xwait d a => some (59#10 ++ d ++ a ++ 0#12)
  | .xwaitPoll d a => some (59#10 ++ d ++ a ++ 1#12)
  | .tlrchk a b => some (60#10 ++ a ++ b ++ 0#12)
  | .lnew a b c => some (61#10 ++ a ++ b ++ c ++ 0#7)
  | .lfree a => some (62#10 ++ a ++ 0#17)
  | .lpose a b => some (63#10 ++ a ++ b ++ 0#12)
  | .lcommit a b => some (64#10 ++ a ++ b ++ 0#12)
  | .lsplit a b c => some (65#10 ++ a ++ b ++ c ++ 0#7)
  | .lmerge a b c => some (66#10 ++ a ++ b ++ c ++ 0#7)
  | .lerr a b => some (67#10 ++ a ++ b ++ 0#12)
  | .lerrHdr a b => some (67#10 ++ a ++ b ++ 1#12)
  | .lprice a b => some (68#10 ++ a ++ b ++ 0#12)
  | .lorder a b => some (69#10 ++ a ++ b ++ 0#12)
  | .llight a b c => some (70#10 ++ a ++ b ++ c ++ 0#7)
  | .llightBump a => some (70#10 ++ a ++ 1#17)
  | .lshadow a b => some (71#10 ++ a ++ b ++ 0#12)
  | .lreqTmpl a b => some (72#10 ++ a ++ b ++ 0#12)
  | .lreqNow a => some (72#10 ++ a ++ 1#17)
  | .lreqClr a => some (72#10 ++ a ++ 2#17)
  | .twput d e i => some (73#10 ++ d ++ 0#12 ++ e ++ i)
  | .twget d e i => some (74#10 ++ d ++ 0#12 ++ e ++ i)
  | .twtest d w => some (75#10 ++ d ++ 0#16 ++ w)
  | .crd d r => some (76#10 ++ d ++ 0#5 ++ r)
  | .cwr a r => some (77#10 ++ 0#5 ++ a ++ r)
  | .crx d a r => some (78#10 ++ d ++ a ++ r)
  | .trap a n => some (79#10 ++ 0#5 ++ a ++ 0#8 ++ n)
  | .rte => some (80#10 ++ 0#22)
  | .wrd d a b => some (81#10 ++ d ++ a ++ b ++ 0#7)
  | .wwr d a b => some (82#10 ++ d ++ a ++ b ++ 0#7)
  | .walloc d => some (83#10 ++ d ++ 0#17)
  | .wallocRel a => some (83#10 ++ 0#5 ++ a ++ 1#12)
  | .slotctlKill d a => some (84#10 ++ d ++ a ++ 0#12)
  | .slotctlStat d a => some (84#10 ++ d ++ a ++ 1#12)
  | .slotctlStop d a => some (84#10 ++ d ++ a ++ 2#12)
  | .slotctlGo d a => some (84#10 ++ d ++ a ++ 3#12)
  | .tsc d i => some (85#10 ++ d ++ 0#5 ++ i)
  | .wspx d a b => some (86#10 ++ d ++ a ++ b ++ 0#7)
  | .mlicQ d => some (87#10 ++ d ++ 0#17)
  | .mlicAcq d => some (87#10 ++ d ++ 1#17)
  | .mlicRel d => some (87#10 ++ d ++ 2#17)
  | .add d a b => some (256#10 ++ d ++ a ++ b ++ 0#7)
  | .sub d a b => some (257#10 ++ d ++ a ++ b ++ 0#7)
  | .and d a b => some (258#10 ++ d ++ a ++ b ++ 0#7)
  | .or d a b => some (259#10 ++ d ++ a ++ b ++ 0#7)
  | .xor d a b => some (260#10 ++ d ++ a ++ b ++ 0#7)
  | .shl d a b => some (261#10 ++ d ++ a ++ b ++ 0#7)
  | .shr d a b => some (262#10 ++ d ++ a ++ b ++ 0#7)
  | .sra d a b => some (263#10 ++ d ++ a ++ b ++ 0#7)
  | .mul d a b => some (264#10 ++ d ++ a ++ b ++ 0#7)
  | .mulh d a b => some (265#10 ++ d ++ a ++ b ++ 0#7)
  | .mulhu d a b => some (266#10 ++ d ++ a ++ b ++ 0#7)
  | .div d a b => some (267#10 ++ d ++ a ++ b ++ 0#7)
  | .divu d a b => some (268#10 ++ d ++ a ++ b ++ 0#7)
  | .rem d a b => some (269#10 ++ d ++ a ++ b ++ 0#7)
  | .remu d a b => some (270#10 ++ d ++ a ++ b ++ 0#7)
  | .min d a b => some (271#10 ++ d ++ a ++ b ++ 0#7)
  | .max d a b => some (272#10 ++ d ++ a ++ b ++ 0#7)
  | .minu d a b => some (273#10 ++ d ++ a ++ b ++ 0#7)
  | .maxu d a b => some (274#10 ++ d ++ a ++ b ++ 0#7)
  | .slt d a b => some (275#10 ++ d ++ a ++ b ++ 0#7)
  | .sltu d a b => some (276#10 ++ d ++ a ++ b ++ 0#7)
  | .clz d a => some (277#10 ++ d ++ a ++ 0#12)
  | .ctz d a => some (278#10 ++ d ++ a ++ 0#12)
  | .popc d a => some (279#10 ++ d ++ a ++ 0#12)
  | .revB d a => some (280#10 ++ d ++ a ++ 0#12)
  | .revBit d a => some (280#10 ++ d ++ a ++ 1#12)
  | .ext d a u n => some (281#10 ++ d ++ a ++ u ++ n)
  | .ins d a u n => some (282#10 ++ d ++ a ++ u ++ n)
  | .sel d a b c => some (283#10 ++ d ++ a ++ b ++ c ++ 0#2)
  | .addi d a i => some (284#10 ++ d ++ a ++ i)
  | .andi d a i => some (285#10 ++ d ++ a ++ i)
  | .ori d a i => some (286#10 ++ d ++ a ++ i)
  | .xori d a i => some (287#10 ++ d ++ a ++ i)
  | .shli d a n => some (288#10 ++ d ++ a ++ 0#6 ++ n)
  | .shri d a n => some (289#10 ++ d ++ a ++ 0#6 ++ n)
  | .srai d a n => some (290#10 ++ d ++ a ++ 0#6 ++ n)
  | .slti d a i => some (291#10 ++ d ++ a ++ i)
  | .kon d i => some (292#10 ++ d ++ i)
  | .konh d i => some (293#10 ++ d ++ i)
  | .sltiu d a i => some (294#10 ++ d ++ a ++ i)
  | .vadd d a b s r t => some (296#10 ++ d ++ a ++ b ++ s ++ r ++ t)
  | .vsub d a b s r t => some (297#10 ++ d ++ a ++ b ++ s ++ r ++ t)
  | .vmul d a b s r t => some (298#10 ++ d ++ a ++ b ++ s ++ r ++ t)
  | .vmulh d a b s r t => some (299#10 ++ d ++ a ++ b ++ s ++ r ++ t)
  | .vfma d a b s r t => some (300#10 ++ d ++ a ++ b ++ s ++ r ++ t)
  | .vfms d a b s r t => some (301#10 ++ d ++ a ++ b ++ s ++ r ++ t)
  | .vfnma d a b s r t => some (302#10 ++ d ++ a ++ b ++ s ++ r ++ t)
  | .vdiv d a b s r t => some (303#10 ++ d ++ a ++ b ++ s ++ r ++ t)
  | .vsqrt d a s r t => some (304#10 ++ d ++ a ++ 0#5 ++ s ++ r ++ t)
  | .vmin d a b s r t => some (305#10 ++ d ++ a ++ b ++ s ++ r ++ t)
  | .vmax d a b s r t => some (306#10 ++ d ++ a ++ b ++ s ++ r ++ t)
  | .vminn d a b s r t => some (307#10 ++ d ++ a ++ b ++ s ++ r ++ t)
  | .vmaxn d a b s r t => some (308#10 ++ d ++ a ++ b ++ s ++ r ++ t)
  | .vabs d a s r t => some (309#10 ++ d ++ a ++ 0#5 ++ s ++ r ++ t)
  | .vneg d a s r t => some (310#10 ++ d ++ a ++ 0#5 ++ s ++ r ++ t)
  | .vand d a b => some (311#10 ++ d ++ a ++ b ++ 0#7)
  | .vor d a b => some (312#10 ++ d ++ a ++ b ++ 0#7)
  | .vxor d a b => some (313#10 ++ d ++ a ++ b ++ 0#7)
  | .vnot d a => some (314#10 ++ d ++ a ++ 0#12)
  | .vshl d a b s r t => some (315#10 ++ d ++ a ++ b ++ s ++ r ++ t)
  | .vshr d a b s r t => some (316#10 ++ d ++ a ++ b ++ s ++ r ++ t)
  | .vsra d a b s r t => some (317#10 ++ d ++ a ++ b ++ s ++ r ++ t)
  | .vcmp d a b c u t => some (318#10 ++ d ++ a ++ b ++ c ++ u ++ t)
  | .vsel d a b c => some (319#10 ++ d ++ a ++ b ++ c ++ 0#2)
  | .vsplat d a u t => some (320#10 ++ d ++ a ++ 0#8 ++ u ++ t)
  | .vins d a b u t => some (321#10 ++ d ++ a ++ b ++ 0#3 ++ u ++ t)
  | .vext d a b u t => some (322#10 ++ d ++ a ++ b ++ 0#3 ++ u ++ t)
  | .vshuf d a b => some (323#10 ++ d ++ a ++ b ++ 0#7)
  | .vzip d a b h u t => some (324#10 ++ d ++ a ++ b ++ 0#2 ++ h ++ u ++ t)
  | .vunzip d a b h u t => some (325#10 ++ d ++ a ++ b ++ 0#2 ++ h ++ u ++ t)
  | .vred d a o s r t => some (326#10 ++ d ++ a ++ o ++ s ++ r ++ t)
  | .vdot d a b s r t => some (327#10 ++ d ++ a ++ b ++ s ++ r ++ t)
  | .vsad d a b s r t => some (328#10 ++ d ++ a ++ b ++ s ++ r ++ t)
  | .vcvt d a s r t => some (329#10 ++ d ++ a ++ s ++ r ++ t)
  | .vpack d a n s c => some (330#10 ++ d ++ a ++ 0#2 ++ n ++ s ++ 0#1 ++ c)
  | .vunpack d a n c => some (331#10 ++ d ++ a ++ 0#2 ++ n ++ 0#2 ++ c)
  | .vrcp d a s r t => some (332#10 ++ d ++ a ++ 0#5 ++ s ++ r ++ t)
  | .vrsq d a s r t => some (333#10 ++ d ++ a ++ 0#5 ++ s ++ r ++ t)
  | .vexp2 d a s r t => some (334#10 ++ d ++ a ++ 0#5 ++ s ++ r ++ t)
  | .vlog2 d a s r t => some (335#10 ++ d ++ a ++ 0#5 ++ s ++ r ++ t)
  | .vsin d a s r t => some (336#10 ++ d ++ a ++ 0#5 ++ s ++ r ++ t)
  | .vcos d a s r t => some (337#10 ++ d ++ a ++ 0#5 ++ s ++ r ++ t)
  | .vclass d a t => some (338#10 ++ d ++ a ++ 0#9 ++ t)
  | .vmov d a => some (339#10 ++ d ++ a ++ 0#12)
  | .mand d a b => some (341#10 ++ d ++ a ++ b ++ 0#7)
  | .mandNot d a b => some (341#10 ++ d ++ a ++ b ++ 1#7)
  | .mor d a b => some (342#10 ++ d ++ a ++ b ++ 0#7)
  | .morG d a b => some (342#10 ++ d ++ a ++ b ++ 1#7)
  | .mxor d a b => some (343#10 ++ d ++ a ++ b ++ 0#7)
  | .mnot d a => some (344#10 ++ d ++ a ++ 0#12)
  | .mcnt d a => some (345#10 ++ d ++ a ++ 0#12)
  | .mcntRaw d a => some (345#10 ++ d ++ a ++ 1#12)
  | .mfirst d a => some (346#10 ++ d ++ a ++ 0#12)
  | .bbind a b => some (347#10 ++ 0#5 ++ a ++ b ++ 0#7)
  | .bget d i => some (348#10 ++ d ++ 0#5 ++ i)
  | .bgetv d a => some (349#10 ++ d ++ a ++ 0#12)
  | .bpeek d i => some (350#10 ++ d ++ 0#5 ++ i)
  | .bskip a i => some (351#10 ++ 0#5 ++ a ++ i)
  | .bpos d => some (352#10 ++ d ++ 0#17)
  | .bposLeft d => some (352#10 ++ d ++ 1#17)
  | .bposState d => some (352#10 ++ d ++ 2#17)
  | .ansd d a b => some (353#10 ++ d ++ a ++ b ++ 0#7)
  | .mma a b c e q x y => some (354#10 ++ a ++ b ++ c ++ e ++ q ++ 0#1 ++ x ++ y)
  | .mmac a b c e q x y => some (355#10 ++ a ++ b ++ c ++ e ++ q ++ 0#1 ++ x ++ y)
  | .mmz a w => some (356#10 ++ a ++ 0#16 ++ w)
  | .mmd a b e q k w => some (357#10 ++ a ++ b ++ 0#5 ++ e ++ q ++ k ++ w ++ 0#1)
  | .munf a b c => some (358#10 ++ a ++ b ++ c ++ 0#7)
  | .qld d g s => some (359#10 ++ d ++ 0#6 ++ g ++ 0#5 ++ s)
  | .qst a g s => some (360#10 ++ 0#3 ++ a ++ 0#3 ++ g ++ 0#5 ++ s)
  | .qcomp d a b => some (361#10 ++ d ++ a ++ b ++ 0#13)
  | .qinv d a => some (362#10 ++ d ++ a ++ 0#16)
  | .qrnd d => some (363#10 ++ d ++ 0#19)
  | .qid d => some (364#10 ++ d ++ 0#19)
  | .qapp a g v => some (365#10 ++ 0#3 ++ a ++ 0#3 ++ g ++ 0#3 ++ v)
  | .qtile a g => some (366#10 ++ 0#3 ++ a ++ 0#3 ++ g ++ 0#8)
  | .qcyc a g => some (367#10 ++ 0#3 ++ a ++ 0#3 ++ g ++ 0#8)
  | .qchk g d s => some (368#10 ++ 0#9 ++ g ++ d ++ s)
  | .barrelTurn => none
  | .asyncResultWrite => none
  | .deferredTrap => none
  | .trapRecordEnqueue => none
  | .storeBufferDrain => none
  | .stationWrite => none
  | .homeAtomic => none
  | .feHomeOperation => none
  | .waitLimitTrap => none
  | .twinWaitLimitTrap => none
  | .barrierArrival => none
  | .channelDelivery => none
  | .streamElementArrival => none
  | .engineCommandStart => none
  | .engineCommandComplete => none
  | .collectiveComplete => none
  | .matrixOperationRetire => none
  | .routeSolveComplete => none
  | .licenceService => none
  | .licenceQuantumExpiry => none
  | .licencePass => none
  | .forkRecordPush => none
  | .idleSlotSeek => none
  | .hangDetected => none
  | .slotLevelApply => none
  | .boostIntervalBoundary => none
  | .widxUpdate => none
  | .gafferServiceStep => none
  | .launch => none
  | .wait => none
  | .signal => none
  | .barrierAnd => none
  | .sceneFrame => none
  | .cohortWrite => none
  | .signalReread => none
  | .launchComplete => none
  | .dieReport => none
  | .qholdExpiry => none
  | .pageRequestReply => none
  | .pageRequestTimeout => none
  | .preemptionInterrupt => none
  | .preemptionSave => none
  | .contextResume => none
  | .messageForward => none
  | .layerInstructionPerform => none
  | .frameStart => none
  | .frameEnd => none
  | .status => none
  | .qreg => none
  | .qunreg => none
  | .part => none
  | .savereg => none
  | .inval => none
  | .lmeta => none
  | .scrub => none
  | .errcnt => none
  | .staging => none
  | .stage => none
  | .horead => none
  | .registerWrite => none
  | .quiesceSafePoint => none
  | .quiesceTimeout => none
  | .heartbeat => none
  | .probationDeadline => none
  | .fallback => none
  | .keyDerivationComplete => none
  | .powerGood => none
  | .memoryTrained => none
  | .getVersion => none
  | .getCapabilities => none
  | .negotiateAlgorithms => none
  | .getDigests => none
  | .getCertificate => none
  | .challenge => none
  | .getMeasurements => none
  | .linkTraining => none
  | .hostDeviceMemoryAccess => none
  | .linkDown => none
  | .linkDownTimeout => none
  | .kenlinkTraining => none
  | .peerGlAccess => none
  | .peerDeviceFailed => none
  | .thermalLevelEnter => none
  | .thermalLevelLeave => none
  | .hardTrip => none
  | .standbyRailLoss => none

/-- The lone word of an instruction, with its park marker (02 R44). -/
def encodeLone (i : Instr) (p : Bool) : Option (BitVec 32) :=
  (encode i).map fun w => w ||| 0x80000000 ||| (if p then 0x20000000 else 0)

end Sys2Proof
end

