-- ==== Sys2Proof/Config.lean ====
section
/-!
DEFINITION. What the form of the part and its manufacture fix, and the free values: constants
without a body, of which nothing in Lean knows a value. A claim about them holds for every
value. `notes/assumptions/1.md`, `9.md` and `10.md` say where each is used.
-/

namespace Sys2Proof.Config

/-- The n-th free choice among the steps that may come next (log 1). -/
opaque choice : Nat → Nat

/-- The n-th free bit pattern, one per number and register or element: which half of a pending
register is already new, the bits that a rule leaves undefined, bodies of the Gaffer's own
format (logs 1 and 9). -/
opaque bits : Nat → Nat → BitVec 128

/-- Whether an invalid product beside a quiet NaN in one lane of `vdot` raises NV, which IEEE 754
leaves to the implementation (03 R85, 05 R150, log 9). -/
opaque dotInvalid : Bool

/-- The forms in which the part is supplied (00 R1). -/
inductive Form where
  | ae4s | ae4p | ae4m
deriving DecidableEq, Repr, Inhabited

/-- The form of this part (00 R1). -/
opaque form : Form

/-- The bytes of LPDDR6 with which an integrator or a board has populated the interface of an AE-4S
or AE-4P; 0 when it is left empty (00 R1). -/
opaque boardTier : Nat

/-- The bytes of the second tier: 2,048 GiB on an AE-4M, and 0 when none is attached (00 R1, R2). It is
the capacity that the part reports (log 72). -/
def tier2Bytes : Nat := if form = .ae4m then 2048 * 2 ^ 30 else boardTier

/-- Whether a second tier is attached (00 R2). -/
def secondTier : Bool := tier2Bytes != 0

/-- The HBM sites that the integrator of an AE-4S has left empty or too small (00 R3). -/
opaque siteFaults : BitVec 12

/-- The HBM sites that are empty or too small; an AE-4P and an AE-4M have none (00 R1, R3). -/
def badSites : BitVec 12 := if form = .ae4s then siteFaults else 0

/-- The station, by number, that serves the line of HBM or the second tier at a key: the spec does
not say which addresses lie under which die's memory edge (log 27). -/
opaque station : Nat → Nat

/-- What an address is taken for whose reserved bits are not all zero, where no check is stated
(00 R9, log 18). -/
opaque oddAddress : BitVec 64 → Nat

/-- What a dword of a record is taken for when a reserved bit of the record is set, where no check is stated
(00 R9, log 18). -/
opaque oddDword : BitVec 64 → BitVec 64

/-- The SHA-512 of the firmware key, fused (24 R427). -/
opaque keyHash : List Byte

/-- The minimum security version fused for a layer (24 R427). -/
opaque minSvn : Nat → Nat

/-- Byte i of the unique device secret, i from 0 to 63 (24 R433). -/
opaque udsByte : Nat → Byte

/-- The unique device secret: 64 bytes (24 R433). -/
def uds : List Byte := (List.range 64).map udsByte

/-- The words of the mask ROM, by their control-store addresses (24 R424). -/
opaque rom : BitVec 12 → BitVec 128

/-- The outcome of the test for probable primes in the generation of a key pair, whose random bases the
spec does not name (24 R433; FIPS 186-5 B.3; log 10). -/
opaque probablyPrime : Nat → Bool

/-- Certificate 0: issued by Osben, in fuse-backed storage (24 R433). -/
opaque deviceCertificate : List Byte

/-- The DER of a certificate's serial number, for a layer, its key's modulus and the issuing key's, which the
spec does not give (24 R433, log 10). -/
opaque certSerial : Nat → List Byte → List Byte → List Byte

/-- The DER of issuer, validity and subject of a certificate, which the spec does not give (24 R433, log 10). -/
opaque certNames : Nat → List Byte → List Byte → List Byte

/-- The DER of a certificate's extensions beside the TcbInfo (24 R433, log 10). -/
opaque certExtensions : Nat → List Byte → List Byte → List Byte

/-- How the TcbInfo writes a version of MAJOR and MINOR (24 R433, log 10). -/
opaque tcbVersion : Nat → Nat → List Byte

/-- One exchange with the SPDM responder, as a transcript names it: the request's number in the opcode
table's order (0 GET_VERSION to 6 GET_MEASUREMENTS), its parameters, and what it and its reply carry. -/
structure SpdmTurn where
  code : Nat
  args : List Nat
  data : List (List Byte)
deriving DecidableEq, Repr

/-- The bytes of the messages of some exchanges, the signature of the last reply left out: what the requester
and the responder fill in beside the parameters the spec does not give (24 R434, log 10). -/
opaque spdmBytes : List SpdmTurn → List Byte

end Sys2Proof.Config
end

