-- ==== Sys2Proof/Machine/Bits.lean ====
section
/-!
DEFINITION. Bit fields, sign extension and byte order. The part is little-endian everywhere
(00 R8); a field written [hi:lo] includes both ends.
-/

namespace Sys2Proof.Machine

/-- Bits [hi:lo] of a number. -/
def fieldN (x hi lo : Nat) : Nat := x / 2 ^ lo % 2 ^ (hi + 1 - lo)

/-- Bits [hi:lo] of a bit vector, as a number. -/
def field {n : Nat} (x : BitVec n) (hi lo : Nat) : Nat := fieldN x.toNat hi lo

/-- Bit i. -/
def bitAt {n : Nat} (x : BitVec n) (i : Nat) : Bool := x.getLsbD i

/-- A truth value as 0 or 1 of any width. -/
def bit01 {n : Nat} (b : Bool) : BitVec n := if b then 1 else 0

/-- A truth value as 0 or 1. -/
def natOf (b : Bool) : Nat := if b then 1 else 0

/-- The low n bits of a dword, zero-extended. -/
def zextLow (x : Word) (n : Nat) : Word := x &&& BitVec.ofNat 64 (2 ^ n - 1)

/-- The low n bits of a dword, sign-extended; n is 1 to 64. -/
def sextLow (x : Word) (n : Nat) : Word :=
  let v := x.toNat % 2 ^ n
  if v < 2 ^ (n - 1) then BitVec.ofNat 64 v else BitVec.ofNat 64 (2 ^ 64 - 2 ^ n + v)

/-- A field as a signed number. -/
def signedN (v n : Nat) : Int := if v < 2 ^ (n - 1) then (v : Int) else (v : Int) - 2 ^ n

/-- An immediate sign-extended to a dword. -/
def immS {n : Nat} (i : BitVec n) : Word := i.signExtend 64

/-- An immediate zero-extended to a dword. -/
def immZ {n : Nat} (i : BitVec n) : Word := i.setWidth 64

/-- A number as n little-endian bytes. -/
def toBytes : Nat → Nat → List Byte
  | 0, _ => []
  | n + 1, v => BitVec.ofNat 8 v :: toBytes n (v / 256)

/-- The number that little-endian bytes hold. -/
def ofBytes : List Byte → Nat
  | [] => 0
  | b :: r => b.toNat + 256 * ofBytes r

/-- The dword that little-endian bytes hold. -/
def wordOf (bs : List Byte) : Word := BitVec.ofNat 64 (ofBytes bs)

/-- The 128-bit value that little-endian bytes hold. -/
def vecOf (bs : List Byte) : Vec := BitVec.ofNat 128 (ofBytes bs)

/-- The eight bytes of a dword. -/
def wordBytes (w : Word) : List Byte := toBytes 8 w.toNat

/-- The sixteen bytes of a 128-bit value. -/
def vecBytes (v : Vec) : List Byte := toBytes 16 v.toNat

/-- Bytes written over a list of bytes from position i on. -/
def overlay (i : Nat) (new old : List Byte) : List Byte :=
  old.take i ++ new.take (old.length - i) ++ old.drop (i + new.length)

/-- The numbers a, a + 1, ..., of n numbers. -/
def fromTo (a n : Nat) : List Nat := (List.range n).map (a + ·)

/-- The first element for which f answers. -/
def firstSome {α β : Type} (f : α → Option β) : List α → Option β
  | [] => none
  | x :: r => match f x with
    | some y => some y
    | none => firstSome f r

/-- The quotient rounded up. -/
def ceilDiv (a b : Nat) : Nat := (a + b - 1) / b

/-- Element i of a list of dwords, zero beyond its end. -/
def dw (l : List Word) (i : Nat) : Word := l.getD i 0

end Sys2Proof.Machine
end

