-- ==== Sys2Proof/Machine/State.lean ====
section
/-!
DEFINITION. The state of the part: everything the spec gives the machine, as plain data.

Collections indexed by number (cores, slots, quads, queues, contexts, ...) are lists of number
and record pairs, sorted by number, that list only records differing from the default record;
`Machine/Store.lean` reads and writes them. Registers of a thread have one home, the bytes of
its 2 KiB workspace in WM (09 R269), so they are not repeated here.
-/

namespace Sys2Proof.Machine

/-- The reasons for which the machine stops for good. -/
inductive Fault where
  /-- Raised by every step once the hard trip has cut the power (25 R448). Safe: the part does
  nothing at all from then on until power returns. -/
  | powerOff
deriving DecidableEq, Repr

/-- The reasons for which a step is refused. -/
inductive Refusal where
  /-- Raised by an arm of `exec` that has no meaning yet. Safe: nothing is claimed of it. -/
  | notModelled (mnemonic : String)
deriving DecidableEq, Repr

/-- A sparse collection: number and record pairs, sorted by number. -/
abbrev Map (α : Type) := List (Nat × α)

/-! ### Scopes -/

/-- A resolved scope (06 R182, R186): a rectangle value, a level with the unit it names around
the issuing core, or a scope-group index. -/
inductive ScopeName where
  | rect (v : BitVec 24)
  | level (l : BitVec 3) (unit : Nat)
  | group (i : BitVec 5)
deriving DecidableEq, Repr

/-- What names a barrier instance (06 R186). -/
structure BarName where
  pid     : BitVec 20
  scope   : ScopeName
  regForm : Bool
  num     : BitVec 2
deriving DecidableEq, Repr

/-! ### Asynchronous operations -/

/-- Where the result of an asynchronous operation is written. -/
inductive Dst where
  | none
  | g (r : BitVec 5)
  | v (r : BitVec 5)
deriving DecidableEq, Repr

/-- One access of a load: `size` bytes at `addr`, delivered at byte `pos` of the destination. -/
structure Lane where
  addr : Nat
  size : Nat
  pos  : Nat
deriving DecidableEq, Repr

/-- The full/empty operations that go to the home (06 R174). -/
inductive FeKind where
  | ldfe | ldfx | fepoll | stfe
deriving DecidableEq, Repr

/-- A layer instruction on its way to the Lehr: its opcode (or 0x80 for a write of `SHPEN`),
its xop, and the values of its three operand registers. -/
structure LayerOp where
  op  : BitVec 8
  xop : BitVec 7
  a   : Word
  b   : Word
  c   : Word
  word : BitVec 32
deriving DecidableEq, Repr

/-- What an asynchronous operation does (02 R41 and the instruction chapters). -/
inductive OpKind where
  /-- A load; `sext = 0` delivers the bytes zero-extended, `sext = n` sign-extends n bits; only the
  bits of `keep` are delivered, the others as zero (06 R170). -/
  | load (sp : Space) (lanes : List Lane) (sext : Nat) (keep : Vec)
  | fe (k : FeKind) (sp : Space) (addr : Nat) (data : Word)
  | amo (op : BitVec 4) (sp : Space) (addr : Nat) (dword : Bool) (b : Word)
  | cas (sp : Space) (addr : Nat) (dword : Bool) (b c : Word)
  | join (addr : Nat)
  /-- The increment of a fork with its record (04 R112); `addr = 0` makes no increment. -/
  | fork (addr : Nat) (record : List Byte)
  /-- The record write of `susp` (04 R114). -/
  | susp (addr : Nat) (record : List Byte)
  | barrier (name : BarName) (n : Nat)
  | recv (port : BitVec 6)
  | xwait (addr : Nat) (target : Nat) (poll : Bool)
  | layer (o : LayerOp)
deriving DecidableEq, Repr

/-- How far an asynchronous operation has come. -/
inductive OpState where
  /-- Issued, not yet performed. -/
  | sent
  /-- At its home: on a word's wait list, or counted in an episode. -/
  | waiting
  /-- Waiting for a page (16 R364). -/
  | paged
  /-- Performed; the result is not yet written. -/
  | done (v : Vec)
  /-- Withdrawn by a pre-emption, to be sent again at resumption (16 R367). -/
  | withdrawn
deriving DecidableEq, Repr

/-- An outstanding asynchronous operation. -/
structure AsyncOp where
  seq   : Nat
  tid   : Nat
  block : Nat
  pc    : Nat
  pair  : Bool
  dst   : Dst
  kind  : OpKind
  st    : OpState
  /-- Completed page requests that still found the page absent (16 R364). -/
  tries : Nat
  /-- A write that comes later in program order has taken its place: the result is not written
  (02 R62). -/
  past  : Bool
  /-- The model's own: the core cycle of its issue, or its place below 0 among the operations of
  its core that were sent again (16 R372). -/
  cycle : Int
  /-- The launch of the thread that issued it (09 R280, R281). -/
  launch : Option Nat := none
deriving DecidableEq, Repr

/-- A store-buffer entry's kind (06 R166). -/
inductive SbKind where
  /-- An ordinary store: its accesses in ascending order, each the number of its lane. -/
  | store (sp : Space) (parts : List (Nat × List Byte))
  /-- A store of the bytes of a 16-byte access that a mask selects (06 R170). -/
  | masked (sp : Space) (addr : Nat) (data : Vec) (mask : BitVec 16)
  | stfe (sp : Space) (addr : Nat) (data : Word)
  | stff (sp : Space) (addr : Nat) (data : Word)
  | feset (sp : Space) (addr : Nat) (full : Bool)
  | marker
deriving DecidableEq, Repr

/-- A store-buffer entry. -/
structure SbEntry where
  seq   : Nat
  tid   : Nat
  pc    : Nat
  pair  : Bool
  kind  : SbKind
  held  : Bool
  tries : Nat
  /-- The launch of the thread that issued it (09 R281). -/
  launch : Option Nat := none
  /-- The model's own: the core cycle of its issue, or its place below 0 among what its core sent again
  (16 R372). -/
  cycle : Int := 0
deriving DecidableEq, Repr

/-- A fault that an operation met after issue, awaiting delivery (02 R65). -/
structure DeferredFault where
  pc    : Nat
  pair  : Bool
  cause : BitVec 8
  aux   : Word
  aux2  : BitVec 32
deriving DecidableEq, Repr

/-! ### Messages, engines, streams -/

/-- A channel message (06 R188), with the launch of the thread that sent it (09 R281). -/
structure Msg where
  pid  : BitVec 20
  port : BitVec 6
  data : Vec
  launch : Option Nat
deriving DecidableEq, Repr

/-- A message in an outbound queue, with its destination core and its place in the thread's
program order. -/
structure OutMsg where
  dest : Nat
  seq  : Nat
  tid  : Nat
  msg  : Msg
  held : Bool
deriving DecidableEq, Repr

/-- The operand placement and records an engine command copied at acceptance (08 R235). -/
structure EngCmd where
  hdr      : Vec
  src      : List Word
  dst      : List Word
  q        : BitVec 352
  operands : List Vec
  scope    : ScopeName
  tid      : Nat
  seq      : Nat
  pc       : Nat
  pair     : Bool
  /-- The launch of the thread that pushed it (09 R281). -/
  launch   : Option Nat
deriving DecidableEq, Repr

/-- The queues of one slot at one port (08 R231). -/
structure Port where
  /-- Complete commands, oldest first. -/
  cmds    : List EngCmd
  /-- The open command, with its operand elements so far. -/
  opened  : Option EngCmd
  results : List Vec
deriving DecidableEq, Repr

/-- An element of a stream: its value, or the fault its copy met. -/
inductive StreamElem where
  | value (v : Vec)
  | fault (cause : BitVec 8) (addr : Word)
deriving DecidableEq, Repr

/-- A binding of a stream port (06 R191). -/
structure Stream where
  tlr     : List Word
  total   : Nat
  fetched : Nat
  taken   : Nat
  fifo    : List StreamElem
  seq     : Nat
  /-- Completed page requests that still found a page of the copy absent (16 R364). -/
  tries   : Nat
deriving DecidableEq, Repr

/-- What the engine e0-e3 of a core is executing, and the slot it served last. -/
structure Engine where
  run  : Option (Nat × EngCmd)
  last : Nat
  /-- Completed page requests that still found a page of the command absent (16 R364). -/
  tries : Nat
deriving DecidableEq, Repr

/-- The unfolding configuration (07 R201). -/
structure Munf where
  tlr : List Word
  gb  : Word
  gc  : Word
deriving DecidableEq, Repr

/-- The engine operations of 07 R196. -/
inductive MatKind where
  | mma | mmac | mmz | mmd | qtile
deriving DecidableEq, Repr

/-- An accepted engine operation with the copies of 07 R198. -/
structure MatOp where
  kind : MatKind
  slot : Nat
  tid  : Nat
  pc   : Nat
  pair : Bool
  xop  : BitVec 7
  ga   : Word
  gb   : Word
  gc   : Word
  sca  : Word
  scb  : Word
  nf   : Map Word
  munf : Option Munf
  q    : BitVec 352
deriving DecidableEq, Repr

/-- A route being solved for a q register (07 R221). -/
structure Solve where
  q     : BitVec 3
  block : Nat
  value : BitVec 384
deriving DecidableEq, Repr

/-! ### Traps -/

/-- A trap record (12 R318). -/
structure TrapRec where
  cause : BitVec 8
  slot  : BitVec 4
  defer : Bool
  pair  : Bool
  mchk  : Bool
  sup   : Bool
  ovf   : Bool
  stale : Bool
  pc    : Nat
  aux   : Word
  aux2  : BitVec 32
  time  : Word
  /-- The launch of the thread that trapped (15 R341). -/
  launch : Option Nat
  /-- The model's own number of the thread that trapped, which tells it from every other thread
  that has stood in the slot (12 R321). -/
  tid   : Nat
deriving DecidableEq, Repr

/-- A trap that a thread stands parked by: its record, and whether that has been enqueued. -/
structure TrapState where
  record : TrapRec
  queued : Bool
deriving DecidableEq, Repr

/-- Why a thread is parked although it has not trapped. -/
inductive ParkKind where
  /-- The park marker, and every instruction that parks as it does (02 R60). -/
  | marker
  /-- `fence.sc` (06 R183). -/
  | fenceSc (scope : ScopeName)
  /-- `join` (04 R113). -/
  | join
  /-- `susp` (04 R114). -/
  | susp
  /-- `halt` of the supervisor (04 R117). -/
  | halt
deriving DecidableEq, Repr

/-- A park: its kind, whether the bundle carried the park marker, the bundle that parked, the
core cycle its wait limit counts from, and the number from which that bundle's operations are numbered. -/
structure Park where
  kind  : ParkKind
  all   : Bool
  pc    : Nat
  pair  : Bool
  cycle : Nat
  first : Nat
deriving DecidableEq, Repr

/-- A thread asleep on a bundle that has not issued (09 R279): the kind code, the awaited
address of its wait-table entry, and the cycle of the first failing turn. -/
structure Asleep where
  kind  : Nat
  addr  : Word
  cycle : Nat
deriving DecidableEq, Repr

/-! ### Slots and cores -/

/-- The state of one slot beside the workspace it points at. -/
structure Slot where
  wspV    : Bool
  block   : Nat
  sca     : Word
  scb     : Word
  munf    : Option Munf
  tid     : Nat
  seq     : Nat
  async   : List AsyncOp
  sb      : List SbEntry
  outq    : List OutMsg
  ports   : Map Port
  streams : Map Stream
  park    : Option Park
  asleep  : Option Asleep
  faults  : List DeferredFault
  trap    : Option TrapState
  solves  : List Solve
  hold    : Bool
  stopped : Bool
  dying   : Bool
  launch  : Option Nat
  /-- Whether the Gaffer placed the thread, so that it counts against its launch's quota
  (09 R272). -/
  counted : Bool
  /-- Completed page requests that still found the page of the next bundle absent (16 R364). -/
  tries   : Nat
  /-- What the thread slept on when its launch was last found hung, until that event wakes it (09 R281). -/
  hungOn  : Option Asleep
  /-- The old words that the thread's fetches find no more, by their places in the part's list (02 R68). -/
  synced  : List Nat
  /-- The old words that a `fence.sc` of the thread has covered: its fetches find them no more once it
  issues the next bundle (02 R68). -/
  covered : List Nat
  /-- The scope of a `fence.sc` whose park a trap has ended (02 R68). -/
  fenced  : Option ScopeName
  /-- The model's own: the last number that a thread of the slot has been given. -/
  last    : Nat
deriving DecidableEq, Repr

/-- A core with a pre-emption in progress: the time of the interrupt, and whether WB and AB are
left out as at emergency save (25 R449). -/
structure PreState where
  time      : Word
  emergency : Bool
deriving DecidableEq, Repr

/-- A thread that `wspx` has displaced and that has not ended: its slot, its block, its number, its launch and
whether it counts against the quota, and what its fetches find no more (04 R131, 09 R272, 02 R68). -/
structure LeftThread where
  slot    : Nat
  block   : Nat
  tid     : Nat
  launch  : Option Nat
  counted : Bool
  synced  : List Nat
  covered : List Nat
  fenced  : Option ScopeName
deriving DecidableEq, Repr

/-- The state of one core beside its memories and slots. -/
structure CoreSt where
  cycle    : BitVec 64
  ctx      : Option Nat
  supPc    : Nat
  supArg   : Word
  pool     : List Nat
  data     : List Nat
  dirty    : List Nat
  dqTop    : Nat
  dqLaunch : List (Option Nat)
  trapq    : List TrapRec
  mcdrop   : BitVec 8
  ovf      : Bool
  rx       : List Msg
  recvs    : List (Nat × Nat)
  twin     : Map Vec
  twinFull : BitVec 16
  nf       : Map Word
  sgm      : Word
  shpen    : Word
  engines  : Map Engine
  matq     : List MatOp
  level    : Nat
  reported : Bool
  pre      : Option PreState
  idle     : Nat
  /-- The threads that `wspx` has displaced and that have not ended (04 R131). -/
  left     : List LeftThread
  /-- The blocks whose bit buffer the supervisor has left in a combination that R160 does not allow
  (05 R160). -/
  wildBits : List Nat
deriving DecidableEq, Repr

/-- The state of one quad: its side of the matrix licence and its arbiter (07 R213, 15 R353). -/
structure Quad where
  held    : Bool
  wait    : Bool
  yield   : Bool
  pre     : Bool
  hold    : BitVec 4
  grant   : Nat
  credits : Map Nat
  ptr     : Nat
  last    : Map Nat
  grants  : Nat
  exec    : Option Nat
deriving DecidableEq, Repr

/-! ### Global memory, networks -/

/-- One waiting F/E operation of a word: the thread's operation, or the store-buffer head of the
slot for an `stfe`; or the operation of a peer package, with its operand (25 R446). -/
structure FeWait where
  key  : Nat
  core : Nat
  slot : Nat
  seq  : Nat
  peer : Option (FeKind × Word) := none
deriving DecidableEq, Repr

/-- An open barrier episode (06 R186): its arrivals, in arrival order. -/
structure Episode where
  name     : BarName
  n        : Nat
  arrivals : List (Nat × Nat × Nat)
deriving DecidableEq, Repr

/-- One participant's command in a collective; `saved` while its core is pre-empted (16 R367). -/
structure Contribution where
  core  : Nat
  slot  : Nat
  cmd   : EngCmd
  saved : Bool := false
deriving DecidableEq, Repr

/-- A collective in progress (08 R251); `whole` once it is known that every core of its scope has
contributed. -/
structure Collective where
  pid   : BitVec 20
  whole : Bool := false
  scope : ScopeName
  cnum  : BitVec 2
  opc   : BitVec 3
  parts : List Contribution
  /-- Completed page requests that still found a page of it absent (16 R364). -/
  tries : Nat
deriving DecidableEq, Repr

/-- A page request outstanding at a station (16 R364). -/
structure PageReq where
  pid   : BitVec 20
  page  : Nat
  write : Bool
  time  : Nat
  /-- The launches whose accesses wait for it (09 R281). -/
  launches : List Nat
deriving DecidableEq, Repr

/-! ### The Gaffer -/

/-- A registered queue (15 R337). -/
structure Queue where
  ring    : Nat
  ctl     : Nat
  ctxAddr : Nat
  qhold   : Nat
  size    : Nat
  level   : Nat
  ridx    : BitVec 64
  widx    : BitVec 64
  stopped : Bool
  slot    : Bool
  listed  : Bool
  /-- The packet that the queue holds: its index, its dwords, whether the service step has
  started it, and whether its signal has been read unmet. -/
  packet  : Option (List Word)
  waiting : Bool
  /-- The TIME since which the packet's signal waits for a page, when it does. -/
  pageAt  : Option Nat
  parked  : Bool
  /-- STATUS of a queue that has stopped, when it is still to be written (15 R338). -/
  status  : Option Word
  /-- Launches of this queue that have not completed. -/
  running : List Nat
deriving DecidableEq, Repr

/-- An armed schedule of a scene (17 R379): the queue that armed it and the packet's index, the first frame
time, the period, the frame count, the signal, the frame that comes next, and the first frame time of
the packet that replaces it. -/
structure Schedule where
  /-- None when the queue has been removed (24 R430). -/
  queue  : Option Nat
  index  : BitVec 64
  first  : Nat
  period : Nat
  count  : Nat
  signal : Nat
  next   : Nat
  cut    : Option Nat
deriving DecidableEq, Repr

/-- A frame whose pass is in progress, with its snapshot (17 R380): the frame number, its
scheduled time, the table entries and side entries of every layer, the penalty, and the ids
touched by `lcommit`, `lfree` or `lmerge` since it started. -/
structure FrameRun where
  n       : BitVec 64
  time    : Nat
  last    : Bool
  signal  : Nat
  entries : Map (List Byte)
  sides   : Map (List Byte)
  faults  : Map (BitVec 8)
  shpen   : BitVec 32
  touched : List Nat
deriving DecidableEq, Repr

/-- A scene (17 R375): its descriptor's dwords, the schedules, oldest first, the number of its next frame and the
frame in progress, the layer instruction that waits at the Lehr (core, slot, operation), and the
performed value of `SHPEN`. -/
structure Scene where
  desc   : List Word
  sched  : List Schedule
  frame  : BitVec 64
  run    : Option FrameRun
  queue  : List (Nat × Nat × Nat)
  shpen  : Word
  /-- The layer id that the Lehr placed in each record of the render deque, by its number. -/
  placed : Map Nat
  /-- Pages whose requests the host has rejected for the Lehr's accesses in progress, and the
  completed requests that still found a page absent (16 R364). -/
  rejected : List Nat
  tries  : Map Nat
deriving DecidableEq, Repr

/-- A context (15 R339). -/
structure Context where
  addr     : Nat
  pid      : BitVec 20
  /-- XLAT of the descriptor. -/
  xlat     : Word
  rootBad  : Bool
  rtab     : Nat
  rcnt     : Nat
  pt0      : Nat
  ovfb     : Nat
  ovfs     : Nat
  ovfTop   : Nat
  ovfLaunch : List (Option Nat)
  groups   : Map (BitVec 4096)
  qw       : BitVec 12
  /-- SCENE and SGT of the descriptor. -/
  sceneAddr : Nat
  sgt      : Nat
  scene    : Option Scene
  /-- Schedules armed before the scene has been read (17 R375, R379), oldest first. -/
  armed    : List Schedule
  /-- Pages whose requests the host has rejected while the context's tables are being read
  (15 R340, 17 R375). -/
  rejected : List Nat
  /-- The launch that re-render continuations belong to (09 R280). -/
  sceneLaunch : Option Nat
  /-- Whether the context has been given its first core. -/
  given    : Bool
  /-- The cores to which the context's cores have been migrated (16 R372, R373). -/
  moved    : Map Nat
  ended    : Bool
deriving DecidableEq, Repr

/-- A launch in progress (15 R343): the queue that started it, its packet, the next cohort, the
reservation made for it (core, slot and block of each thread, and the new data blocks), the dies
with cores that have refused its cohort and not reported since (15 R346), whether it has met an
error that ends its placement, and the first tick at which the conditions of 09 R281 have held. -/
structure LaunchSt where
  queue    : Nat
  /-- The index of the packet. -/
  index    : BitVec 64
  packet   : List Word
  ctx      : Nat
  next     : Nat
  placed   : Bool
  reserved : List (Nat × Nat × Nat)
  blocks   : List (Nat × Nat)
  granted  : Bool
  refused  : List Nat
  failed   : Bool
  quietAt  : Option Nat
  hung     : Bool
deriving DecidableEq, Repr

/-- What a die's report says of a core (15 R348): its free user slots in rotation, the free blocks of its
pool and those of its data area, its context, and whether it is idle. -/
structure CoreReport where
  slots  : Nat
  blocks : List Nat
  data   : List Nat
  ctx    : Option Nat
  idle   : Bool
deriving DecidableEq, Repr

/-- The save area of a pre-empted core (16 R368-R370): where it lies and its bytes, the core, the quad to which a
migration has moved its context's other cores, whether the resumption has begun so that only the
spill queue is left, the saved state, and the spill queue. -/
structure SaveArea where
  addr     : Nat
  size     : Nat
  pos      : Nat
  goal     : Option Nat
  left     : Bool
  pid      : BitVec 20
  ctx      : Nat
  time     : Word
  complete : Bool
  core     : CoreSt
  slots    : Map Slot
  mem      : List Host.Cell
  empties  : List Nat
  spill    : List Msg
deriving DecidableEq, Repr

/-- The Gaffer. -/
structure Gaffer where
  queues    : Map Queue
  ctxs      : Map Context
  launches  : Map LaunchSt
  ages      : Map Nat
  served    : Map Nat
  hwWait    : Map (List Nat)
  reports   : Map CoreReport
  quadReports : Map (BitVec 64)
  reportAt  : Map Nat
  serviceAt : Nat
  msgs      : List (Nat × Msg)
  saveBase  : Nat
  saveSize  : Nat
  saves     : Map SaveArea
  /-- Completed page requests that still found a page absent for the Gaffer's own accesses, by
  process and page (16 R364). -/
  tries     : Map Nat
deriving DecidableEq, Repr

/-! ### Power, management, links -/

/-- A partition (20 R400). -/
structure Part where
  dmask   : BitVec 64
  ering   : Nat
  ectl    : Nat
  bthr    : Nat
  esize   : Nat
  permits : Nat
  charge  : Map Nat
  idle    : Nat
  seq     : BitVec 32
deriving DecidableEq, Repr

/-- One entry of the context table in retention memory (25 R450): the context's process, the
core, whether its area was complete, and base and size of the save region at the trip. -/
structure Retained where
  pid  : BitVec 20
  pos  : Nat
  kept : Bool
  area : Option SaveArea
  region : Nat × Nat
deriving DecidableEq, Repr

/-- The power controller and thermal protection. -/
structure Power where
  parts    : Map Part
  level    : Map Nat
  /-- The levels set at the boundary that opened the interval (21 R404). -/
  opened   : Map Nat
  boundary : Nat
  thermal  : Nat
  /-- The last reading of each sensor, in °C (25 R448, R451). -/
  temps    : Map Nat
  /-- For each thermal level, the TIME since which every sensor has been 5 °C below its threshold. -/
  cool     : Map Nat
  retained : List Retained
  told     : List Nat
deriving DecidableEq, Repr

/-- A patch-set image that has been installed (24 R426). -/
structure Image where
  layer   : Nat
  major   : BitVec 16
  minor   : BitVec 16
  svn     : BitVec 8
  hmajor  : BitVec 16
  hminmin : BitVec 16
  hschema : BitVec 32
  entries : List (BitVec 12 × BitVec 128)
  measure : List Byte
deriving DecidableEq, Repr

/-- A reply of the SPDM responder (24 R434). -/
inductive SpdmReply where
  | none
  /-- The versions offered, as major and minor. -/
  | version (versions : List (Nat × Nat))
  /-- The requests supported beyond those that every responder answers. -/
  | capabilities (certificates challenges signedMeasurements : Bool)
  /-- The asymmetric, the hash and the measurement-hash algorithm selected, by name; none without one
  in common. -/
  | algorithms (selected : Option (String × String × String))
  | digests (d : List Byte)
  | certificate (bytes : List Byte) (rest : Nat)
  | challenge (signature : List Byte)
  | measurements (blocks : List (Nat × List Byte)) (signature : List Byte)
  | notReady
  | invalid
deriving DecidableEq, Repr

/-- A live replacement (24 R435): the image staged, when the state was entered, the deadline that
comes next, those missed in a row, the time of a heartbeat since the last one. -/
structure Replace where
  image  : Image
  since  : Nat
  next   : Nat
  missed : Nat
  beatAt : Option Nat
  /-- The layer whose key came next when a derivation was abandoned. -/
  redo   : Option Nat
  /-- The images that were installed when FALLBACK emptied the patch RAM. -/
  before : Map Image
deriving DecidableEq, Repr

/-- A key pair of the key unit: its primes (24 R433). -/
structure RsaKey where
  p : Nat
  q : Nat
deriving DecidableEq, Repr

/-- A key derivation in progress: the layer whose key comes next, and the code and layer of the
re-certify group due at the end. -/
structure Derive where
  next   : Nat
  code   : BitVec 8
  layer  : Nat
deriving DecidableEq, Repr

/-- Management: the mailbox, the start stages, images and identity (24). -/
structure Mgmt where
  mbcmd    : Word
  stage    : BitVec 8
  repl     : BitVec 4
  detail   : BitVec 16
  result   : BitVec 8
  payload  : List Host.Cell
  stagBase : Nat
  stagSize : Nat
  /-- Whether STAGING has been written. -/
  staged   : Bool
  images   : Map Image
  announced : Map (List Byte)
  replace  : Option Replace
  handover : List Byte
  derive   : Option Derive
  /-- Keys 0 to 3, as they were derived. -/
  keys     : Map RsaKey
  /-- Certificates 1 to 3, as they were issued when their keys were derived. -/
  certs    : Map (List Byte)
  spdm     : SpdmReply
  /-- The exchanges with the SPDM responder since the last GET_VERSION. -/
  heard    : List Config.SpdmTurn
  /-- Whether the command in MBCMD was received while a replacement was under way. -/
  late     : Bool
deriving DecidableEq, Repr

/-- What an access that has arrived from outside was answered: the bytes of a read, the addresses of the
sectors among them that were sent with the link's poison indication, and whether a write or an operation
failed (22 R409). -/
structure Answer where
  bytes  : List Byte
  poison : List Nat := []
  failed : Bool := false
deriving DecidableEq, Repr

/-- A peer device that the Gaffer has declared failed: since when, and whether what waits for it has given up
(25 R447). -/
structure PeerDown where
  device  : BitVec 21
  since   : Nat
  expired : Bool
deriving DecidableEq, Repr

/-- The host link and Kenlink (25). -/
structure Link where
  cxl      : Bool
  gen      : Nat
  width    : Nat
  up       : Bool
  /-- What the host supported when the link last trained: generation, width, the CXL protocols. -/
  offer    : Nat × Nat × Bool
  downAt   : Nat
  expired  : Bool
  trained  : Bool
  device   : BitVec 21
  failed   : List PeerDown
  /-- What the last host access that arrived was answered. -/
  hostReply : Option Answer
  /-- The answers to other packages since the last access of one arrived, oldest first. -/
  peerReply : List Answer
deriving DecidableEq, Repr

/-! ### The whole part -/

/-- A word of memory, by its key, as it was before a store of a thread of a core changed it (02 R68). -/
structure OldWord where
  core : Nat
  key  : Nat
  word : BitVec 32
deriving DecidableEq, Repr

/-- The state of the part. -/
structure State where
  powered  : Bool
  time     : BitVec 64
  mem      : List Host.Cell
  empties  : List Nat
  lineMeta : Map (BitVec 72)
  ueData   : List Nat
  ueMeta   : List Nat
  /-- Sectors of HBM and the second tier that hold a correctable error, by key (22 R413). -/
  ceData   : List Nat
  /-- Lines of HBM and the second tier whose metadata holds one, by key (22 R413). -/
  ceMeta   : List Nat
  corrected : Map Nat
  /-- Damage in flight: what the next bytes delivered from these keys are XORed with on their way
  from a station to whom they serve, and the next bytes written to these keys on their way to
  the station (22 R409, R410). -/
  noiseIn  : List Host.Cell
  noiseOut : List Host.Cell
  /-- Bytes of WB, AB and CB that hold an uncorrectable error, by key (07 R200). -/
  badBytes : List Nat
  /-- The words that stores have changed, oldest first: a fetch may still find them (02 R68). -/
  oldWords : List OldWord
  slots    : Map Slot
  cores    : Map CoreSt
  quads    : Map Quad
  feWaits  : List FeWait
  episodes : List Episode
  colls    : List Collective
  pageReqs : List PageReq
  gaffer   : Gaffer
  power    : Power
  mgmt     : Mgmt
  link     : Link
  /-- The model's own: steps that are due, oldest first, among them the acts of outside agents
  (log 1). -/
  agenda   : List (Instr × Sel)
  /-- The model's own: the number of the next free value (log 1). -/
  free     : Nat
  /-- The model's own: what the step that is taken now acts on; for an instruction, the core
  whose turn it is run at (log 1). -/
  sel      : Sel
deriving DecidableEq, Repr

/-! ### Reset -/

/-- A free slot of a core right after power good (04 R121, 20 R398). -/
def Slot.reset : Slot :=
  { wspV := false, block := 0, sca := 0, scb := 0, munf := none, tid := 0, seq := 0,
    async := [], sb := [], outq := [], ports := [], streams := [], park := none,
    asleep := none, faults := [], trap := none, solves := [], hold := false,
    stopped := false, dying := false, launch := none, counted := false, tries := 0, hungOn := none,
    synced := [], covered := [], fenced := none, last := 0 }

/-- A port with empty FIFOs. -/
def Port.reset : Port := { cmds := [], opened := none, results := [] }

/-- A core right after power good: it holds no context, and its rotation level is 12. -/
def CoreSt.reset : CoreSt :=
  { cycle := 0, ctx := none, supPc := 0, supArg := 0, pool := [], data := [], dirty := [],
    dqTop := 0, dqLaunch := [], trapq := [], mcdrop := 0, ovf := false, rx := [], recvs := [],
    twin := [], twinFull := 0, nf := [], sgm := 0, shpen := 0, engines := [], matq := [],
    level := 12, reported := false, pre := none, idle := 0, left := [], wildBits := [] }

/-- An idle engine. -/
def Engine.reset : Engine := { run := none, last := 15, tries := 0 }

/-- A quad right after power good: its licence is free (07 R212). -/
def Quad.reset : Quad :=
  { held := false, wait := false, yield := false, pre := false, hold := 0, grant := 0,
    credits := [], ptr := 0, last := [], grants := 0, exec := none }

/-- The Gaffer's tables, empty. -/
def Gaffer.reset : Gaffer :=
  { queues := [], ctxs := [], launches := [], ages := [], served := [], hwWait := [],
    reports := [], quadReports := [], reportAt := [], serviceAt := 0, msgs := [],
    saveBase := 0, saveSize := 0, saves := [],
    tries := [] }

/-- The power controller with no partition, every domain at level 12 (20 R400). -/
def Power.reset : Power :=
  { parts := [], level := [], opened := [], boundary := 0, thermal := 0, temps := [], cool := [],
    retained := [], told := [] }

/-- Management in stage SAFE (24 R432). -/
def Mgmt.reset : Mgmt :=
  { mbcmd := 0, stage := 1, repl := 0, detail := 0, result := 0, payload := [], stagBase := 0,
    stagSize := 0, staged := false, images := [], announced := [], replace := none, handover := [],
    derive := none, keys := [], certs := [], spdm := .none, heard := [], late := false }

/-- The links before any training (25 R442, R446). -/
def Link.reset : Link :=
  { cxl := false, gen := 5, width := 16, up := false, offer := (5, 16, false), downAt := 0, expired := false,
    trained := false, device := 0, failed := [], hostReply := none, peerReply := [] }

/-- The machine right after power good: the mask ROM runs in stage SAFE (24 R432), no context
stands on any core, no tag is empty, TIME is 0. -/
def State.reset : State :=
  { powered := true, time := 0, mem := [], empties := [], lineMeta := [], ueData := [],
    ueMeta := [], ceData := [], ceMeta := [], corrected := [], noiseIn := [], noiseOut := [], badBytes := [], oldWords := [], slots := [], cores := [], quads := [], feWaits := [],
    episodes := [], colls := [], pageReqs := [], gaffer := Gaffer.reset, power := Power.reset,
    mgmt := Mgmt.reset, link := Link.reset, agenda := [], free := 0, sel := {} }

end Sys2Proof.Machine
end

