-- ==== Sys2Proof/Machine/Store.lean ====
section
/-!
DEFINITION. Sparse collections and the memory. A collection lists, in strictly rising order of
their numbers, only the records that differ from the default; writing the default removes the
entry. The one memory of the model is such a collection of bytes whose default is 0: what an
unlisted byte reads as is 0 (22 R412 for HBM and the second tier, 06 R165 for WM, 15 R346 for
WB, AB and CB; log 3 for host memory, peer packages and a core not yet given).
-/

namespace Sys2Proof.Machine

/-- The record at number k, or the default d. -/
def mapGet {α : Type} (d : α) (m : Map α) (k : Nat) : α :=
  match m with
  | [] => d
  | (j, x) :: r => if j = k then x else mapGet d r k

/-- The collection with record v at number k. -/
def mapSet {α : Type} [DecidableEq α] (d : α) (m : Map α) (k : Nat) (v : α) : Map α :=
  match m with
  | [] => if v = d then [] else [(k, v)]
  | (j, x) :: r =>
    if k < j then (if v = d then (j, x) :: r else (k, v) :: (j, x) :: r)
    else if k = j then (if v = d then r else (k, v) :: r)
    else (j, x) :: mapSet d r k v

/-- The record at number k, if one is listed. -/
def mapFind {α : Type} (m : Map α) (k : Nat) : Option α :=
  match m with
  | [] => none
  | (j, x) :: r => if j = k then some x else mapFind r k

/-- A collection whose records all count: record v at number k. -/
def mapPut {α : Type} (m : Map α) (k : Nat) (v : α) : Map α :=
  match m with
  | [] => [(k, v)]
  | (j, x) :: r =>
    if k < j then (k, v) :: (j, x) :: r
    else if k = j then (k, v) :: r
    else (j, x) :: mapPut r k v

/-- A collection without number k. -/
def mapDel {α : Type} (m : Map α) (k : Nat) : Map α := m.filter fun e => e.1 ≠ k

/-- The lowest number that a collection does not list. -/
def freshKey {α : Type} (m : Map α) : Nat :=
  match (List.range (m.length + 1)).find? fun k => (mapFind m k).isNone with
  | some k => k
  | none => m.length

/-- A rising set of numbers with k put in or taken out. -/
def setPut (m : List Nat) (k : Nat) (present : Bool) : List Nat :=
  match m with
  | [] => if present then [k] else []
  | j :: r =>
    if k < j then (if present then k :: j :: r else j :: r)
    else if k = j then (if present then k :: r else r)
    else j :: setPut r k present

/-- The canonical form of a set of numbers: strictly rising. -/
def rising : List Nat → Bool
  | [] => true
  | k :: r => (r.all fun j => decide (k < j)) && rising r

/-- The canonical form of a collection: numbers strictly rising, no default record listed. -/
def mapWf {α : Type} [DecidableEq α] (d : α) (m : Map α) : Bool :=
  match m with
  | [] => true
  | (k, v) :: r => decide (v ≠ d) && (r.all fun e => decide (k < e.1)) && mapWf d r

/-- What a byte of memory that nothing has written reads as. -/
def Memory.unlisted : Byte := 0

/-- The canonical form of the memory. -/
def Memory.wf (m : List Host.Cell) : Bool := mapWf Memory.unlisted m

/-- The byte of memory at a key. -/
def readByte (m : List Host.Cell) (k : Nat) : Byte := mapGet Memory.unlisted m k

/-- The memory with one byte written. -/
def writeByte (m : List Host.Cell) (k : Nat) (b : Byte) : List Host.Cell :=
  mapSet Memory.unlisted m k b

/-- n bytes of memory from a key on. -/
def readBytes (m : List Host.Cell) (k : Nat) : Nat → List Byte
  | 0 => []
  | n + 1 => readByte m k :: readBytes m (k + 1) n

/-- The memory with bytes written from a key on. -/
def writeBytes (m : List Host.Cell) (k : Nat) : List Byte → List Host.Cell
  | [] => m
  | b :: r => writeBytes (writeByte m k b) (k + 1) r

/-! ### Keys

Every byte of every space has one number: the local memories of the cores below 2^32, then HBM,
the second tier, host memory and the peer packages from 2^60 on. -/

/-- The places a translated access goes to (16 R358). -/
inductive Tier where
  | hbm | tier2 | host
  | peer (device : BitVec 21)
deriving DecidableEq, Repr

/-- The number of a byte of GL, by its physical address. -/
def physKey (t : Tier) (pa : Nat) : Nat :=
  match t with
  | .hbm => 2 ^ 60 + pa
  | .tier2 => 2 * 2 ^ 60 + pa
  | .host => 3 * 2 ^ 60 + pa
  | .peer d => (4 + d.toNat) * 2 ^ 60 + pa

/-- The number of a byte of a core's local memory. -/
def localKey (c : Nat) (sp : Space) (off : Nat) : Nat :=
  match sp with
  | .wb => (c * 4 + 1) * 2 ^ 17 + off
  | .ab => (c * 4 + 2) * 2 ^ 17 + off
  | .cb => (c * 4 + 3) * 2 ^ 17 + off
  | _ => c * 4 * 2 ^ 17 + off

/-- The bytes of a local space (10 R285). -/
def spaceBytes (sp : Space) : Nat :=
  match sp with
  | .cb => 2 ^ 16
  | _ => 2 ^ 17

/-! ### Records of the state -/

/-- The number of slot sl of core c. -/
def slotKey (c sl : Nat) : Nat := c * 16 + sl

/-- Slot sl of core c. -/
def State.slot (s : State) (c sl : Nat) : Slot := mapGet Slot.reset s.slots (slotKey c sl)

/-- Core c. -/
def State.core (s : State) (c : Nat) : CoreSt := mapGet CoreSt.reset s.cores c

/-- Quad q. -/
def State.quad (s : State) (q : Nat) : Quad := mapGet Quad.reset s.quads q

/-- Port e of a slot. -/
def Slot.port (x : Slot) (e : Nat) : Port := mapGet Port.reset x.ports e

/-- A slot with port e replaced. -/
def Slot.setPort (x : Slot) (e : Nat) (p : Port) : Slot :=
  { x with ports := mapSet Port.reset x.ports e p }

/-- Engine e of a core. -/
def CoreSt.engine (x : CoreSt) (e : Nat) : Engine := mapGet Engine.reset x.engines e

/-- A core with engine e replaced. -/
def CoreSt.setEngine (x : CoreSt) (e : Nat) (g : Engine) : CoreSt :=
  { x with engines := mapSet Engine.reset x.engines e g }

/-- Whether entry i of a core's twin window is full (06 R193). -/
def CoreSt.twinAt (x : CoreSt) (i : Nat) : Bool := x.twinFull.getLsbD i

/-! ### Positions (00 R5, R6)

A core's number is CORE[11:0]: x + 32 y + 1024 die. -/

/-- x of a core. -/
def coreX (c : Nat) : Nat := c % 32

/-- y of a core. -/
def coreY (c : Nat) : Nat := c / 32 % 32

/-- The die of a core. -/
def coreDie (c : Nat) : Nat := c / 1024 % 4

/-- The core at (x, y, die). -/
def coreAt (x y d : Nat) : Nat := x + 32 * y + 1024 * d

/-- The rank of a core in its quad. -/
def coreRank (c : Nat) : Nat := coreX c % 2 + 2 * (coreY c % 2)

/-- The core of the same quad with rank r. -/
def quadCore (c r : Nat) : Nat :=
  coreAt (coreX c / 2 * 2 + r % 2) (coreY c / 2 * 2 + r / 2 % 2) (coreDie c)

/-- The number of a core's quad: 256 die + 16 row + column. -/
def quadOf (c : Nat) : Nat := coreDie c * 256 + coreY c / 2 * 16 + coreX c / 2

/-- The column of a quad. -/
def quadCol (q : Nat) : Nat := q % 16

/-- The row of a quad. -/
def quadRow (q : Nat) : Nat := q / 16 % 16

/-- The die of a quad. -/
def quadDie (q : Nat) : Nat := q / 256 % 4

/-- The core of rank r of a quad. -/
def quadMember (q r : Nat) : Nat :=
  coreAt (quadCol q * 2 + r % 2) (quadRow q * 2 + r / 2 % 2) (quadDie q)

/-- The twin of a core. -/
def twinOf (c : Nat) : Nat := coreAt (31 - coreX c) (coreY c) (Nat.xor (coreDie c) 1)

/-- The twin of a quad. -/
def twinQuad (q : Nat) : Nat :=
  Nat.xor (quadDie q) 1 * 256 + quadRow q * 16 + (15 - quadCol q)

/-- The operating-point class of a quad column: 0 efficient, 1 medium, 2 fast. -/
def colClass (col : Nat) : Nat := if col < 6 then 0 else if col < 10 then 1 else 2

/-- The boost domain of a core: 16 die + quad column (20 R398). -/
def domainOf (c : Nat) : Nat := coreDie c * 16 + coreX c / 2

end Sys2Proof.Machine
end

