-- ==== Sys2Proof/Machine/Effect.lean ====
section
/-!
DEFINITION. Effects: the primitive changes of the state. Every meaning computes a list of
effects, and the step applies them; so what holds of every effect holds of every step.

The first group replaces a record whole. The second group changes a record where it stands, so
that the effects of the two words of a pair combine (02 R46).
-/

namespace Sys2Proof.Machine

/-- A primitive change of the state. -/
inductive Eff where
  /-- Bytes written from a key on. -/
  | mem (k : Nat) (bs : List Byte)
  /-- Bytes written to a core's WM from an offset on; their lines are clean no more (06 R165). -/
  | wm (c off : Nat) (bs : List Byte)
  /-- Lines of a core's WM marked clean: zero, every tag full (09 R270). -/
  | clean (c line n : Nat)
  /-- Bytes from a key on read as zero again. -/
  | zero (k n : Nat)
  /-- The tag of the dword at a key (06 R173). -/
  | tag (k : Nat) (full : Bool)
  /-- The metadata of the line at a key (22 R412). -/
  | line (k : Nat) (m : BitVec 72)
  /-- POISON bits set in the metadata of the line at a key (22 R410). -/
  | poison (k : Nat) (p : BitVec 4)
  /-- Errors of sectors and of lines' metadata that are no more: an access has met an uncorrectable one, or
  a write has replaced the sector (22 R413). -/
  | faded (data md : List Nat)
  /-- Sectors, and lines' metadata, whose correctable error has been met, each counted at its station
  (22 R413). -/
  | repaired (data md : List Nat)
  /-- Damage in flight that bytes have suffered, on their way in or out of a station (22 R410). -/
  | landed (out : Bool) (l : List Nat)
  | slot (c sl : Nat) (x : Slot)
  | core (c : Nat) (x : CoreSt)
  | quad (q : Nat) (x : Quad)
  | gaffer (g : Gaffer)
  | power (p : Power)
  | mgmt (m : Mgmt)
  | link (l : Link)
  | waits (l : List FeWait)
  | episodes (l : List Episode)
  | colls (l : List Collective)
  | pages (l : List PageReq)
  | powered (b : Bool)
  | time (t : BitVec 64)
  /-- Power good: everything returns to its reset value but the bytes of these key ranges, their
  metadata, and the power controller's record given. -/
  | restart (keep : List (Nat × Nat)) (p : Power)
  /-- Every line of HBM and of the second tier written as zero with the reset metadata and full tags,
  but for these key ranges (22 R412, 25 R450). -/
  | fresh (keep : List (Nat × Nat))
  /-- A step that is due next, put at the end of the agenda. -/
  | due (i : Instr) (x : Sel)
  /-- One free value has been used. -/
  | free
  /-- The core's cycle count rises by one (02 R37). -/
  | tick (c : Nat)
  /-- An asynchronous operation of a slot's thread becomes outstanding. -/
  | op (c sl : Nat) (o : AsyncOp)
  /-- A register has been written: results still outstanding into it are not (02 R62). -/
  | past (c sl code : Nat)
  /-- An entry joins the tail of a slot's store buffer (06 R166). -/
  | sb (c sl : Nat) (e : SbEntry)
  /-- A header is accepted at a port (08 R235). -/
  | header (c sl e : Nat) (x : EngCmd)
  /-- An operand element is pushed to a port with an open command (08 R233). -/
  | operand (c sl e : Nat) (v : Vec)
  /-- The oldest result element of a port is taken (08 R231). -/
  | popResult (c sl e : Nat)
  /-- The oldest element of a stream is taken (06 R192). -/
  | popStream (c sl t : Nat)
  /-- The slot's unfolding configuration is written (07 R201). -/
  | munf (c sl : Nat) (m : Munf)
  /-- A permutation is handed to the route-solving unit (07 R221). -/
  | solve (c sl : Nat) (x : Solve)
  /-- An engine operation is placed in the core's dispatch queue (07 R196). -/
  | matrix (c : Nat) (o : MatOp)
  /-- Words that a store has changed, as they were (02 R68). -/
  | old (l : List OldWord)
  /-- Flags are recorded in the FFLAGS byte at a WM offset (03 R85). -/
  | flags (c off : Nat) (f : BitVec 8)
deriving DecidableEq, Repr

/-- The translation stations: one under the memory edge of each die (log 27). -/
def stationCount : Nat := 4

/-- The number of the first byte of the line that a key lies in. -/
def lineBase (k : Nat) : Nat := k / 128 * 128

/-- The station of the line at a key. -/
def stationOf (k : Nat) : Nat := Config.station (lineBase k) % stationCount

/-- The errors corrected at each station with one more, in the line at a key. -/
def countCorrected (m : Map Nat) (k : Nat) : Map Nat := mapSet 0 m (stationOf k) (mapGet 0 m (stationOf k) + 1)

/-- The state with the correctable error of a sector met: it is counted, once (22 R413). -/
def State.repair (s : State) (k : Nat) : State :=
  if s.ceData.contains k then
    { s with ceData := setPut s.ceData k false, corrected := countCorrected s.corrected k }
  else s

/-- The state with the correctable error of a line's metadata met: it is counted, once (22 R413). -/
def State.repairMeta (s : State) (k : Nat) : State :=
  if s.ceMeta.contains k then
    { s with ceMeta := setPut s.ceMeta k false, corrected := countCorrected s.corrected k }
  else s

/-- Damage with the cells at some keys taken out. -/
def lessNoise (m : List Host.Cell) (l : List Nat) : List Host.Cell := m.filter fun e => ! l.contains e.1

/-- WM lines touched by n bytes from an offset on, put into the set of lines not clean. -/
def dirtyLines (d : List Nat) (off n : Nat) : List Nat :=
  if n = 0 then d
  else (fromTo (off / 64) ((off + n - 1) / 64 + 1 - off / 64)).foldl (fun d l => setPut d l true) d

/-- The state with a core replaced. -/
def State.setCore (s : State) (c : Nat) (x : CoreSt) : State :=
  { s with cores := mapSet CoreSt.reset s.cores c x }

/-- The state with a slot replaced. -/
def State.setSlot (s : State) (c sl : Nat) (x : Slot) : State :=
  { s with slots := mapSet Slot.reset s.slots (slotKey c sl) x }

/-- The state with a quad replaced. -/
def State.setQuad (s : State) (q : Nat) (x : Quad) : State :=
  { s with quads := mapSet Quad.reset s.quads q x }

/-- The state with bytes of a core's WM written. -/
def State.setWm (s : State) (c off : Nat) (bs : List Byte) : State :=
  let x := s.core c
  { s with mem := writeBytes s.mem (localKey c .wm off) bs }.setCore c
    { x with dirty := dirtyLines x.dirty off bs.length }

/-- The memory with n bytes from a key on unlisted. -/
def zeroBytes (m : List Host.Cell) (k n : Nat) : List Host.Cell :=
  m.filter fun e => ! (decide (k ≤ e.1) && decide (e.1 < k + n))

/-- A set of numbers without those of n from k on: what is written holds an error no more. -/
def outOf (m : List Nat) (k n : Nat) : List Nat :=
  m.filter fun j => ! (decide (k ≤ j) && decide (j < k + n))

/-- Whether a number lies in one of some ranges, each a first number and a count. -/
def inRanges (l : List (Nat × Nat)) (k : Nat) : Bool :=
  l.any fun r => decide (r.1 ≤ k) && decide (k < r.1 + r.2)

/-- Whether a key names a byte of HBM or the second tier. -/
def memoryKey (k : Nat) : Bool := decide (2 ^ 60 ≤ k) && decide (k < 3 * 2 ^ 60)

/-- The code of a g register. -/
def gc (r : Reg) : Nat := r.toNat

/-- The code of a vector register or port. -/
def vc (r : Reg) : Nat := 32 + r.toNat

/-- The register code of a destination. -/
def Dst.code (d : Dst) : Option Nat :=
  match d with
  | .none => Option.none
  | .g r => if r = 0 then Option.none else some (gc r)
  | .v r => some (vc r)

/-- A slot whose register `code` has been written by what stands before `seq` in program order
(02 R62). -/
def Slot.overwrite (x : Slot) (tid seq code : Nat) : Slot :=
  { x with async := x.async.map fun o =>
      if o.tid = tid ∧ o.seq < seq ∧ o.dst.code = some code then { o with past := true } else o }

/-- A slot with a command accepted at port e: complete at once when no operand follows. -/
def Slot.accept (x : Slot) (e : Nat) (cmd : EngCmd) : Slot :=
  let p := x.port e
  if field cmd.hdr 19 16 = 0 then x.setPort e { p with cmds := p.cmds ++ [cmd] }
  else x.setPort e { p with opened := some cmd }

/-- A slot with an operand element pushed to port e. -/
def Slot.operand (x : Slot) (e : Nat) (v : Vec) : Slot :=
  let p := x.port e
  match p.opened with
  | none => x
  | some cmd =>
    let cmd := { cmd with operands := cmd.operands ++ [v] }
    if cmd.operands.length = field cmd.hdr 19 16 then
      x.setPort e { p with cmds := p.cmds ++ [cmd], opened := none }
    else x.setPort e { p with opened := some cmd }

/-- The state after an effect. -/
def Eff.apply (s : State) (e : Eff) : State :=
  match e with
  | .mem k bs => { s with mem := writeBytes s.mem k bs, badBytes := outOf s.badBytes k bs.length }
  | .wm c off bs => s.setWm c off bs
  | .clean c l n =>
    let x := s.core c
    { s with mem := zeroBytes s.mem (localKey c .wm (64 * l)) (64 * n),
             empties := outOf s.empties (localKey c .wm (64 * l)) (64 * n) }.setCore c
      { x with
        dirty := x.dirty.filter fun j => ! (decide (l ≤ j) && decide (j < l + n)),
        wildBits := x.wildBits.filter fun b => ! (decide (l ≤ 32 * b) && decide (32 * b < l + n)) }
  | .zero k n => { s with mem := zeroBytes s.mem k n, badBytes := outOf s.badBytes k n }
  | .tag k full => { s with empties := setPut s.empties k (! full) }
  | .line k m => { s with lineMeta := mapSet 0 s.lineMeta k m }
  | .poison k p =>
    { s with lineMeta := mapSet 0 s.lineMeta k (mapGet 0 s.lineMeta k ||| p.setWidth 72 <<< 68) }
  | .faded d m => { s with ueData := s.ueData.filter fun k => ! d.contains k,
                           ueMeta := s.ueMeta.filter fun k => ! m.contains k,
                           ceData := s.ceData.filter fun k => ! d.contains k,
                           ceMeta := s.ceMeta.filter fun k => ! m.contains k }
  | .repaired d m => m.foldl State.repairMeta (d.foldl State.repair s)
  | .landed out l =>
    if out then { s with noiseOut := lessNoise s.noiseOut l }
    else { s with noiseIn := lessNoise s.noiseIn l }
  | .slot c sl x => s.setSlot c sl x
  | .core c x => s.setCore c x
  | .quad q x => s.setQuad q x
  | .gaffer g => { s with gaffer := g }
  | .power p => { s with power := p }
  | .mgmt m => { s with mgmt := m }
  | .link l => { s with link := l }
  | .waits l => { s with feWaits := l }
  | .episodes l => { s with episodes := l }
  | .colls l => { s with colls := l }
  | .pages l => { s with pageReqs := l }
  | .powered b => { s with powered := b }
  | .time t => { s with time := t }
  | .restart keep p =>
    { State.reset with
      mem := s.mem.filter fun e => inRanges keep e.1,
      lineMeta := s.lineMeta.filter fun e => inRanges keep e.1,
      power := p, agenda := s.agenda, free := s.free, sel := s.sel }
  | .fresh keep =>
    { s with
      mem := s.mem.filter fun e => ! memoryKey e.1 || inRanges keep e.1,
      empties := s.empties.filter fun k => ! memoryKey k || inRanges keep k,
      lineMeta := s.lineMeta.filter fun e => inRanges keep e.1,
      ueData := s.ueData.filter (inRanges keep),
      ceData := s.ceData.filter (inRanges keep),
      ueMeta := s.ueMeta.filter (inRanges keep),
      ceMeta := s.ceMeta.filter (inRanges keep) }
  | .due i x => { s with agenda := s.agenda ++ [(i, x)] }
  | .free => { s with free := s.free + 1 }
  | .tick c => s.setCore c { s.core c with cycle := (s.core c).cycle + 1 }
  | .op c sl o =>
    let x := s.slot c sl
    s.setSlot c sl { x with
      async := x.async ++ [{ o with
        seq := x.seq, cycle := (s.core c).cycle.toNat, launch := x.launch }], seq := x.seq + 1 }
  | .past c sl code =>
    let x := s.slot c sl
    s.setSlot c sl (x.overwrite x.tid x.seq code)
  | .sb c sl e =>
    let x := s.slot c sl
    s.setSlot c sl { x with
      sb := x.sb ++ [{ e with
        seq := x.seq, cycle := (s.core c).cycle.toNat, launch := x.launch }], seq := x.seq + 1 }
  | .header c sl e cmd =>
    let x := s.slot c sl
    s.setSlot c sl { x.accept e { cmd with seq := x.seq } with seq := x.seq + 1 }
  | .operand c sl e v => s.setSlot c sl ((s.slot c sl).operand e v)
  | .popResult c sl e =>
    let x := s.slot c sl
    let p := x.port e
    s.setSlot c sl (x.setPort e { p with results := p.results.drop 1 })
  | .popStream c sl t =>
    let x := s.slot c sl
    match mapFind x.streams t with
    | none => s
    | some b => s.setSlot c sl { x with
        streams := mapPut x.streams t { b with fifo := b.fifo.drop 1, taken := b.taken + 1 } }
  | .munf c sl m => s.setSlot c sl { s.slot c sl with munf := some m }
  | .solve c sl x =>
    let y := s.slot c sl
    s.setSlot c sl { y with solves := y.solves ++ [x] }
  | .matrix c o =>
    let x := s.core c
    s.setCore c { x with matq := x.matq ++ [o] }
  | .old l => { s with oldWords := s.oldWords ++ l }
  | .flags c off f => s.setWm c off [readByte s.mem (localKey c .wm off) ||| f]

/-- The state after effects, in order. -/
def applyAll (s : State) (l : List Eff) : State := l.foldl Eff.apply s

/-- A run of effects: the state so far, the effects that led to it, newest first, and the pages
whose requests the host has rejected for the accesses that the run tries again (16 R364). -/
structure Run where
  s    : State
  effs : List Eff
  rejects : List (BitVec 20 × Nat)

/-- A run that has done nothing yet. -/
def Run.start (s : State) : Run := { s := s, effs := [], rejects := [] }

/-- A run with one more effect. -/
def Run.emit (r : Run) (e : Eff) : Run := { r with s := e.apply r.s, effs := e :: r.effs }

/-- Whether the host has rejected the page of an address for a process. -/
def Run.rejected (r : Run) (pid : BitVec 20) (va : Nat) : Bool := r.rejects.contains (pid, va / 4096)

/-- A run with more effects. -/
def Run.emits (r : Run) (l : List Eff) : Run := l.foldl Run.emit r

/-- A run with a core's record changed. -/
def Run.modCore (r : Run) (c : Nat) (f : CoreSt → CoreSt) : Run :=
  r.emit (.core c (f (r.s.core c)))

/-- A run with a slot's record changed. -/
def Run.modSlot (r : Run) (c sl : Nat) (f : Slot → Slot) : Run :=
  r.emit (.slot c sl (f (r.s.slot c sl)))

/-- A run with a quad's record changed. -/
def Run.modQuad (r : Run) (q : Nat) (f : Quad → Quad) : Run := r.emit (.quad q (f (r.s.quad q)))

/-- A run with the Gaffer's record changed. -/
def Run.modGaffer (r : Run) (f : Gaffer → Gaffer) : Run := r.emit (.gaffer (f r.s.gaffer))

/-- A run with a context's record changed. -/
def Run.modCtx (r : Run) (x : Nat) (f : Context → Context) : Run :=
  match mapFind r.s.gaffer.ctxs x with
  | some y => r.modGaffer fun g => { g with ctxs := mapPut g.ctxs x (f y) }
  | none => r

/-- A run with what a faulted access of another leaves: poison and the errors met (22 R410, R413, R414). -/
def Run.spoiled (r q : Run) : Run :=
  r.emits (q.effs.reverse.filter fun e => match e with
    | .poison _ _ => true
    | .faded _ _ => true
    | .repaired _ _ => true
    | .landed _ _ => true
    | _ => false)

/-- The effects of a run, oldest first. -/
def Run.done (r : Run) : List Eff := r.effs.reverse

/-- The state after a step that has these effects. A step that is not due, because what it acts on
does not stand where the spec has it when the step happens, changes nothing (log 63). -/
def after (s : State) (l : Option (List Eff)) : State := applyAll s (l.getD [])

/-- The outcome of a step that has these effects, or that is not due: the part takes it while it
has power (25 R448). -/
def finish (s : State) (l : Option (List Eff)) : Host.Outcome State Fault Refusal :=
  if s.powered then .next (after s l) else .fault .powerOff

end Sys2Proof.Machine
end

