-- ==== Sys2Proof/Machine/Ops.lean ====
section
/-!
DEFINITION. The named operations over workspaces and their registers, and the taking of a trap
and the return from it (12 R316-R323).
-/

namespace Sys2Proof.Machine

/-! ### Workspace registers (09 R269, 04 R122)

A thread's registers are the bytes of its 2 KiB workspace block in its core's WM. `c` is the
core and `b` the block. -/

/-- n bytes of workspace b of core c, from an offset on. -/
def readWsp (s : State) (c b off n : Nat) : List Byte :=
  readBytes s.mem (localKey c .wm (b * 2048 + off)) n

/-- A dword of a workspace. -/
def wspDword (s : State) (c b off : Nat) : Word := wordOf (readWsp s c b off 8)

/-- The write of bytes into a workspace. -/
def wspWrite (c b off : Nat) (bs : List Byte) : Eff := .wm c (b * 2048 + off) bs

/-- g register r: g0 reads zero (04 R93). -/
def gReg (s : State) (c b : Nat) (r : Reg) : Word :=
  if r = 0 then 0 else wspDword s c b (8 * r.toNat)

/-- The write of g register r: a write to g0 is discarded (04 R93). -/
def setG (c b : Nat) (r : Reg) (v : Word) : List Eff :=
  if r = 0 then [] else [wspWrite c b (8 * r.toNat) (wordBytes v)]

/-- v register r, 0 to 23. -/
def vReg (s : State) (c b : Nat) (r : Reg) : Vec := vecOf (readWsp s c b (0x100 + 16 * r.toNat) 16)

/-- The write of v register r, 0 to 23. -/
def setV (c b : Nat) (r : Reg) (v : Vec) : List Eff :=
  [wspWrite c b (0x100 + 16 * r.toNat) (vecBytes v)]

/-- m register r, 0 to 7. -/
def mReg (s : State) (c b : Nat) (r : Reg) : BitVec 16 :=
  BitVec.ofNat 16 (ofBytes (readWsp s c b (0x280 + 2 * r.toNat) 2))

/-- The write of m register r. -/
def setM (c b : Nat) (r : Reg) (v : BitVec 16) : List Eff :=
  [wspWrite c b (0x280 + 2 * r.toNat) (toBytes 2 v.toNat)]

/-- q register r: 384 bits (07 R218). -/
def qReg (s : State) (c b : Nat) (r : BitVec 3) : BitVec 384 :=
  BitVec.ofNat 384 (ofBytes (readWsp s c b (0x300 + 48 * r.toNat) 48))

/-- The write of q register r, with the reserved bits zero (07 R218). -/
def setQ (c b : Nat) (r : BitVec 3) (v : BitVec 384) : List Eff :=
  [wspWrite c b (0x300 + 48 * r.toNat) (toBytes 48 (v.toNat % 2 ^ 352))]

/-- The PC image: the address of the thread's next unissued bundle. -/
def pcImage (s : State) (c b : Nat) : Nat := (wspDword s c b 0x2E0).toNat % 2 ^ 57

/-- The write of the PC image. -/
def setPc (c b pc : Nat) : Eff := wspWrite c b 0x2E0 (toBytes 8 (pc % 2 ^ 57))

/-- The dword that holds COHORT, TIDX and STRICT. -/
def threadDword (s : State) (c b : Nat) : Word := wspDword s c b 0x2E8

/-- STRICT.ON of a thread. -/
def strictOn (s : State) (c b : Nat) : Bool := bitAt (threadDword s c b) 0

/-- The dword that holds WLIM, RM and FFLAGS. -/
def ctlDword (s : State) (c b : Nat) : Word := wspDword s c b 0x2F0

/-- WLIM.LIMIT of a thread. -/
def wlimOf (s : State) (c b : Nat) : Nat := field (ctlDword s c b) 63 32

/-- RM.MODE of a thread. -/
def rmMode (s : State) (c b : Nat) : Nat := field (ctlDword s c b) 18 16

/-- FFLAGS [13:0] of a thread. -/
def fflagsOf (s : State) (c b : Nat) : BitVec 14 := (ctlDword s c b).extractLsb' 0 14

/-- SRG of a thread. -/
def srgOf (s : State) (c b : Nat) : BitVec 32 := (wspDword s c b 0x2F8).extractLsb' 0 32

/-- The write of SRG's state. -/
def setSrg (c b : Nat) (v : BitVec 32) : Eff := wspWrite c b 0x2F8 (toBytes 4 v.toNat)

/-- The state of a loop level (04 R106). -/
structure LoopState where
  active : Bool
  length : Nat
  count  : Nat
  start  : Nat
deriving DecidableEq, Repr

/-- The loop state of level l. -/
def loopState (s : State) (c b l : Nat) : LoopState :=
  let x := wspDword s c b (0x290 + 16 * l)
  let y := wspDword s c b (0x298 + 16 * l)
  { active := bitAt x 63, length := field x 62 48, count := field x 47 0, start := field y 56 0 }

/-- The write of the loop state of level l. -/
def setLoop (c b l : Nat) (x : LoopState) : Eff :=
  wspWrite c b (0x290 + 16 * l)
    (toBytes 8 (natOf x.active * 2 ^ 63 + x.length * 2 ^ 48 + x.count) ++ toBytes 8 x.start)

/-- The address of a loop body's last word, START + 4 × (LENGTH − 1): with a LENGTH of 0, which
`wwr` can set, the word before START. -/
def LoopState.lastWord (x : LoopState) : Int := x.start + 4 * ((x.length : Int) - 1)

/-- A level with one iteration done: without one left it is active no more (04 R108). -/
def LoopState.less (x : LoopState) : LoopState :=
  { x with count := if x.count = 0 then 2 ^ 48 - 1 else x.count - 1, active := decide (x.count ≠ 1) }

/-! ### Threads -/

/-- The outstanding operations of the thread that stands in a slot. -/
def Slot.own (x : Slot) : List AsyncOp := x.async.filter fun o => o.tid = x.tid

/-- Whether an `stfe` of this thread still stands in the buffer: it counts as outstanding until
performed (06 R176). -/
def Slot.ownStfe (x : Slot) : List SbEntry :=
  x.sb.filter fun e => e.tid = x.tid && (match e.kind with | .stfe _ _ _ => true | _ => false)

/-- The thread's outstanding asynchronous operations (02 R43): the decrement of a `join` and the record
write of a `susp` among them (log 81). -/
def Slot.outstanding (x : Slot) : Nat := x.own.length + x.ownStfe.length

/-- A slot whose trapped thread has a given cause. -/
def Slot.trapCause (x : Slot) : Option (BitVec 8) := x.trap.map fun t => t.record.cause

/-- The context of a core. -/
def State.ctxOf (s : State) (c : Nat) : Option Context :=
  match (s.core c).ctx with
  | none => none
  | some x => mapFind s.gaffer.ctxs x

/-- The process identifier of the context on a core; 0 on a core that holds none. -/
def State.pidOf (s : State) (c : Nat) : BitVec 20 :=
  match s.ctxOf c with
  | some x => x.pid
  | none => 0

/-- Whether a live replacement pauses the Gaffer's services (24 R436). -/
def State.paused (s : State) : Bool := s.mgmt.repl == 2 || s.mgmt.repl == 3 || s.mgmt.repl == 5

/-- The context that a CTX address names, with its number (15 R339). -/
def State.ctxAt (s : State) (addr : Nat) : Option (Nat × Context) :=
  s.gaffer.ctxs.find? fun e => e.2.addr == addr && ! e.2.ended

/-! ### The cores of a scope (06 R182) -/

/-- Whether a scope-group entry holds a core. -/
def groupHas (x : Option Context) (i : Nat) (c : Nat) : Bool :=
  match x with
  | some x => (mapGet 0 x.groups i).getLsbD (1024 * coreDie c + 32 * coreY c + coreX c)
  | none => false

/-- Whether a rectangle value holds a core. -/
def rectHas (v : BitVec 24) (c : Nat) : Bool :=
  decide (field v 4 0 ≤ coreX c) && decide (coreX c ≤ field v 14 10)
    && decide (field v 9 5 ≤ coreY c) && decide (coreY c ≤ field v 19 15)
    && bitAt v (20 + coreDie c)

/-- Whether a resolved scope holds a core. -/
def scopeHas (x : Option Context) (n : ScopeName) (c : Nat) : Bool :=
  match n with
  | .rect v => rectHas v c
  | .group i => groupHas x i.toNat c
  | .level l u =>
    match l.toNat with
    | 1 => c == u
    | 2 => quadOf c == u
    | 3 => coreDie c == u
    | 6 => c == u / 16
    | _ => true

/-- The old words of changed code that a `fence.sc` of a core's thread covers as it completes now: those
that a core in its scope has changed (02 R68). -/
def fenceSees (s : State) (c : Nat) (n : ScopeName) : List Nat :=
  (s.oldWords.zipIdx.filter fun e => scopeHas (s.ctxOf c) n e.1.core).map Prod.snd

/-- A slot whose thread has executed a `fence.sc` that covers these old words. -/
def Slot.covers (x : Slot) (l : List Nat) : Slot :=
  { x with covered := l.foldl (fun l i => setPut l i true) x.covered, fenced := none }

/-! ### The trap queue and its head window (12 R318-R320) -/

/-- The four dwords of a trap record. -/
def TrapRec.bytes (r : TrapRec) : List Byte :=
  toBytes 8 (r.cause.toNat + r.slot.toNat * 2 ^ 8 + natOf r.defer * 2 ^ 16
    + natOf r.pair * 2 ^ 17 + natOf r.mchk * 2 ^ 18 + natOf r.sup * 2 ^ 19
    + natOf r.ovf * 2 ^ 20 + natOf r.stale * 2 ^ 21 + r.aux2.toNat * 2 ^ 32)
  ++ toBytes 8 (r.pc % 2 ^ 57) ++ wordBytes r.aux ++ wordBytes r.time

/-- The head window and the queue status of a core. -/
def windowBytes (x : CoreSt) : List Byte :=
  (match x.trapq with
    | [] => List.replicate 32 0
    | r :: _ => r.bytes)
  ++ toBytes 8 (x.trapq.length + x.mcdrop.toNat * 2 ^ 8)

/-- A core written back with its head window kept current. -/
def putQueue (c : Nat) (x : CoreSt) : List Eff :=
  [.core c x, .wm c 0x480 (windowBytes x)]

/-- A machine-check record joins the queue, or is dropped and counted (12 R320). -/
def CoreSt.pushCheck (x : CoreSt) (r : TrapRec) : CoreSt :=
  if 16 ≤ (x.trapq.filter fun t => t.mchk).length then
    { x with mcdrop := if x.mcdrop = 255 then 255 else x.mcdrop + 1, ovf := true }
  else { x with trapq := x.trapq ++ [{ r with ovf := x.ovf }], ovf := false }

/-- A machine-check record of an agent of core c (12 R324): agent 0-3 an engine, 4 the matrix
engine, 5 any other; of the bundle at pc, a pair or not, or of none. -/
def machineCheck (s : State) (c sl : Nat) (cause : BitVec 8) (addr : Word) (agent pc : Nat) (pair : Bool) :
    List Eff :=
  putQueue c ((s.core c).pushCheck
    { cause := cause, slot := BitVec.ofNat 4 sl, defer := false, pair := pair, mchk := true,
      sup := false, ovf := false, stale := false, pc := pc, aux := addr,
      aux2 := BitVec.ofNat 32 agent, time := s.time, launch := none, tid := 0 })

/-! ### Taking a trap and returning from it -/

/-- The record of a trap raised now by slot sl. -/
def trapRecord (s : State) (sl : Nat) (cause : BitVec 8) (aux : Word) (aux2 : BitVec 32)
    (pc : Nat) (pair defer : Bool) : TrapRec :=
  { cause := cause, slot := BitVec.ofNat 4 sl, defer := defer, pair := pair, mchk := false,
    sup := sl == 0, ovf := false, stale := false, pc := pc, aux := aux, aux2 := aux2,
    time := s.time, launch := none, tid := 0 }

/-- A cause of `trap n`. -/
def isTrapN (cause : BitVec 8) : Bool := decide (0xE0 ≤ cause.toNat ∧ cause.toNat < 0xF0)

/-- A cause after which the thread's waits stay outstanding (12 R316). -/
def keepsWaits (cause : BitVec 8) : Bool := cause == 0x64 || cause == 0x65

/-- The records in a queue that hold places for slot records. -/
def slotRecords (l : List TrapRec) : List TrapRec := l.filter fun t => ! t.mchk

/-- A queue that a record of the supervisor joins, if one of the 16 places for slot records is
free (12 R320; log 65). -/
def pushSup (l : List TrapRec) (r : TrapRec) : List TrapRec :=
  if (slotRecords l).length < 16 then l ++ [r] else l

/-- The slot of a thread whose park ends with a trap of this cause, unless the cause keeps its waits: a
`fence.sc` whose park it ends completes with the trap's drain, and the thread has not been woken by
what it slept on (02 R68, 09 R281, 12 R316). -/
def Slot.unparked (x : Slot) (cause : BitVec 8) : Slot :=
  if keepsWaits cause then x
  else match x.park with
    | none => x
    | some p => { x with park := none, hungOn := none, fenced := match p.kind with
        | .fenceSc n => some n
        | _ => x.fenced }

/-- TAKING A TRAP (12 R316, R323): the thread of a slot parks at once, with the record made; its
waits survive only causes 0x64 and 0x65. A `trap n` of the supervisor joins the queue and the
supervisor goes on. -/
def takeTrap (s : State) (c sl : Nat) (r : TrapRec) : List Eff :=
  let x := s.slot c sl
  let r := { r with launch := x.launch, tid := x.tid }
  if sl = 0 ∧ isTrapN r.cause then
    let y := s.core c
    putQueue c { y with trapq := pushSup y.trapq r }
  else
    [.slot c sl { x.unparked r.cause with
      trap := some { record := r, queued := false }, asleep := none }]

/-- Whether the thread that a record names still stands parked by this trap (12 R318, R321). -/
def recordLive (s : State) (c : Nat) (r : TrapRec) : Bool :=
  r.mchk || r.sup ||
    (match (s.slot c r.slot.toNat).trap with
      | some t => t.queued && t.record.tid == r.tid
      | none => false)

/-- A trap queue with the STALE of its head kept current (12 R318). -/
def freshHead (s : State) (c : Nat) (l : List TrapRec) : List TrapRec :=
  match l with
  | [] => []
  | r :: rest => { r with stale := ! recordLive s c r } :: rest

/-- The head record removed from the queue. -/
def dropHead (s : State) (c : Nat) (x : CoreSt) : CoreSt :=
  { x with trapq := freshHead s c (x.trapq.drop 1) }

/-- A fork whose push faulted is tried again once its thread runs on (09 R276). -/
def retryFork (o : AsyncOp) : AsyncOp :=
  match o.kind, o.st with
  | .fork _ _, .withdrawn => { o with st := .done 0 }
  | _, _ => o

/-- A slot whose thread goes on, where a trap ended the park of a `fence.sc` (02 R68). -/
def Slot.refenced (s : State) (c : Nat) (x : Slot) : Slot :=
  match x.fenced with
  | none => x
  | some n => x.covers (fenceSees s c n)

/-- RETURNING FROM A TRAP (04 R128, 12 R321, R322): the head record leaves the queue, and its
thread runs from its PC image, or is asleep again when its waits were kept. -/
def returnFromTrap (s : State) (c : Nat) : List Eff :=
  let x := s.core c
  match x.trapq with
  | [] => []
  | r :: _ =>
    let sl := r.slot.toNat
    let y := s.slot c sl
    let resume : List Eff :=
      if r.mchk || r.sup || r.stale then []
      else [.slot c sl { Slot.refenced s c y with
        async := y.async.map retryFork, trap := none,
        park := y.park.map fun p => { p with cycle := x.cycle.toNat } }]
    resume ++ putQueue c (dropHead s c x)

/-- The supervisor placed on block 0 at its entry PC, every line clean but the head window, every
register zero but g3 (12 R323, 15 R346). -/
def placeSupervisor (s : State) (c : Nat) (x : CoreSt) : List Eff :=
  let y := s.slot c 0
  [.clean c 0 32, .wm c 0x480 (windowBytes x), setPc c 0 x.supPc] ++ setG c 0 3 x.supArg ++
  [.slot c 0 { Slot.reset with
    wspV := true, block := 0, tid := y.last + 1, last := y.last + 1, seq := y.seq,
    async := y.async.filter fun o => o.tid ≠ y.tid, sb := y.sb, outq := y.outq, ports := y.ports }]

/-! ### Records join the queue (12 R316, R320, R323, R324) -/

/-- Whether an operation stays outstanding when its thread's record is enqueued. -/
def AsyncOp.kept (o : AsyncOp) (cause : BitVec 8) : Bool :=
  match o.kind, o.st with
  | .fork _ _, .withdrawn => true
  | .fe .fepoll _ _ _, _ => false
  | .fe _ _ _ _, .waiting => keepsWaits cause
  | .barrier _ _, .waiting => cause == 0x65
  | .recv _, .done _ => false
  | .recv _, _ => cause == 0x65
  | .xwait _ _ false, .done _ => false
  | .xwait _ _ false, _ => cause == 0x65
  | _, _ => false

/-- Whether a slot's store buffer has drained as far as a record asks. -/
def drained (s : State) (c sl : Nat) (x : Slot) (cause : BitVec 8) : Bool :=
  match x.sb with
  | [] => true
  | e :: _ => keepsWaits cause &&
      s.feWaits.any fun w => w.core == c && w.slot == sl && w.seq == e.seq

/-- Whether a queue has a place for a record of a user slot: the slot's last one has left, and so
has one of the 16 (12 R320; log 65). -/
def recordPlace (l : List TrapRec) (sl : Nat) : Bool :=
  decide (sl = 0) || (decide ((slotRecords l).length < 16)
    && ! (slotRecords l).any fun t => t.slot.toNat == sl)

/-- The record of a slot's trap that is ready to join its core's queue. -/
def readyRecord (s : State) (c sl : Nat) : Option TrapState :=
  let x := s.slot c sl
  match x.trap with
  | some t =>
    if ! t.queued && (x.own.all fun o => o.kept t.record.cause) && drained s c sl x t.record.cause
        && x.solves.isEmpty && recordPlace (s.core c).trapq sl then some t
    else none
  | none => none

/-- Whether a record of the supervisor other than of a `trap n` is queued. -/
def supQueued (l : List TrapRec) : Bool := l.any fun t => t.sup && ! isTrapN t.cause

/-- A user slot stopped as `slotctl.stop` stops it; one that holds no thread seeks none
(12 R323). -/
def Slot.halted (x : Slot) : Slot :=
  if x.wspV then { x with hold := true } else { x with stopped := true }

/-- The stop of a core whose supervisor faulted twice: every user slot stops, and the Gaffer, told
of it, ends the context (12 R323). -/
def Run.stopCore (r : Run) (c : Nat) : Run :=
  let r := (fromTo 1 15).foldl (fun r sl => r.modSlot c sl Slot.halted) r
  match (r.s.core c).ctx with
  | some k => (r.modCore c fun x => { x with reported := true }).modCtx k fun y =>
      { y with ended := true }
  | none => r

/-- A record joins the tail of its core's queue; a faulted supervisor is placed again. -/
def Run.enqueueTrap (r : Run) (c sl : Nat) (t : TrapState) : Run :=
  let x := r.s.core c
  let again := sl == 0 && supQueued x.trapq
  let r := r.modSlot c sl fun y => { y with trap := some { t with queued := true } }
  let l := if sl = 0 then pushSup x.trapq t.record else x.trapq ++ [t.record]
  let r := r.emits (putQueue c { x with trapq := freshHead r.s c l })
  if sl = 0 then
    let r := r.emits (placeSupervisor r.s c (r.s.core c))
    if again then r.stopCore c else r
  else r

/-- The records of a core that are ready join its queue, in ascending slot order. -/
def Run.enqueueReady (r : Run) (c : Nat) : Run :=
  (List.range 16).foldl (fun r sl => match readyRecord r.s c sl with
    | some t => r.enqueueTrap c sl t
    | none => r) r

/-- A machine-check record of an agent of core c joins the queue behind the slot records that are
ready (12 R316, R324). -/
def Run.check (r : Run) (c sl : Nat) (cause : BitVec 8) (addr : Word) (agent : Nat) (pc : Nat := 0)
    (pair : Bool := false) : Run :=
  let r := r.enqueueReady c
  r.emits (machineCheck r.s c sl cause addr agent pc pair)

end Sys2Proof.Machine
end

