-- ==== Sys2Proof/Machine/Registers.lean ====
section
/-!
DEFINITION. Which registers each instruction reads and writes, as register codes: the file in
bits [7:5] (0 g, 1 v or port, 2 m, 3 q) and the number in bits [4:0] (02 R48, R49, R63).
-/

namespace Sys2Proof.Machine

/-- The code of a mask register. -/
def mc {n : Nat} (r : BitVec n) : Nat := 64 + r.toNat

/-- The code of a q register. -/
def qc (r : BitVec 3) : Nat := 96 + r.toNat

/-- The register codes that an instruction reads. -/
def readsOf (i : Instr) : List Nat :=
  match i with
  | .nop => []
  | .j _ => []
  | .jal _ => []
  | .jr a _ => [gc a]
  | .jalr _ a _ => [gc a]
  | .bEq a b _ => [gc a, gc b]
  | .bNe a b _ => [gc a, gc b]
  | .bLt a b _ => [gc a, gc b]
  | .bGe a b _ => [gc a, gc b]
  | .bLtu a b _ => [gc a, gc b]
  | .bGeu a b _ => [gc a, gc b]
  | .loop _ c _ => [gc c]
  | .lbrk _ => []
  | .lbrkStay _ => []
  | .fork a b _ => [gc a, gc b, gc 2, gc 3, gc 4, gc 5]
  | .join _ a _ => [gc a]
  | .susp a _ => [gc a, gc 1, gc 2, gc 3, gc 4, gc 5]
  | .yield => []
  | .halt => []
  | .ldB _ a _ _ => [gc a]
  | .ldBu _ a _ _ => [gc a]
  | .ldH _ a _ _ => [gc a]
  | .ldHu _ a _ _ => [gc a]
  | .ldW _ a _ _ => [gc a]
  | .ldWu _ a _ _ => [gc a]
  | .ldD _ a _ _ => [gc a]
  | .stB d a _ _ => [gc a, gc d]
  | .stH d a _ _ => [gc a, gc d]
  | .stW d a _ _ => [gc a, gc d]
  | .stD d a _ _ => [gc a, gc d]
  | .vld _ a _ _ => [gc a]
  | .vst d a _ _ => [gc a, vc d]
  | .vldm _ a _ m _ => [gc a, mc m]
  | .vstm d a _ m _ => [gc a, mc m, vc d]
  | .vgat _ a b _ _ => [gc a, vc b]
  | .vsca d a b _ _ => [gc a, vc b, vc d]
  | .pref a _ _ => [gc a]
  | .ldfe _ a _ _ => [gc a]
  | .ldfx _ a _ _ => [gc a]
  | .stfe d a _ _ => [gc a, gc d]
  | .stff d a _ _ => [gc a, gc d]
  | .fepoll _ a _ _ => [gc a]
  | .fesetE a _ _ => [gc a]
  | .fesetF a _ _ => [gc a]
  | .amo _ a b _ _ _ => [gc a, gc b]
  | .cas _ a b c _ _ => [gc a, gc b, gc c]
  | .fenceAcq a _ r => (if r == 1 then [gc a] else [])
  | .fenceRel a _ r => (if r == 1 then [gc a] else [])
  | .fenceAr a _ r => (if r == 1 then [gc a] else [])
  | .fenceSc a _ r => (if r == 1 then [gc a] else [])
  | .bar _ a b _ r _ => (if r == 1 then [gc a] else []) ++ [gc b]
  | .barnb _ a b _ r _ => (if r == 1 then [gc a] else []) ++ [gc b]
  | .send a b _ => [gc a, vc b]
  | .recv _ _ => []
  | .rprobe _ _ => []
  | .sbind _ a => [gc a]
  | .sclose _ => []
  | .xcopy a b c e q => [gc a, gc b, gc c] ++ (if e == 1 then [qc q] else [])
  | .xcopyFill a b c _ _ => [gc a, gc b, gc c]
  | .xgat a b c => [gc a, gc b, gc c]
  | .xgatSca a b c => [gc a, gc b, gc c]
  | .xgatScadd a b c => [gc a, gc b, gc c]
  | .xform a b c => [gc a, gc b, gc c]
  | .xformRans a b c => [gc a, gc b, gc c]
  | .xcoll a b c => [gc a, gc b, gc c]
  | .xcollBcast a b c => [gc a, gc b, gc c]
  | .xwait d a => [gc d, gc a]
  | .xwaitPoll d a => [gc d, gc a]
  | .tlrchk a _ => [gc a]
  | .lnew a _ c => [gc a, gc c]
  | .lfree a => [gc a]
  | .lpose a b => [gc a, gc b]
  | .lcommit a b => [gc a, gc b]
  | .lsplit a b c => [gc a, gc b, gc c]
  | .lmerge a b c => [gc a, gc b, gc c]
  | .lerr a _ => [gc a]
  | .lerrHdr a _ => [gc a]
  | .lprice a b => [gc a, gc b]
  | .lorder a b => [gc a, gc b]
  | .llight a b c => [gc a, gc b, gc c]
  | .llightBump a => [gc a]
  | .lshadow a b => [gc a, gc b]
  | .lreqTmpl a b => [gc a, gc b]
  | .lreqNow a => [gc a]
  | .lreqClr a => [gc a]
  | .twput d _ _ => [vc d]
  | .twget _ _ _ => []
  | .twtest _ _ => []
  | .crd _ _ => []
  | .cwr a _ => [gc a]
  | .crx _ a _ => [gc a]
  | .trap a _ => [gc a]
  | .rte => []
  | .wrd _ a b => [gc a, gc b]
  | .wwr d a b => [gc d, gc a, gc b]
  | .walloc _ => []
  | .wallocRel a => [gc a]
  | .slotctlKill _ a => [gc a]
  | .slotctlStat _ a => [gc a]
  | .slotctlStop _ a => [gc a]
  | .slotctlGo _ a => [gc a]
  | .tsc _ _ => []
  | .wspx _ a b => [gc a, gc b]
  | .mlicQ _ => []
  | .mlicAcq _ => []
  | .mlicRel _ => []
  | .add _ a b => [gc a, gc b]
  | .sub _ a b => [gc a, gc b]
  | .and _ a b => [gc a, gc b]
  | .or _ a b => [gc a, gc b]
  | .xor _ a b => [gc a, gc b]
  | .shl _ a b => [gc a, gc b]
  | .shr _ a b => [gc a, gc b]
  | .sra _ a b => [gc a, gc b]
  | .mul _ a b => [gc a, gc b]
  | .mulh _ a b => [gc a, gc b]
  | .mulhu _ a b => [gc a, gc b]
  | .div _ a b => [gc a, gc b]
  | .divu _ a b => [gc a, gc b]
  | .rem _ a b => [gc a, gc b]
  | .remu _ a b => [gc a, gc b]
  | .min _ a b => [gc a, gc b]
  | .max _ a b => [gc a, gc b]
  | .minu _ a b => [gc a, gc b]
  | .maxu _ a b => [gc a, gc b]
  | .slt _ a b => [gc a, gc b]
  | .sltu _ a b => [gc a, gc b]
  | .clz _ a => [gc a]
  | .ctz _ a => [gc a]
  | .popc _ a => [gc a]
  | .revB _ a => [gc a]
  | .revBit _ a => [gc a]
  | .ext _ a _ _ => [gc a]
  | .ins d a _ _ => [gc a, gc d]
  | .sel _ a b c => [gc a, gc b, gc c]
  | .addi _ a _ => [gc a]
  | .andi _ a _ => [gc a]
  | .ori _ a _ => [gc a]
  | .xori _ a _ => [gc a]
  | .shli _ a _ => [gc a]
  | .shri _ a _ => [gc a]
  | .srai _ a _ => [gc a]
  | .slti _ a _ => [gc a]
  | .kon _ _ => []
  | .konh d _ => [gc d]
  | .sltiu _ a _ => [gc a]
  | .vadd _ a b _ _ _ => [vc a, vc b]
  | .vsub _ a b _ _ _ => [vc a, vc b]
  | .vmul _ a b _ _ _ => [vc a, vc b]
  | .vmulh _ a b _ _ _ => [vc a, vc b]
  | .vfma d a b _ _ _ => [vc a, vc b, vc d]
  | .vfms d a b _ _ _ => [vc a, vc b, vc d]
  | .vfnma d a b _ _ _ => [vc a, vc b, vc d]
  | .vdiv _ a b _ _ _ => [vc a, vc b]
  | .vsqrt _ a _ _ _ => [vc a]
  | .vmin _ a b _ _ _ => [vc a, vc b]
  | .vmax _ a b _ _ _ => [vc a, vc b]
  | .vminn _ a b _ _ _ => [vc a, vc b]
  | .vmaxn _ a b _ _ _ => [vc a, vc b]
  | .vabs _ a _ _ _ => [vc a]
  | .vneg _ a _ _ _ => [vc a]
  | .vand _ a b => [vc a, vc b]
  | .vor _ a b => [vc a, vc b]
  | .vxor _ a b => [vc a, vc b]
  | .vnot _ a => [vc a]
  | .vshl _ a b _ _ _ => [vc a, vc b]
  | .vshr _ a b _ _ _ => [vc a, vc b]
  | .vsra _ a b _ _ _ => [vc a, vc b]
  | .vcmp _ a b _ _ _ => [vc a, vc b]
  | .vsel _ a b c => [vc a, vc b, mc c]
  | .vsplat _ a _ _ => [gc a]
  | .vins d a b _ _ => [gc a, gc b, vc d]
  | .vext _ a b _ _ => [vc a, gc b]
  | .vshuf _ a b => [vc a, vc b]
  | .vzip _ a b _ _ _ => [vc a, vc b]
  | .vunzip _ a b _ _ _ => [vc a, vc b]
  | .vred _ a _ _ _ _ => [vc a]
  | .vdot d a b _ _ _ => [vc a, vc b, vc d]
  | .vsad d a b _ _ _ => [vc a, vc b, vc d]
  | .vcvt _ a _ _ _ => [vc a]
  | .vpack d a _ _ _ => [vc a, vc d]
  | .vunpack _ a _ _ => [vc a]
  | .vrcp _ a _ _ _ => [vc a]
  | .vrsq _ a _ _ _ => [vc a]
  | .vexp2 _ a _ _ _ => [vc a]
  | .vlog2 _ a _ _ _ => [vc a]
  | .vsin _ a _ _ _ => [vc a]
  | .vcos _ a _ _ _ => [vc a]
  | .vclass _ a _ => [vc a]
  | .vmov _ a => [vc a]
  | .mand _ a b => [mc a, mc b]
  | .mandNot _ a b => [mc a, mc b]
  | .mor _ a b => [mc a, mc b]
  | .morG _ a b => [gc a, gc b]
  | .mxor _ a b => [mc a, mc b]
  | .mnot _ a => [mc a]
  | .mcnt _ a => [mc a]
  | .mcntRaw _ a => [mc a]
  | .mfirst _ a => [mc a]
  | .bbind a b => [gc a, gc b]
  | .bget _ _ => []
  | .bgetv _ a => [gc a]
  | .bpeek _ _ => []
  | .bskip a _ => [gc a]
  | .bpos _ => []
  | .bposLeft _ => []
  | .bposState _ => []
  | .ansd _ a b => [gc a, gc b]
  | .mma a b c e q _ _ => [gc a, gc b, gc c] ++ (if e == 1 then [qc q] else [])
  | .mmac a b c e q _ _ => [gc a, gc b, gc c] ++ (if e == 1 then [qc q] else [])
  | .mmz a _ => [gc a]
  | .mmd a b e q _ _ => [gc a, gc b] ++ (if e == 1 then [qc q] else [])
  | .munf a b c => [gc a, gc b, gc c]
  | .qld _ g _ => [gc g]
  | .qst a g _ => [gc g, qc a]
  | .qcomp _ a b => [qc a, qc b]
  | .qinv _ a => [qc a]
  | .qrnd _ => []
  | .qid _ => []
  | .qapp a _ v => [vc v, qc a]
  | .qtile a g => [gc g, qc a]
  | .qcyc a _ => [qc a]
  | .qchk g _ _ => [gc g]
  | .barrelTurn => []
  | .asyncResultWrite => []
  | .deferredTrap => []
  | .trapRecordEnqueue => []
  | .storeBufferDrain => []
  | .stationWrite => []
  | .homeAtomic => []
  | .feHomeOperation => []
  | .waitLimitTrap => []
  | .twinWaitLimitTrap => []
  | .barrierArrival => []
  | .channelDelivery => []
  | .streamElementArrival => []
  | .engineCommandStart => []
  | .engineCommandComplete => []
  | .collectiveComplete => []
  | .matrixOperationRetire => []
  | .routeSolveComplete => []
  | .licenceService => []
  | .licenceQuantumExpiry => []
  | .licencePass => []
  | .forkRecordPush => []
  | .idleSlotSeek => []
  | .hangDetected => []
  | .slotLevelApply => []
  | .boostIntervalBoundary => []
  | .widxUpdate => []
  | .gafferServiceStep => []
  | .launch => []
  | .wait => []
  | .signal => []
  | .barrierAnd => []
  | .sceneFrame => []
  | .cohortWrite => []
  | .signalReread => []
  | .launchComplete => []
  | .dieReport => []
  | .qholdExpiry => []
  | .pageRequestReply => []
  | .pageRequestTimeout => []
  | .preemptionInterrupt => []
  | .preemptionSave => []
  | .contextResume => []
  | .messageForward => []
  | .layerInstructionPerform => []
  | .frameStart => []
  | .frameEnd => []
  | .status => []
  | .qreg => []
  | .qunreg => []
  | .part => []
  | .savereg => []
  | .inval => []
  | .lmeta => []
  | .scrub => []
  | .errcnt => []
  | .staging => []
  | .stage => []
  | .horead => []
  | .registerWrite => []
  | .quiesceSafePoint => []
  | .quiesceTimeout => []
  | .heartbeat => []
  | .probationDeadline => []
  | .fallback => []
  | .keyDerivationComplete => []
  | .powerGood => []
  | .memoryTrained => []
  | .getVersion => []
  | .getCapabilities => []
  | .negotiateAlgorithms => []
  | .getDigests => []
  | .getCertificate => []
  | .challenge => []
  | .getMeasurements => []
  | .linkTraining => []
  | .hostDeviceMemoryAccess => []
  | .linkDown => []
  | .linkDownTimeout => []
  | .kenlinkTraining => []
  | .peerGlAccess => []
  | .peerDeviceFailed => []
  | .thermalLevelEnter => []
  | .thermalLevelLeave => []
  | .hardTrip => []
  | .standbyRailLoss => []

/-- The register codes that an instruction writes, as the double-write check counts them; g0 is
none (02 R49). -/
def writesOf (i : Instr) : List Nat :=
  match i with
  | .nop => []
  | .j _ => []
  | .jal _ => [gc 31]
  | .jr _ _ => []
  | .jalr d _ _ => [gc d]
  | .bEq _ _ _ => []
  | .bNe _ _ _ => []
  | .bLt _ _ _ => []
  | .bGe _ _ _ => []
  | .bLtu _ _ _ => []
  | .bGeu _ _ _ => []
  | .loop _ _ _ => []
  | .lbrk _ => []
  | .lbrkStay _ => []
  | .fork _ _ _ => []
  | .join d _ _ => [gc d]
  | .susp _ _ => []
  | .yield => []
  | .halt => []
  | .ldB d _ _ _ => [gc d]
  | .ldBu d _ _ _ => [gc d]
  | .ldH d _ _ _ => [gc d]
  | .ldHu d _ _ _ => [gc d]
  | .ldW d _ _ _ => [gc d]
  | .ldWu d _ _ _ => [gc d]
  | .ldD d _ _ _ => [gc d]
  | .stB _ _ _ _ => []
  | .stH _ _ _ _ => []
  | .stW _ _ _ _ => []
  | .stD _ _ _ _ => []
  | .vld d _ _ _ => [vc d]
  | .vst _ _ _ _ => []
  | .vldm d _ _ _ _ => [vc d]
  | .vstm _ _ _ _ _ => []
  | .vgat d _ _ _ _ => [vc d]
  | .vsca _ _ _ _ _ => []
  | .pref _ _ _ => []
  | .ldfe d _ _ _ => [gc d]
  | .ldfx d _ _ _ => [gc d]
  | .stfe _ _ _ _ => []
  | .stff _ _ _ _ => []
  | .fepoll d _ _ _ => [gc d]
  | .fesetE _ _ _ => []
  | .fesetF _ _ _ => []
  | .amo d _ _ _ _ _ => [gc d]
  | .cas d _ _ _ _ _ => [gc d]
  | .fenceAcq _ _ _ => []
  | .fenceRel _ _ _ => []
  | .fenceAr _ _ _ => []
  | .fenceSc _ _ _ => []
  | .bar d _ _ _ _ _ => [gc d]
  | .barnb d _ _ _ _ _ => [gc d]
  | .send _ _ _ => []
  | .recv d _ => [vc d]
  | .rprobe d _ => [gc d]
  | .sbind d _ => [vc d]
  | .sclose d => [vc d]
  | .xcopy _ _ _ _ _ => [vc 28]
  | .xcopyFill _ _ _ _ _ => [vc 28]
  | .xgat _ _ _ => [vc 29]
  | .xgatSca _ _ _ => [vc 29]
  | .xgatScadd _ _ _ => [vc 29]
  | .xform _ _ _ => [vc 30]
  | .xformRans _ _ _ => [vc 30]
  | .xcoll _ _ _ => [vc 31]
  | .xcollBcast _ _ _ => [vc 31]
  | .xwait d _ => [gc d]
  | .xwaitPoll d _ => [gc d]
  | .tlrchk _ b => [gc b]
  | .lnew _ b _ => [gc b]
  | .lfree _ => []
  | .lpose _ _ => []
  | .lcommit _ _ => []
  | .lsplit _ b _ => [gc b]
  | .lmerge _ _ _ => []
  | .lerr _ b => [gc b]
  | .lerrHdr _ b => [gc b]
  | .lprice _ _ => []
  | .lorder _ _ => []
  | .llight _ _ _ => []
  | .llightBump _ => []
  | .lshadow _ _ => []
  | .lreqTmpl _ _ => []
  | .lreqNow _ => []
  | .lreqClr _ => []
  | .twput _ _ _ => []
  | .twget d _ _ => [vc d]
  | .twtest d _ => [gc d]
  | .crd d _ => [gc d]
  | .cwr _ _ => []
  | .crx d _ _ => [gc d]
  | .trap _ _ => []
  | .rte => []
  | .wrd d _ _ => [gc d]
  | .wwr _ _ _ => []
  | .walloc d => [gc d]
  | .wallocRel _ => []
  | .slotctlKill d _ => [gc d]
  | .slotctlStat d _ => [gc d]
  | .slotctlStop d _ => [gc d]
  | .slotctlGo d _ => [gc d]
  | .tsc d _ => [gc d]
  | .wspx d _ _ => [gc d]
  | .mlicQ d => [gc d]
  | .mlicAcq d => [gc d]
  | .mlicRel d => [gc d]
  | .add d _ _ => [gc d]
  | .sub d _ _ => [gc d]
  | .and d _ _ => [gc d]
  | .or d _ _ => [gc d]
  | .xor d _ _ => [gc d]
  | .shl d _ _ => [gc d]
  | .shr d _ _ => [gc d]
  | .sra d _ _ => [gc d]
  | .mul d _ _ => [gc d]
  | .mulh d _ _ => [gc d]
  | .mulhu d _ _ => [gc d]
  | .div d _ _ => [gc d]
  | .divu d _ _ => [gc d]
  | .rem d _ _ => [gc d]
  | .remu d _ _ => [gc d]
  | .min d _ _ => [gc d]
  | .max d _ _ => [gc d]
  | .minu d _ _ => [gc d]
  | .maxu d _ _ => [gc d]
  | .slt d _ _ => [gc d]
  | .sltu d _ _ => [gc d]
  | .clz d _ => [gc d]
  | .ctz d _ => [gc d]
  | .popc d _ => [gc d]
  | .revB d _ => [gc d]
  | .revBit d _ => [gc d]
  | .ext d _ _ _ => [gc d]
  | .ins d _ _ _ => [gc d]
  | .sel d _ _ _ => [gc d]
  | .addi d _ _ => [gc d]
  | .andi d _ _ => [gc d]
  | .ori d _ _ => [gc d]
  | .xori d _ _ => [gc d]
  | .shli d _ _ => [gc d]
  | .shri d _ _ => [gc d]
  | .srai d _ _ => [gc d]
  | .slti d _ _ => [gc d]
  | .kon d _ => [gc d]
  | .konh d _ => [gc d]
  | .sltiu d _ _ => [gc d]
  | .vadd d _ _ _ _ _ => [vc d]
  | .vsub d _ _ _ _ _ => [vc d]
  | .vmul d _ _ _ _ _ => [vc d]
  | .vmulh d _ _ _ _ _ => [vc d]
  | .vfma d _ _ _ _ _ => [vc d]
  | .vfms d _ _ _ _ _ => [vc d]
  | .vfnma d _ _ _ _ _ => [vc d]
  | .vdiv d _ _ _ _ _ => [vc d]
  | .vsqrt d _ _ _ _ => [vc d]
  | .vmin d _ _ _ _ _ => [vc d]
  | .vmax d _ _ _ _ _ => [vc d]
  | .vminn d _ _ _ _ _ => [vc d]
  | .vmaxn d _ _ _ _ _ => [vc d]
  | .vabs d _ _ _ _ => [vc d]
  | .vneg d _ _ _ _ => [vc d]
  | .vand d _ _ => [vc d]
  | .vor d _ _ => [vc d]
  | .vxor d _ _ => [vc d]
  | .vnot d _ => [vc d]
  | .vshl d _ _ _ _ _ => [vc d]
  | .vshr d _ _ _ _ _ => [vc d]
  | .vsra d _ _ _ _ _ => [vc d]
  | .vcmp d _ _ _ _ _ => [mc d]
  | .vsel d _ _ _ => [vc d]
  | .vsplat d _ _ _ => [vc d]
  | .vins d _ _ _ _ => [vc d]
  | .vext d _ _ _ _ => [gc d]
  | .vshuf d _ _ => [vc d]
  | .vzip d _ _ _ _ _ => [vc d]
  | .vunzip d _ _ _ _ _ => [vc d]
  | .vred d _ _ _ _ _ => [gc d]
  | .vdot d _ _ _ _ _ => [vc d]
  | .vsad d _ _ _ _ _ => [vc d]
  | .vcvt d _ _ _ _ => [vc d]
  | .vpack d _ _ _ _ => [vc d]
  | .vunpack d _ _ _ => [vc d]
  | .vrcp d _ _ _ _ => [vc d]
  | .vrsq d _ _ _ _ => [vc d]
  | .vexp2 d _ _ _ _ => [vc d]
  | .vlog2 d _ _ _ _ => [vc d]
  | .vsin d _ _ _ _ => [vc d]
  | .vcos d _ _ _ _ => [vc d]
  | .vclass d _ _ => [vc d]
  | .vmov d _ => [vc d]
  | .mand d _ _ => [mc d]
  | .mandNot d _ _ => [mc d]
  | .mor d _ _ => [mc d]
  | .morG d _ _ => [mc d]
  | .mxor d _ _ => [mc d]
  | .mnot d _ => [mc d]
  | .mcnt d _ => [gc d]
  | .mcntRaw d _ => [gc d]
  | .mfirst d _ => [gc d]
  | .bbind _ _ => []
  | .bget d _ => [gc d]
  | .bgetv d _ => [gc d]
  | .bpeek d _ => [gc d]
  | .bskip _ _ => []
  | .bpos d => [gc d]
  | .bposLeft d => [gc d]
  | .bposState d => [gc d]
  | .ansd d _ _ => [gc d]
  | .mma _ _ _ _ _ _ _ => []
  | .mmac _ _ _ _ _ _ _ => []
  | .mmz _ _ => []
  | .mmd _ _ _ _ _ _ => []
  | .munf _ _ _ => []
  | .qld d _ _ => [qc d]
  | .qst _ _ _ => []
  | .qcomp d _ _ => [qc d]
  | .qinv d _ => [qc d]
  | .qrnd d => [qc d]
  | .qid d => [qc d]
  | .qapp _ g _ => [vc g]
  | .qtile _ _ => []
  | .qcyc _ g => [gc g]
  | .qchk _ d _ => [gc d]
  | .barrelTurn => []
  | .asyncResultWrite => []
  | .deferredTrap => []
  | .trapRecordEnqueue => []
  | .storeBufferDrain => []
  | .stationWrite => []
  | .homeAtomic => []
  | .feHomeOperation => []
  | .waitLimitTrap => []
  | .twinWaitLimitTrap => []
  | .barrierArrival => []
  | .channelDelivery => []
  | .streamElementArrival => []
  | .engineCommandStart => []
  | .engineCommandComplete => []
  | .collectiveComplete => []
  | .matrixOperationRetire => []
  | .routeSolveComplete => []
  | .licenceService => []
  | .licenceQuantumExpiry => []
  | .licencePass => []
  | .forkRecordPush => []
  | .idleSlotSeek => []
  | .hangDetected => []
  | .slotLevelApply => []
  | .boostIntervalBoundary => []
  | .widxUpdate => []
  | .gafferServiceStep => []
  | .launch => []
  | .wait => []
  | .signal => []
  | .barrierAnd => []
  | .sceneFrame => []
  | .cohortWrite => []
  | .signalReread => []
  | .launchComplete => []
  | .dieReport => []
  | .qholdExpiry => []
  | .pageRequestReply => []
  | .pageRequestTimeout => []
  | .preemptionInterrupt => []
  | .preemptionSave => []
  | .contextResume => []
  | .messageForward => []
  | .layerInstructionPerform => []
  | .frameStart => []
  | .frameEnd => []
  | .status => []
  | .qreg => []
  | .qunreg => []
  | .part => []
  | .savereg => []
  | .inval => []
  | .lmeta => []
  | .scrub => []
  | .errcnt => []
  | .staging => []
  | .stage => []
  | .horead => []
  | .registerWrite => []
  | .quiesceSafePoint => []
  | .quiesceTimeout => []
  | .heartbeat => []
  | .probationDeadline => []
  | .fallback => []
  | .keyDerivationComplete => []
  | .powerGood => []
  | .memoryTrained => []
  | .getVersion => []
  | .getCapabilities => []
  | .negotiateAlgorithms => []
  | .getDigests => []
  | .getCertificate => []
  | .challenge => []
  | .getMeasurements => []
  | .linkTraining => []
  | .hostDeviceMemoryAccess => []
  | .linkDown => []
  | .linkDownTimeout => []
  | .kenlinkTraining => []
  | .peerGlAccess => []
  | .peerDeviceFailed => []
  | .thermalLevelEnter => []
  | .thermalLevelLeave => []
  | .hardTrip => []
  | .standbyRailLoss => []
/-- Whether an instruction is of the A class. -/
def isAClass (i : Instr) : Bool :=
  match encode i with
  | some w => w.getLsbD 30
  | none => false

/-- The privileged instructions (04 R126); a write of `SGM` is one too. -/
def privileged (i : Instr) : Bool :=
  match i with
  | .rte => true
  | .wrd _ _ _ => true
  | .wwr _ _ _ => true
  | .walloc _ => true
  | .wallocRel _ => true
  | .slotctlKill _ _ => true
  | .slotctlStat _ _ => true
  | .slotctlStop _ _ => true
  | .slotctlGo _ _ => true
  | .wspx _ _ _ => true
  | .cwr _ r => r == 0x32
  | .crx _ _ r => r == 0x32
  | _ => false

end Sys2Proof.Machine
end

