-- ==== Sys2Proof/Machine/Station.lean ====
section
/-!
DEFINITION. The translation stations' handling of lines of HBM and the second tier: check
values, poison, ECC errors and compression (22 R408-R418). Host memory and peer packages are
plain bytes to the station.
-/

namespace Sys2Proof.Machine

/-! ### Check values (22 R408) -/

/-- One step of the CRC-16 with polynomial 0x8BB7. -/
def crcBit (c : Nat) : Nat :=
  if 0x8000 ≤ c then Nat.xor (c * 2 % 0x10000) 0x8BB7 else c * 2

/-- The CRC after a byte, most significant bit first. -/
def crcByte (c : Nat) (b : Byte) : Nat :=
  crcBit (crcBit (crcBit (crcBit (crcBit (crcBit (crcBit (crcBit (Nat.xor c (b.toNat * 256)))))))))

/-- The CRC-16 of bytes in address order. -/
def crc16 (bs : List Byte) : Nat := bs.foldl crcByte 0

/-- The CRC-16 of a sector, or of the bytes of one that are written: the partial check of R409; zero
bytes give zero. -/
def sectorCheck (bs : List Byte) : Nat := if bs.all (· == 0) then 0 else crc16 bs

/-! ### Line metadata (22 R412) -/

/-- The metadata of the line at a key. -/
def lineMetaOf (s : State) (k : Nat) : BitVec 72 := mapGet 0 s.lineMeta (lineBase k)

/-- The POISON bit of sector i. -/
def poisoned (m : BitVec 72) (i : Nat) : Bool := m.getLsbD (68 + i)

/-- TAG. -/
def tagOf (m : BitVec 72) : Nat := field m 67 64

/-- The check value of sector i. -/
def checkOf (m : BitVec 72) (i : Nat) : Nat := field m (16 * i + 15) (16 * i)

/-- A metadata entry from its parts. -/
def mkMeta (poison : Nat → Bool) (tag : Nat) (chk : Nat → Nat) : BitVec 72 :=
  BitVec.ofNat 72 (chk 0 + chk 1 * 2 ^ 16 + chk 2 * 2 ^ 32 + chk 3 * 2 ^ 48 + tag * 2 ^ 64
    + natOf (poison 0) * 2 ^ 68 + natOf (poison 1) * 2 ^ 69 + natOf (poison 2) * 2 ^ 70
    + natOf (poison 3) * 2 ^ 71)

/-- The POISON bits of the sectors for which p holds. -/
def poisonBits (p : Nat → Bool) : BitVec 4 :=
  BitVec.ofNat 4 (natOf (p 0) + natOf (p 1) * 2 + natOf (p 2) * 4 + natOf (p 3) * 8)

/-! ### Compression (22 R415, R416) -/

/-- The little-endian elements of e bytes of a list; `n` is how many. -/
def elems (e : Nat) (n : Nat) (bs : List Byte) : List Nat :=
  (List.range n).map fun i => ofBytes ((bs.drop (e * i)).take e)

/-- The element and delta widths in bytes of delta tags 3 to 7. -/
def deltaShape (tag : Nat) : Nat × Nat :=
  if tag = 3 then (8, 1) else if tag = 4 then (8, 2) else if tag = 5 then (4, 1)
  else if tag = 6 then (4, 2) else (8, 4)

/-- The deltas of a line, each modulo the element size. -/
def deltas (e : Nat) (line : List Byte) : List Nat :=
  let xs := elems e (128 / e) line
  let base := xs.getD 0 0
  xs.map fun x => (x + 2 ^ (8 * e) - base) % 2 ^ (8 * e)

/-- Whether a delta lies in the signed range of d bytes. -/
def deltaFits (e d x : Nat) : Bool :=
  decide (x < 2 ^ (8 * d - 1)) || decide (2 ^ (8 * e) - 2 ^ (8 * d - 1) ≤ x)

/-- Whether a line meets the condition of a tag. -/
def tagFits (tag : Nat) (line : List Byte) : Bool :=
  if tag = 0 then true
  else if tag = 1 then line.all (· == 0)
  else if tag = 2 then
    let xs := elems 8 16 line
    xs.all (· == xs.getD 0 0)
  else
    let (e, d) := deltaShape tag
    (deltas e line).all (deltaFits e d)

/-- The sectors that a tag stores. -/
def tagSectors (tag : Nat) : Nat :=
  if tag = 0 then 4 else if tag = 1 then 0 else if tag ≤ 3 then 1
  else if tag ≤ 5 then 2 else 3

/-- The stored bytes of a line under a tag. -/
def tagStored (tag : Nat) (line : List Byte) : List Byte :=
  if tag = 0 then line
  else if tag = 1 then []
  else if tag = 2 then
    line.take 8 ++ List.replicate 24 0
  else
    let (e, d) := deltaShape tag
    let body := line.take e ++ ((deltas e line).map fun x => toBytes d x).flatten
    body ++ List.replicate (32 * tagSectors tag - body.length) 0

/-- The tag that the encoder takes: the fewest sectors, then the lowest tag. -/
def chooseTag (line : List Byte) : Nat :=
  match [1, 2, 3, 4, 5, 6, 7].find? fun t => tagFits t line with
  | some t => t
  | none => 0

/-- The line that stored bytes hold under a tag of 0 to 7. -/
def expandLine (tag : Nat) (raw : List Byte) : List Byte :=
  if tag = 0 then raw
  else if tag = 1 then List.replicate 128 0
  else if tag = 2 then (List.replicate 16 (raw.take 8)).flatten
  else
    let (e, d) := deltaShape tag
    let base := ofBytes (raw.take e)
    ((elems d (128 / e) (raw.drop e)).map fun x =>
      let dx := if x < 2 ^ (8 * d - 1) then x else x + 2 ^ (8 * e) - 2 ^ (8 * d)
      toBytes e ((base + dx) % 2 ^ (8 * e))).flatten

/-! ### Access -/

/-- A fault of an access: its cause and second auxiliary value. -/
structure AccFault where
  cause : BitVec 8
  aux2  : BitVec 32
deriving DecidableEq, Repr

/-- The sectors of a line that n bytes at a key touch. -/
def touches (k n i : Nat) : Bool :=
  let b := lineBase k + 32 * i
  decide (k < b + 32) && decide (b < k + n)

/-- The sectors that n bytes at a key cover whole. -/
def covers (k n i : Nat) : Bool :=
  let b := lineBase k + 32 * i
  decide (k ≤ b) && decide (b + 32 ≤ k + n)

/-- The number of the first byte of sector i of the line at a key. -/
def sectorKey (k i : Nat) : Nat := lineBase k + 32 * i

/-- The numbers of sectors for which p holds. -/
def sectorsOf (p : Nat → Bool) : List Nat := (List.range 4).filter p

/-- The uncorrectable errors that an access to a line meets (22 R413): the sectors that they poison, with
the errors gone, and whether the access receives them. One that takes no old sector, since it replaces
every sector that it touches, does not receive those of the metadata (22 R410, R411). -/
def meetErrors (s : State) (k : Nat) (sees needs : Nat → Bool) : List Eff × Bool :=
  let b := lineBase k
  let badMeta := s.ueMeta.contains b
  let badData := fun i => s.ueData.contains (sectorKey k i) && sees i
  let bad := fun i => badMeta || badData i
  if sectorsOf bad = [] then ([], false)
  else ([.poison b (poisonBits bad), .faded ((sectorsOf bad).map (sectorKey k)) [b]],
    decide (sectorsOf badData ≠ []) || decide (sectorsOf needs ≠ []))

/-- The metadata of the line at a key as an access meets it: an uncorrectable error of it poisons all
four sectors (22 R413). -/
def metaSeen (s : State) (k : Nat) : BitVec 72 :=
  if s.ueMeta.contains (lineBase k) then lineMetaOf s k ||| 15 <<< 68 else lineMetaOf s k

/-- The correctable errors that an access to a line meets (22 R413). -/
def meetCorrected (s : State) (k : Nat) (sees : Nat → Bool) : List Eff :=
  let d := (sectorsOf fun i => sees i && s.ceData.contains (sectorKey k i)).map (sectorKey k)
  let m := if s.ceMeta.contains (lineBase k) && ! s.ueMeta.contains (lineBase k) then [lineBase k] else []
  if d = [] ∧ m = [] then [] else [.repaired d m]

/-- Whether an access through a mapping without COMP meets a line that is stored compressed: it has the
stored bytes, which no check value describes (16 R365, 22 R412; log 79). -/
def undecoded (s : State) (k : Nat) (comp : Bool) : Bool := ! comp && decide (tagOf (lineMetaOf s k) ≠ 0)

/-- The line at a key as a station reads it for an access, through a mapping with or without COMP:
`sees` are the sectors read from memory, `needs` those that the access takes and that must not be
poisoned, `checks` those verified against their check values (22 R409, R410, R413, R414). -/
def lineOpen (s : State) (k : Nat) (comp : Bool) (sees needs checks : Nat → Bool) :
    List Eff × Except AccFault (List Byte) :=
  let b := lineBase k
  let m := metaSeen s k
  let (u, hit) := meetErrors s k sees needs
  if hit then (u, .error { cause := 0xC0, aux2 := 0 })
  else
    let e := u ++ meetCorrected s k sees
    if comp && decide (8 ≤ tagOf m) then
      (e ++ [.poison b 15], .error { cause := 0xC1, aux2 := BitVec.ofNat 32 (tagOf m) })
    else if sectorsOf (fun i => needs i && poisoned m i) ≠ [] then
      (e, .error { cause := 0x45, aux2 := 0 })
    else
      let raw := readBytes s.mem b 128
      let line := if comp then expandLine (tagOf m) raw else raw
      let wrong := fun i => checks i && ! undecoded s k comp && ! poisoned m i &&
        sectorCheck ((line.drop (32 * i)).take 32) != checkOf m i
      if sectorsOf wrong ≠ [] then
        (e ++ [.poison b (poisonBits wrong)], .error { cause := 0x46, aux2 := 0 })
      else (e, .ok line)

/-- A station's read of n bytes at key k of HBM or the second tier, within one line, through a
mapping with or without COMP: the effects, and the bytes or the fault. -/
def lineRead (s : State) (k n : Nat) (comp : Bool) : List Eff × Except AccFault (List Byte) :=
  match lineOpen s k comp (fun i => comp || touches k n i) (touches k n) (touches k n) with
  | (e, .error f) => (e, .error f)
  | (e, .ok line) => (e, .ok ((line.drop (k - lineBase k)).take n))

/-! ### In flight (22 R409, R410) -/

/-- Bytes from a key on as they arrive: damage in flight is XORed into them. -/
def damaged (m : List Host.Cell) (k : Nat) (bs : List Byte) : List Byte :=
  m.foldl (fun bs e => if k ≤ e.1 then bs.modify (e.1 - k) (· ^^^ e.2) else bs) bs

/-- The part of a run at key k that lies in sector i. -/
def sectorPart {α : Type} (k : Nat) (bs : List α) (i : Nat) : List α :=
  (bs.drop (sectorKey k i - k)).take (sectorKey k i + 32 - max k (sectorKey k i))

/-! The bytes of a write are a run from a key on, with `none` at a byte that a mask leaves out
(06 R170): it has one partial check for each sector, over the bytes that are written (22 R409). -/

/-- Whether a write touches sector i. -/
def wrote (k : Nat) (bs : List (Option Byte)) (i : Nat) : Bool := (sectorPart k bs i).any Option.isSome

/-- Whether a write replaces sector i. -/
def replaced (k : Nat) (bs : List (Option Byte)) (i : Nat) : Bool :=
  covers k bs.length i && (sectorPart k bs i).all Option.isSome

/-- The damage on its way to a station, or to a link's egress, among the bytes that are written. -/
def noiseWritten (s : State) (k : Nat) (bs : List (Option Byte)) : List Host.Cell :=
  s.noiseOut.filter fun e => decide (k ≤ e.1) && (bs.getD (e.1 - k) none).isSome

/-- The bytes of a write as they arrive. -/
def arrives (noise : List Host.Cell) (k : Nat) (bs : List (Option Byte)) : List (Option Byte) :=
  noise.foldl (fun bs e => if k ≤ e.1 then bs.modify (e.1 - k) (·.map (· ^^^ e.2)) else bs) bs

/-- Whether the bytes that arrive for sector i, damaged on their way, fail the check, whole or partial,
that they carry. The check is linear: they fail it just when the damage has a check value other than
0. -/
def partWrong (noise : List Host.Cell) (k : Nat) (bs : List (Option Byte)) (i : Nat) : Bool :=
  sectorCheck ((sectorPart k (arrives noise k (bs.map (·.map fun _ => 0))) i).filterMap id) != 0

/-- A line, or a run of bytes, with what a write has for it from place i on. -/
def merged (i : Nat) (bs : List (Option Byte)) (old : List Byte) : List Byte :=
  overlay i (List.zipWith Option.getD bs (old.drop i)) old

/-- The damage on its way from a station that n bytes at a key meet: each comes in its whole
sectors. -/
def noiseRead (s : State) (k n : Nat) : List Host.Cell :=
  s.noiseIn.filter fun e => decide (k / 32 * 32 ≤ e.1) && decide (e.1 < (k + n + 31) / 32 * 32)

/-- Bytes within a line on their way from a station or a link to whom they serve, which verifies
every sector before it uses a byte. -/
def deliver (s : State) (k : Nat) (bs : List Byte) : List Eff × Except AccFault (List Byte) :=
  let hit := noiseRead s k bs.length
  if hit = [] then ([], .ok bs)
  else
    let pattern := damaged hit (lineBase k) (List.replicate 128 0)
    let e := [.landed false (hit.map Prod.fst)]
    if sectorsOf (fun i => touches k bs.length i &&
        sectorCheck ((pattern.drop (32 * i)).take 32) != 0) ≠ [] then
      (e, .error { cause := 0x46, aux2 := 0 })
    else (e, .ok (damaged hit k bs))

/-- A station's write at key k of HBM or the second tier, within one line (22 R414). A sector that it
replaces, in a write made of whole sectors (`whole`), is not read, and its poison and its errors are
gone (22 R409, R411). A line written through a mapping with COMP, or that was stored compressed, has
all four check values made anew. -/
def lineMerge (s : State) (k : Nat) (bs : List (Option Byte)) (comp whole : Bool) :
    List Eff × Except AccFault Unit :=
  let b := lineBase k
  let m := metaSeen s k
  let fresh := fun i => whole && replaced k bs i
  let old := fun i => (comp || wrote k bs i) && ! fresh i
  match lineOpen s k comp old (fun i => wrote k bs i && ! fresh i) old with
  | (e, .error f) => (e, .error f)
  | (e, .ok line) =>
    let noise := noiseWritten s k bs
    let e := e ++ (if noise = [] then [] else [.landed true (noise.map Prod.fst)])
    let wrong := partWrong noise k bs
    if noise ≠ [] ∧ sectorsOf wrong ≠ [] then
      (e ++ [.poison b (poisonBits wrong)], .error { cause := 0x46, aux2 := 0 })
    else
      let line := merged (k - b) (arrives noise k bs) line
      let tag := if comp then chooseTag line else 0
      let stored := if comp then tagStored tag line else line
      let chk := fun i =>
        if comp || undecoded s k comp || wrote k bs i then sectorCheck ((line.drop (32 * i)).take 32)
        else checkOf m i
      let gone := (sectorsOf fresh).map (sectorKey k)
      (e ++ (if gone = [] then [] else [.faded gone []])
        ++ [.mem b stored, .line b (mkMeta (fun i => poisoned m i && ! fresh i) tag chk)], .ok ())

/-- A station's write of every byte of a run. -/
def lineWrite (s : State) (k : Nat) (bs : List Byte) (comp whole : Bool) : List Eff × Except AccFault Unit :=
  lineMerge s k (bs.map some) comp whole

/-! ### Host memory and peer packages (22 R409, R410, R413)

Their own protection keeps what lies there; the POISON bits at their keys are the model's, for what a
link carried with its poison indication (log 80). -/

/-- A read of n bytes of host memory or of a peer, within one line: a sector that was sent there poisoned
comes back so. -/
def linkRead (s : State) (k n : Nat) : List Eff × Except AccFault (List Byte) :=
  if sectorsOf (fun i => touches k n i && poisoned (lineMetaOf s k) i) ≠ [] then
    ([], .error { cause := 0x45, aux2 := 0 })
  else ([], .ok (readBytes s.mem k n))

/-- A write to host memory or to a peer, within one line. Every sector is verified at the egress, and one
that fails is sent with the link's poison indication; one that is replaced is poisoned no more. -/
def linkMerge (s : State) (k : Nat) (bs : List (Option Byte)) : List Eff :=
  let noise := noiseWritten s k bs
  let m := lineMetaOf s k
  let now := mkMeta (fun i => (poisoned m i && ! replaced k bs i) || partWrong noise k bs i) 0 fun _ => 0
  (if noise = [] then [] else [.landed true (noise.map Prod.fst)])
    ++ [.mem k (List.zipWith Option.getD (arrives noise k bs) (readBytes s.mem k bs.length))]
    ++ (if now = m then [] else [.line (lineBase k) now])

/-- Whether a tier is HBM or the second tier. -/
def Tier.isMemory (t : Tier) : Bool :=
  match t with
  | .hbm | .tier2 => true
  | _ => false

/-- A read of n bytes at a physical address of a tier, within one line, as its station has them. -/
def physRead (s : State) (t : Tier) (pa n : Nat) (comp : Bool) :
    List Eff × Except AccFault (List Byte) :=
  if t.isMemory then lineRead s (physKey t pa) n comp else linkRead s (physKey t pa) n

/-- A read of n bytes at a physical address of a tier, within one line, delivered to whom it
serves. -/
def physLoad (s : State) (t : Tier) (pa n : Nat) (comp : Bool) :
    List Eff × Except AccFault (List Byte) :=
  match physRead s t pa n comp with
  | (e, .error f) => (e, .error f)
  | (e, .ok bs) =>
    let (e2, x) := deliver s (physKey t pa) bs
    (e ++ e2, x)

/-- A write at a physical address of a tier, within one line. -/
def physMerge (s : State) (t : Tier) (pa : Nat) (bs : List (Option Byte)) (comp whole : Bool) :
    List Eff × Except AccFault Unit :=
  if t.isMemory then lineMerge s (physKey t pa) bs comp whole
  else (linkMerge s (physKey t pa) bs, .ok ())

/-- A write of every byte of a run at a physical address of a tier, within one line. -/
def physWrite (s : State) (t : Tier) (pa : Nat) (bs : List Byte) (comp whole : Bool) :
    List Eff × Except AccFault Unit :=
  physMerge s t pa (bs.map some) comp whole

end Sys2Proof.Machine
end

