-- ==== Sys2Proof/Machine/Translate.lean ====
section
/-!
DEFINITION. Translation of virtual addresses and the accesses to GL (16 R356-R365).
-/

namespace Sys2Proof.Machine

/-- The kinds of an access, by the rights they need (16 R360). -/
inductive Access where
  | read | write | rw | fetch
deriving DecidableEq, Repr

/-- What a lookup gives. -/
inductive Xlat where
  | at (t : Tier) (pa : Nat) (comp : Bool)
  /-- A read of a non-resident sparse page: FILL, FMAP and the tile (16 R362). -/
  | fill (value : Word) (fmap tile : Nat)
  /-- The page is not resident and the range is paged (16 R364). -/
  | page
  | fault (cause : BitVec 8) (aux2 : BitVec 32)
deriving DecidableEq, Repr

/-- n bytes of a translation table at a physical HBM address, read by the station for itself: its
checks are those of every read from memory (22 R409). -/
def tableRead (s : State) (pa n : Nat) : List Eff × Except AccFault (List Byte) :=
  physRead s .hbm pa n false

/-- Dword i of a table entry's bytes. -/
def entryDword (bs : List Byte) (i : Nat) : Word := wordOf ((bs.drop (8 * i)).take 8)

/-- A range entry (16 R358). -/
structure RangeEntry where
  vbase : Nat
  vend  : Nat
  pbase : Nat
  dev   : Nat
  tgt   : Nat
  paged : Bool
  sparse : Bool
  comp  : Bool
  x     : Bool
  w     : Bool
  r     : Bool
  mode  : Bool
  fill  : Word
  fmap  : Nat
deriving DecidableEq, Repr

/-- A range entry's bytes read: none when V = 0; an error when it breaks R358. -/
def rangeEntry (bs : List Byte) : Option (Except Unit RangeEntry) :=
  let d := entryDword bs
  let f := d 3
  if ! bitAt f 0 then none
  else
    let e : RangeEntry :=
      { vbase := field (d 0) 56 0, vend := field (d 1) 56 0, pbase := field (d 2) 51 0,
        dev := field f 52 32, tgt := field f 9 8, paged := bitAt f 7, sparse := bitAt f 6,
        comp := bitAt f 5, x := bitAt f 4, w := bitAt f 3, r := bitAt f 2, mode := bitAt f 1,
        fill := d 4, fmap := field (d 5) 56 0 }
    let bad := decide (field (d 0) 63 57 ≠ 0) || decide (field (d 1) 63 57 ≠ 0)
      || decide (field (d 2) 63 52 ≠ 0) || decide (field f 63 53 ≠ 0)
      || decide (field f 31 10 ≠ 0) || decide (field (d 5) 63 57 ≠ 0)
      || d 6 != 0 || d 7 != 0
      || decide (e.vbase % 4096 ≠ 0) || decide (e.vend % 4096 ≠ 0)
      || decide (e.vend ≤ e.vbase) || decide (e.pbase % 4096 ≠ 0)
      || (e.tgt != 3 && e.dev != 0) || decide (e.fmap % 8 ≠ 0)
      || (e.mode && (e.pbase != 0 || e.tgt != 0 || (e.sparse && e.paged)))
      || (! e.mode && (e.sparse || e.paged))
    some (if bad then .error () else .ok e)

/-- What the search of the range table finds. -/
inductive RangeHit where
  | none
  | bad (i : Nat)
  | hit (e : RangeEntry)
  /-- The station's read of an entry failed its checks. -/
  | failed (f : AccFault)

/-- The lowest-numbered valid range entry that holds va, among n entries from number i on, with the
effects of reading them. -/
def findRange (s : State) (rtab va i : Nat) : Nat → List Eff × RangeHit
  | 0 => ([], .none)
  | n + 1 =>
    match tableRead s (rtab + 64 * i) 64 with
    | (l, .error f) => (l, .failed f)
    | (l, .ok bs) =>
      match rangeEntry bs with
      | some (.error _) => (l, .bad i)
      | some (.ok e) =>
        if e.vbase ≤ va ∧ va < e.vend then (l, .hit e)
        else
          let (m, x) := findRange s rtab va (i + 1) n
          (l ++ m, x)
      | none =>
        let (m, x) := findRange s rtab va (i + 1) n
        (l ++ m, x)

/-- A leaf of the page table (16 R359). -/
structure Leaf where
  pa   : Nat
  tgt  : Nat
  comp : Bool
  x    : Bool
  w    : Bool
  r    : Bool
deriving DecidableEq, Repr

/-- What a walk of the page table finds. -/
inductive Walk where
  | absent
  | bad (level index : Nat)
  | leaf (l : Leaf)
  /-- The station's read of an entry failed its checks. -/
  | failed (f : AccFault)

/-- log₂ of the bytes of a leaf size. -/
def leafBits (sz : Nat) : Nat :=
  if sz = 0 then 12 else if sz = 1 then 16 else if sz = 2 then 21
  else if sz = 3 then 30 else 32

/-- Whether a leaf size is legal at a level. -/
def leafLegal (sz level : Nat) : Bool :=
  (level == 2 && (sz == 3 || sz == 4)) || (level == 3 && sz == 2)
    || (level == 4 && (sz == 0 || sz == 1))

/-- What a page-table entry at a level and index says of va: the walk's end, or the next table
(16 R359). -/
def walkEntry (e : Word) (va level i : Nat) : Except Walk Nat :=
  let sz := field e 60 58
  let tgt := field e 57 56
  let next := field e 51 12 * 4096
  if ! bitAt e 0 then .error .absent
  else if field e 63 61 ≠ 0 ∨ field e 55 52 ≠ 0 ∨ field e 11 7 ≠ 0 ∨ bitAt e 2 then
    .error (.bad level i)
  else if bitAt e 1 then
    if tgt = 3 ∨ ! leafLegal sz level ∨ next % 2 ^ leafBits sz ≠ 0 then .error (.bad level i)
    else .error (.leaf { pa := next + va % 2 ^ leafBits sz, tgt := tgt, comp := bitAt e 6,
                         x := bitAt e 5, w := bitAt e 4, r := bitAt e 3 })
  else if level = 4 ∨ sz ≠ 0 ∨ tgt ≠ 0 ∨ field e 6 3 ≠ 0 then .error (.bad level i)
  else .ok next

/-- The walk from the table at pa at a level, with the effects of reading the entries; `n` is how
many levels remain. -/
def walk (s : State) (va : Nat) (pa level : Nat) : Nat → List Eff × Walk
  | 0 => ([], .absent)
  | n + 1 =>
    let i := va / 2 ^ (48 - 9 * level) % 512
    match tableRead s (pa + 8 * i) 8 with
    | (l, .error f) => (l, .failed f)
    | (l, .ok bs) =>
      match walkEntry (wordOf bs) va level i with
      | .error x => (l, x)
      | .ok next =>
        let (m, x) := walk s va next (level + 1) n
        (l ++ m, x)

/-- The right that a kind of access needs. -/
def allowed (kind : Access) (r w x : Bool) : Bool :=
  match kind with
  | .read => r
  | .write => w
  | .rw => r && w
  | .fetch => x

/-- The check of the rights and of the target that ends a lookup. An address of HBM at or above
576 GiB, or of the second tier at or above its bytes, is not checked: it is performed as ordinary
memory (log 69). -/
def grant (kind : Access) (r w x : Bool) (tgt dev pa : Nat) (comp : Bool) : Xlat :=
  if ! allowed kind r w x then .fault 0x43 0
  else if tgt = 1 then
    if Config.secondTier then .at .tier2 pa comp else .fault 0x42 0
  else if tgt = 2 then .at .host pa false
  else if tgt = 3 then .at (.peer (BitVec.ofNat 21 dev)) pa false
  else .at .hbm pa comp

/-- The second auxiliary value of cause 0x48. -/
def badEntry (level index : Nat) : Xlat := .fault 0x48 (BitVec.ofNat 32 (level + index * 256))

/-- The end of a lookup that goes through the page table, for the range entry that holds va. -/
def walkEnd (e : Option RangeEntry) (va : Nat) (kind : Access) (w : Walk) : Xlat :=
  match w with
  | .failed f => .fault f.cause f.aux2
  | .bad l i => badEntry l i
  | .absent =>
    match e with
    | none => .fault 0x42 0
    | some e =>
      if e.sparse then
        match kind with
        | .read => .fill e.fill e.fmap ((va - e.vbase) / 2 ^ 16)
        | .fetch => .fault 0x42 0
        | _ => .fault 0x47 0
      else if e.paged then .page
      else .fault 0x42 0
  | .leaf l =>
    match e with
    | none => grant kind l.r l.w l.x l.tgt 0 l.pa l.comp
    | some e => grant kind (l.r && e.r) (l.w && e.w) (l.x && e.x) l.tgt 0 l.pa l.comp

/-- The lookup of R360 in the tables of a context, with the effects of reading them. An address of
2^57 or more has no translation (10 R297). -/
def lookup (s : State) (x : Option Context) (va : Nat) (kind : Access) : List Eff × Xlat :=
  match x with
  | none => ([], .fault 0x42 0)
  | some x =>
    if 2 ^ 57 ≤ va then ([], .fault 0x42 0)
    else if x.rootBad then ([], badEntry 6 0)
    else
      let (l, hit) := findRange s x.rtab va 0 x.rcnt
      let through (e : Option RangeEntry) : List Eff × Xlat :=
        let (m, w) := if x.pt0 = 0 then ([], .absent) else walk s va x.pt0 0 5
        (l ++ m, walkEnd e va kind w)
      match hit with
      | .failed f => (l, .fault f.cause f.aux2)
      | .bad i => (l, badEntry 5 i)
      | .none => through none
      | .hit e =>
        if e.mode then through (some e)
        else (l, grant kind e.r e.w e.x e.tgt e.dev (e.pbase + (va - e.vbase)) e.comp)

/-- What the lookup gives. -/
def translate (s : State) (x : Option Context) (va : Nat) (kind : Access) : Xlat :=
  (lookup s x va kind).2

/-- The result of an access to GL: performed with its effects, faulted, or waiting at the station
for a page or for a link. -/
inductive Acc (α : Type) where
  | ok (v : α) (effs : List Eff)
  | fault (cause : BitVec 8) (aux2 : BitVec 32) (effs : List Eff)
  | page
  | wait

/-- Whether a target's link keeps an access waiting, or fails it (25 R445, R447). -/
def linkState (s : State) (t : Tier) : Option Bool :=
  match t with
  | .host => if s.link.up then none else some s.link.expired
  | .peer d => (s.link.failed.find? fun p => p.device == d).map PeerDown.expired
  | _ => none

/-- The place of an access at its target, or what becomes of it before it gets there. A page request
is rejected at once when the link has been down for 10 ms (25 R445). -/
inductive Place where
  | at (t : Tier) (pa : Nat) (comp : Bool)
  | fill (value : Word) (fmap tile : Nat)
  | fault (cause : BitVec 8) (aux2 : BitVec 32)
  | page
  | wait

/-- Where an access goes, with the effects of the lookup. -/
def placeOf (s : State) (x : Option Context) (va : Nat) (kind : Access) : List Eff × Place :=
  let (l, y) := lookup s x va kind
  (l, match y with
    | .fault c a => .fault c a
    | .page => if ! s.link.up && s.link.expired then .fault 0x44 0 else .page
    | .fill v f t => .fill v f t
    | .at t pa comp =>
      match linkState s t with
      | some true => .fault 0x45 0
      | some false => .wait
      | none => .at t pa comp)

/-- The residency feedback of a sparse read (16 R362): bit t of the map is set at the map's home, in
one access there, or dropped when the map's own address does not allow it; it waits while the map's
link is down. -/
def setFeedback (s : State) (x : Option Context) (fmap tile : Nat) : Option (List Eff) :=
  if fmap = 0 then some []
  else
    match placeOf s x (fmap + 8 * (tile / 64)) .write with
    | (_, .wait) => none
    | (l, .at t pa comp) =>
      match physRead s t pa 8 comp with
      | (e, .error _) => some (l ++ e)
      | (e, .ok bs) =>
        let v := ofBytes bs
        let v := if v.testBit (tile % 64) then v else v + 2 ^ (tile % 64)
        some (l ++ e ++ (physWrite s t pa (toBytes 8 v) comp false).1)
    | (l, _) => some l

/-- A read of n bytes of GL, within one line, as `f` reads them at their place, with the effects that
it has. -/
def glReadBy (f : Tier → Nat → Nat → Bool → List Eff × Except AccFault (List Byte))
    (s : State) (x : Option Context) (va n : Nat) (kind : Access) : Acc (List Byte) :=
  match placeOf s x va kind with
  | (l, .fault c a) => .fault c a l
  | (_, .page) => .page
  | (_, .wait) => .wait
  | (l, .fill v fmap tile) =>
    match setFeedback s x fmap tile with
    | some e => .ok ((List.range n).map fun i => (wordBytes v).getD ((va + i) % 8) 0) (l ++ e)
    | none => .wait
  | (l, .at t pa comp) =>
    match f t pa n comp with
    | (e, .ok bs) => .ok bs (l ++ e)
    | (e, .error f) => .fault f.cause f.aux2 (l ++ e)

/-- A read of n bytes of GL, within one line, delivered to whom it serves. -/
def glRead (s : State) (x : Option Context) (va n : Nat) (kind : Access) : Acc (List Byte) :=
  glReadBy (physLoad s) s x va n kind

/-- A read of n bytes of GL, within one line, for an access that is performed at the bytes' home. -/
def glAtHome (s : State) (x : Option Context) (va n : Nat) (kind : Access) : Acc (List Byte) :=
  glReadBy (physRead s) s x va n kind

/-- A write to GL, within one line. -/
def glMerge (s : State) (x : Option Context) (va : Nat) (bs : List (Option Byte)) (kind : Access)
    (whole : Bool) : Acc Unit :=
  match placeOf s x va kind with
  | (l, .fault c a) => .fault c a l
  | (_, .page) => .page
  | (_, .wait) => .wait
  | (l, .fill _ _ _) => .fault 0x47 0 l
  | (l, .at t pa comp) =>
    match physMerge s t pa bs comp whole with
    | (e, .ok _) => .ok () (l ++ e)
    | (e, .error f) => .fault f.cause f.aux2 (l ++ e)

/-- A write of every byte of a run of GL, within one line. -/
def glWrite (s : State) (x : Option Context) (va : Nat) (bs : List Byte) (kind : Access)
    (whole : Bool) : Acc Unit :=
  glMerge s x va (bs.map some) kind whole

/-- The line at a key as a read through a mapping with or without COMP has it. -/
def lineView (s : State) (k : Nat) (comp : Bool) : List Byte :=
  let raw := readBytes s.mem (lineBase k) 128
  if comp then expandLine (tagOf (lineMetaOf s k)) raw else raw

/-- The word of a line at a word's key. -/
def wordIn (line : List Byte) (k : Nat) : BitVec 32 :=
  BitVec.ofNat 32 (ofBytes ((line.drop (k - lineBase k)).take 4))

/-- The words of n bytes at a key that a store of core c has changed between two states, as they were: a
fetch may find them still (02 R68). -/
def changedWords (s t : State) (c k n : Nat) (comp : Bool) : List OldWord :=
  let was := lineView s k comp
  let is := lineView t k comp
  (fromTo (k / 4) ((k + n + 3) / 4 - k / 4)).filterMap fun i =>
    if wordIn is (4 * i) = wordIn was (4 * i) then none
    else some { core := c, key := 4 * i, word := wordIn was (4 * i) }

/-- The old words that a write of core c to n bytes of GL leaves, with these effects. -/
def oldLeft (s : State) (c va n : Nat) (kind : Access) (e : List Eff) : List Eff :=
  match placeOf s (s.ctxOf c) va kind with
  | (_, .at t pa comp) => match changedWords s (applyAll s e) c (physKey t pa) n (comp && t.isMemory) with
    | [] => []
    | l => [.old l]
  | _ => []

/-- A write to GL, within one line, for a thread or an engine of core c. -/
def coreMerge (s : State) (c va : Nat) (bs : List (Option Byte)) (kind : Access) (whole : Bool) : Acc Unit :=
  match glMerge s (s.ctxOf c) va bs kind whole with
  | .ok _ e => .ok () (e ++ oldLeft s c va bs.length kind e)
  | y => y

/-- A write of every byte of a run of GL, within one line, for a thread or an engine of core c. -/
def coreWrite (s : State) (c va : Nat) (bs : List Byte) (kind : Access) (whole : Bool) : Acc Unit :=
  coreMerge s c va (bs.map some) kind whole

/-- The first context of a process, for an access that names a PID alone (24 R430). -/
def contextOf (s : State) (pid : BitVec 20) : Option Context :=
  (s.gaffer.ctxs.find? fun e => e.2.pid == pid && ! e.2.ended).map fun e => e.2

/-- A page request raised or joined (16 R364): at most one for each process and page. `l` are the launches
of the access. -/
def raisePage (s : State) (pid : BitVec 20) (va : Nat) (write : Bool) (l : List Nat) : List PageReq :=
  let page := va / 4096
  if s.pageReqs.any fun p => p.pid == pid && p.page == page then
    s.pageReqs.map fun p =>
      if p.pid == pid && p.page == page then { p with
        write := p.write || write, launches := (p.launches ++ l).eraseDups } else p
  else s.pageReqs ++ [{ pid := pid, page := page, write := write, time := s.time.toNat, launches := l }]

end Sys2Proof.Machine
end

