-- ==== Sys2Proof/Machine/Operands.lean ====
section
/-!
DEFINITION. The operands of an issuing word: every register as it stood before the bundle
(02 R46), pending registers included (02 R61), and the ports (05 R136). And what a word's
meaning answers: its effects, a trap, or that the bundle does not issue.
-/

namespace Sys2Proof.Machine

/-- An issuing word: the state before the bundle, the core, slot and workspace block, the
bundle's address and that of the next one in sequence, the word and its index, and the elements
that the bundle takes from stream and queue ports. -/
structure Env where
  s     : State
  c     : Nat
  sl    : Nat
  b     : Nat
  pc    : Nat
  npc   : Nat
  word  : BitVec 32
  idx   : Nat
  pair  : Bool
  ports : List (Nat × Vec)

/-- The effects of a word that issues. -/
structure Res where
  effs : List Eff := []
  /-- Where control goes, when the word transfers it. -/
  jump : Option Nat := none
  /-- How the thread parks, when the word parks it. -/
  park : Option ParkKind := none
  /-- The generator's state after the word's draws. -/
  srg  : Option (BitVec 32) := none
  /-- The word writes SRG itself, and the draws of the other word are discarded (04 R125). -/
  ownsSrg : Bool := false
  /-- What follows the other effects of the bundle (04 R114-R116). -/
  late : Run → Run := id

/-- What the meaning of a word answers. -/
inductive Issue where
  | ok (r : Res)
  /-- A precise trap: cause, auxiliary value, second auxiliary value. -/
  | trap (cause : BitVec 8) (aux : Word) (aux2 : BitVec 32)
  /-- A precise trap of an access that leaves effects at the station all the same. -/
  | trapWith (effs : List Eff) (cause : BitVec 8) (aux : Word) (aux2 : BitVec 32)
  /-- The bundle does not issue on this turn (02 R42), with what the failing turn leaves, and the
  kind code and awaited address when the thread sleeps (09 R279). -/
  | stall (effs : List Eff) (sleep : Option (Nat × Word))

/-- A word with these effects and nothing else. -/
def Issue.effs (l : List Eff) : Issue := .ok { effs := l }

/-- The slot of an issuing word. -/
def Env.slot (e : Env) : Slot := e.s.slot e.c e.sl

/-- The core of an issuing word. -/
def Env.core (e : Env) : CoreSt := e.s.core e.c

/-- The context of an issuing word. -/
def Env.ctx (e : Env) : Option Context := e.s.ctxOf e.c

/-- The process identifier of an issuing word. -/
def Env.pid (e : Env) : BitVec 20 := e.s.pidOf e.c

/-- Whether the thread of a slot has an operation outstanding into a register (02 R41). -/
def Slot.pending (x : Slot) (code : Nat) : Bool := x.own.any fun o => o.dst.code == some code

/-- A register value some of whose 32-bit elements are old and some new, each as the free value
says (02 R61); n is the number of elements. -/
def mixElems (s : State) (code : Nat) (old new : Nat) : Nat → Nat
  | 0 => 0
  | n + 1 =>
    let pick := if (Config.bits s.free (code * 8 + n)).getLsbD 0 then new else old
    mixElems s code old new n + pick / 2 ^ (32 * n) % 2 ^ 32 * 2 ^ (32 * n)

/-- The value that a read of a register gives: with operations whose results are due but not yet
written, a free mixture of old and new elements; otherwise the register. -/
def readMixed (s : State) (x : Slot) (code n : Nat) (old : Nat) : Nat :=
  x.own.foldl (fun v o =>
    match o.st with
    | .done w => if o.dst.code == some code then mixElems s code v w.toNat n else v
    | _ => v) old

/-- The value of a g register operand. -/
def Env.g (e : Env) (r : Reg) : Word :=
  BitVec.ofNat 64 (readMixed e.s e.slot (gc r) 2 (gReg e.s e.c e.b r).toNat)

/-- The value of a vector operand: a register, or the element taken from a port. -/
def Env.v (e : Env) (r : Reg) : Vec :=
  if r.toNat < 24 then
    BitVec.ofNat 128 (readMixed e.s e.slot (vc r) 4 (vReg e.s e.c e.b r).toNat)
  else match mapFind e.ports r.toNat with
    | some v => v
    | none => 0

/-- The value of a mask operand. -/
def Env.m (e : Env) (r : Reg) : BitVec 16 := mReg e.s e.c e.b r

/-- The value of a q register operand. -/
def Env.q (e : Env) (r : BitVec 3) : BitVec 384 := qReg e.s e.c e.b r

/-- Whether a q register is being solved (07 R221). -/
def Env.solving (e : Env) (r : BitVec 3) : Bool :=
  e.slot.solves.any fun x => x.q == r && x.block == e.b

/-- What a write of a register takes from the operations still outstanding into it: their results
(02 R62). -/
def Env.past (e : Env) (code : Nat) : List Eff :=
  if e.slot.pending code then [.past e.c e.sl code] else []

/-- The write of a g register result. -/
def Env.setG (e : Env) (r : Reg) (v : Word) : List Eff :=
  Machine.setG e.c e.b r v ++ e.past (gc r)

/-- The write of a vector register result. -/
def Env.setV (e : Env) (r : Reg) (v : Vec) : List Eff :=
  Machine.setV e.c e.b r v ++ e.past (vc r)

/-- The write of a mask result. -/
def Env.setM (e : Env) (r : Reg) (v : BitVec 16) : List Eff := Machine.setM e.c e.b r v

/-- A word whose only effect is to write a g register. -/
def Env.putG (e : Env) (r : Reg) (v : Word) : Issue := .ok { effs := e.setG r v }

/-- A word whose only effect is to write a mask register. -/
def Env.putM (e : Env) (r : Reg) (v : BitVec 16) : Issue := .ok { effs := e.setM r v }

/-- A new asynchronous operation of the issuing thread. -/
def Env.async (e : Env) (dst : Dst) (kind : OpKind) (st : OpState := .sent) : Eff :=
  .op e.c e.sl { seq := 0, tid := e.slot.tid, block := e.b, pc := e.pc, pair := e.pair,
                 dst := dst, kind := kind, st := st, tries := 0, past := false, cycle := 0 }

/-- A new store-buffer entry of the issuing thread. -/
def Env.entry (e : Env) (kind : SbKind) : Eff :=
  .sb e.c e.sl { seq := 0, tid := e.slot.tid, pc := e.pc, pair := e.pair, kind := kind,
                 held := false, tries := 0 }

/-- Whether the slot's store buffer has a free entry (06 R166). -/
def Env.sbFree (e : Env) : Bool := decide (e.slot.sb.length < 8)

end Sys2Proof.Machine
end

