-- ==== Sys2Proof/Machine/Scopes.lean ====
section
/-!
DEFINITION. Scopes: what a fence, a barrier or a collective names, and the cores that it holds (06 R182).
-/

namespace Sys2Proof.Machine

/-- A level around a core and slot, named by its unit. -/
def levelScope (c sl : Nat) (l : BitVec 3) : ScopeName :=
  .level l (match l.toNat with
    | 1 => c
    | 2 => quadOf c
    | 3 => coreDie c
    | 6 => c * 16 + sl
    | _ => 0)

/-- A scope value resolved for a slot of a core: none traps 0x60. -/
def resolveScope (s : State) (c sl : Nat) (v : Word) : Option ScopeName :=
  if bitAt (s.core c).sgm 0 then
    if field v 63 5 ≠ 0 then none
    else if groupHas (s.ctxOf c) (field v 4 0) c then some (.group (v.extractLsb' 0 5)) else none
  else if field v 63 27 ≠ 0 ∨ field v 26 24 = 7 then none
  else if field v 26 24 ≠ 0 then
    if field v 23 0 ≠ 0 then none else some (levelScope c sl (v.extractLsb' 24 3))
  else if field v 14 10 < field v 4 0 ∨ field v 19 15 < field v 9 5 ∨ field v 23 20 = 0 then none
  else if rectHas (v.extractLsb' 0 24) c then some (.rect (v.extractLsb' 0 24)) else none

end Sys2Proof.Machine
end

