-- ==== Sys2Proof/Machine/Threads.lean ====
section
/-!
DEFINITION. The life of a thread: the start and the end of a thread in a slot, continuation
records, and the deque with its overflow (04 R110-R117, 09 R268-R277).
-/

namespace Sys2Proof.Machine

/-! ### The end of a thread -/

/-- The blocks that never enter the workspace pool (09 R268). -/
def reservedBlock (b : Nat) : Bool := b == 0 || decide (62 ≤ b)

/-- The ports of a slot with the open commands discarded (08 R234). -/
def closePorts (m : Map Port) : Map Port :=
  (m.map fun e => (e.1, { e.2 with opened := none })).filter fun e => decide (e.2 ≠ Port.reset)

/-- A slot that holds no thread any more: its buffered stores, queued messages, complete engine
commands and results stay (04 R116, 08 R234, 11 R315). -/
def Slot.freed (x : Slot) : Slot :=
  { Slot.reset with
    tid := x.last + 1, last := x.last + 1, seq := x.seq, sb := x.sb, outq := x.outq,
    ports := closePorts x.ports,
    async := x.async.filter fun o => o.tid ≠ x.tid, stopped := x.stopped }

/-- A slot whose thread ends once its outstanding results have returned: its bindings close and
its open commands are discarded at once (06 R192, 08 R234). -/
def Slot.ending (x : Slot) : Slot :=
  { x with dying := true, streams := [], ports := closePorts x.ports, park := none,
           asleep := none, faults := [], trap := none, hold := false }

/-- A core with a block returned to its pool: what was displaced from it is no more. -/
def CoreSt.release (x : CoreSt) (b : Nat) : CoreSt :=
  { x with pool := setPut x.pool b true, left := x.left.filter fun e => e.block ≠ b }

/-- The slot freed and its workspace returned to the pool clean (04 R116, 09 R271). -/
def Run.freeSlot (r : Run) (c sl : Nat) : Run :=
  let b := (r.s.slot c sl).block
  let r := r.modSlot c sl Slot.freed
  if reservedBlock b then r
  else (r.emit (.clean c (32 * b) 32)).modCore c fun y => y.release b

/-- Whether a thread stands in its slot. -/
def Slot.holds (x : Slot) (tid : Nat) : Bool := x.wspV && x.tid == tid && ! x.dying

/-- Whether a thread has ended: it does not stand in its slot, nor has `wspx` displaced it (04 R116,
R131). -/
def threadEnded (s : State) (c sl tid : Nat) : Bool :=
  ! (s.slot c sl).holds tid && ! (s.core c).left.any fun e => e.slot == sl && e.tid == tid

/-- The end of a slot's thread: at once when nothing is outstanding (04 R116). -/
def Run.retire (r : Run) (c sl : Nat) : Run :=
  if (r.s.slot c sl).outstanding = 0 then r.freeSlot c sl else r.modSlot c sl Slot.ending

/-- A slot whose ending thread has nothing outstanding any more is freed. -/
def Run.reap (r : Run) (c sl : Nat) : Run :=
  let x := r.s.slot c sl
  if x.dying && x.outstanding == 0 then r.freeSlot c sl else r

/-! ### The start of a thread -/

/-- The seeds of a thread: its PC, identifiers, strict mode, and g1 on (09 R273, 04 R110). -/
structure Seeds where
  pc     : Nat
  cohort : Nat
  tidx   : Nat
  strict : Bool
  g      : List Word
deriving DecidableEq, Repr

/-- The writes of g registers from r on. -/
def seedRegs (c b : Nat) (r : Nat) : List Word → List Eff
  | [] => []
  | v :: l => setG c b (BitVec.ofNat 5 r) v ++ seedRegs c b (r + 1) l

/-- The lowest free block of a core's pool (04 R130). -/
def CoreSt.lowest (x : CoreSt) : Option Nat := x.pool.head?

/-- A new thread in slot sl of core c on block b, taken from the pool clean (09 R270, R272). -/
def Run.startThread (r : Run) (c sl b : Nat) (d : Seeds) (launch : Option Nat) : Run :=
  let r := r.modCore c fun y => { y with pool := setPut y.pool b false }
  let r := r.emit (.clean c (32 * b) 32)
  let r := r.emit (setPc c b d.pc)
  let r := r.emit (wspWrite c b 0x2E8 (toBytes 8
    (d.cohort % 2 ^ 32 * 2 ^ 32 + d.tidx % 2 ^ 16 * 2 ^ 16 + natOf d.strict)))
  let r := r.emits (seedRegs c b 1 d.g)
  r.modSlot c sl fun x =>
    { Slot.reset with
      wspV := true, block := b, tid := x.last + 1, last := x.last + 1, seq := x.seq, sb := x.sb,
      outq := x.outq,
      ports := x.ports, async := x.async, stopped := x.stopped, launch := launch }

/-! ### Continuation records (04 R110) -/

/-- Dword i of a record. -/
def recDword (rec : List Byte) (i : Nat) : Word := wordOf ((rec.drop (8 * i)).take 8)

/-- A dword of a record as it is taken: a free value when a reserved bit of the record is set, where no check
is stated (00 R9; log 18). -/
def oddWord (bad : Bool) (w : Word) : Word := if bad then Config.oddDword w else w

/-- Whether a reserved bit of a continuation record is set: PC [63:57], 0x08 [15:9], JOIN [63:57]. -/
def recOdd (rec : List Byte) : Bool :=
  field (recDword rec 0) 63 57 != 0 || field (recDword rec 1) 15 9 != 0 || field (recDword rec 2) 63 57 != 0

/-- The seeds that a record gives. No check of its reserved bits is stated: with one of them set, every
field is free (00 R9; log 18). -/
def recSeeds (rec : List Byte) : Seeds :=
  let w (i : Nat) : Word := oddWord (recOdd rec) (recDword rec i)
  { pc := field (w 0) 56 0, cohort := field (w 1) 63 32, tidx := field (w 1) 31 16,
    strict := bitAt (w 1) 8, g := (fromTo 3 5).map w }

/-- A record of the thread on block b of core c: its identifiers and strict mode are the
thread's. -/
def makeRecord (s : State) (c b : Nat) (pc kind join : Nat) (g : List Word) : List Byte :=
  let d := threadDword s c b
  toBytes 8 (pc % 2 ^ 57)
    ++ toBytes 8 (field d 63 32 * 2 ^ 32 + field d 31 16 * 2 ^ 16 + natOf (bitAt d 0) * 2 ^ 8 + kind)
    ++ toBytes 8 (join % 2 ^ 57) ++ (g.map wordBytes).flatten

/-- The values of g1 to g5. -/
def fiveRegs (s : State) (c b : Nat) : List Word :=
  (fromTo 1 5).map fun r => gReg s c b (BitVec.ofNat 5 r)

/-! ### The deque (09 R275) -/

/-- The WM offset of the deque's place i. -/
def dequeAt (i : Nat) : Nat := 0x1F000 + 64 * (i % 64)

/-- The record at place i of a core's deque. -/
def dequeRec (s : State) (c i : Nat) : List Byte :=
  readBytes s.mem (localKey c .wm (dequeAt i)) 64

/-- The records that a core's deque holds. -/
def CoreSt.depth (x : CoreSt) : Nat := x.dqLaunch.length

/-- A record put at the bottom of a deque that has room. -/
def Run.putBottom (r : Run) (c : Nat) (rec : List Byte) (launch : Option Nat) : Run :=
  let x := r.s.core c
  (r.emit (.wm c (dequeAt (x.dqTop + x.depth)) rec)).modCore c fun x =>
    { x with dqLaunch := x.dqLaunch ++ [launch] }

/-- A record put on top of a deque that has room. -/
def Run.putTop (r : Run) (c : Nat) (rec : List Byte) (launch : Option Nat) : Run :=
  let x := r.s.core c
  (r.emit (.wm c (dequeAt (x.dqTop + 63)) rec)).modCore c fun x =>
    { x with dqTop := (x.dqTop + 63) % 64, dqLaunch := launch :: x.dqLaunch }

/-- The bottom record taken from a deque. -/
def Run.takeBottom (r : Run) (c : Nat) : Run :=
  r.modCore c fun x => { x with dqLaunch := x.dqLaunch.dropLast }

/-- The top record taken from a deque. -/
def Run.takeTop (r : Run) (c : Nat) : Run :=
  r.modCore c fun x => { x with dqTop := (x.dqTop + 1) % 64, dqLaunch := x.dqLaunch.drop 1 }

/-- What a push, a spill or another action with GL accesses comes to. -/
inductive Act where
  | done (r : Run)
  /-- It cannot be made now: the ring is full, or an access waits for a page or a link. -/
  | wait (r : Run)
  | fault (cause : BitVec 8) (aux : Word) (aux2 : BitVec 32) (r : Run)

/-- A write of bytes within one line by an agent of a context, for a launch; a missing page is requested. -/
def Run.glPut (r : Run) (x : Option Context) (va : Nat) (bs : List Byte) (l : Option Nat) : Act :=
  match glWrite r.s x va bs .write true with
  | .ok _ e => .done (r.emits e)
  | .fault c a e => .fault c (BitVec.ofNat 64 va) a (r.emits e)
  | .wait => .wait r
  | .page =>
    let pid := (x.map Context.pid).getD 0
    if r.rejected pid va then .fault 0x44 (BitVec.ofNat 64 va) 0 r
    else .wait (r.emit (.pages (raisePage r.s pid va true l.toList)))

/-- The place in GL of record i of a context's overflow ring. -/
def Context.ovfAt (x : Context) (i : Nat) : Nat := x.ovfb + 64 * (i % 2 ^ x.ovfs)

/-- The copy of the n records at the top of a deque into the overflow ring from place i on. -/
def Run.spillFrom (r : Run) (c : Nat) (x : Context) (l : Option Nat) : Nat → Nat → Act
  | _, 0 => .done r
  | i, n + 1 =>
    match r.glPut (some x) (x.ovfAt (x.ovfTop + i)) (dequeRec r.s c ((r.s.core c).dqTop + i)) l with
    | .done r => r.spillFrom c x l (i + 1) n
    | y => y

/-- The 32 records at the top moved to the overflow ring, for a thread of a launch (09 R276). -/
def Run.spill (r : Run) (c k : Nat) (x : Context) (l : Option Nat) : Act :=
  if 2 ^ x.ovfs < x.ovfTop + 32 then .wait r
  else
    match r.spillFrom c x l 0 32 with
    | .done r =>
      let moved := (r.s.core c).dqLaunch.take 32
      let r := r.modCore c fun y =>
        { y with dqTop := (y.dqTop + 32) % 64, dqLaunch := y.dqLaunch.drop 32 }
      .done (r.modCtx k fun z =>
        { z with ovfTop := z.ovfTop + 32, ovfLaunch := z.ovfLaunch ++ moved })
    | y => y

/-- Room made in a core's deque when it is full, for a thread of a launch (09 R276). -/
def Run.makeRoom (r : Run) (c : Nat) (l : Option Nat) : Act :=
  let y := r.s.core c
  if y.depth < 64 then .done r
  else
    match y.ctx, r.s.ctxOf c with
    | some k, some x => r.spill c k x l
    | _, _ => .wait r

/-- A record pushed on the bottom of a core's deque. -/
def Run.pushBottom (r : Run) (c : Nat) (rec : List Byte) (launch : Option Nat) : Act :=
  match r.makeRoom c launch with
  | .done r => .done (r.putBottom c rec launch)
  | y => y

/-- n records of the overflow ring from place i on, put at the bottom of a core's deque in order. -/
def Run.refillFrom (r : Run) (c : Nat) (x : Context) : Nat → Nat → Act
  | _, 0 => .done r
  | i, n + 1 =>
    let a := x.ovfAt i
    match glRead r.s (some x) a 64 .read with
    | .ok bs e =>
      ((r.emits e).putBottom c bs (x.ovfLaunch.getD i none)).refillFrom c x (i + 1) n
    | .fault cause aux2 e => .fault cause (BitVec.ofNat 64 a) aux2 (r.emits e)
    | .page => .wait (r.emit (.pages (raisePage r.s x.pid a false [])))
    | .wait => .wait r

/-- The newest 32 records of the overflow area moved back into an empty deque, on behalf of a slot
that seeks (09 R277); and whether they were. An uncorrectable error that the core meets here serves
no bundle: it gives a machine-check record (12 R324). -/
def Run.refill (r : Run) (c sl : Nat) : Run × Bool :=
  match (r.s.core c).ctx, r.s.ctxOf c with
  | some k, some x =>
    if x.ovfTop < 32 then (r, false)
    else
      match r.refillFrom c x (x.ovfTop - 32) 32 with
      | .done r => (r.modCtx k fun z =>
          { z with ovfTop := z.ovfTop - 32, ovfLaunch := z.ovfLaunch.take (z.ovfTop - 32) }, true)
      | .wait q => (r.emit (.pages q.s.pageReqs), false)
      | .fault cause aux _ q =>
        let r := r.spoiled q
        (if cause = 0xC0 then r.check c sl cause aux 5 0 else r, false)
  | _, _ => (r, false)

end Sys2Proof.Machine
end

