-- ==== Sys2Proof/Machine/Access.lean ====
section
/-!
DEFINITION. The accesses of threads to WM and GL after issue: forwarding from the store buffer,
loads satisfied in program order, stores and full/empty operations at their homes (06 R163-R181,
11 R299-R305).
-/

namespace Sys2Proof.Machine

/-! ### Places -/

/-- The core whose WM an address of core c names, by its rank field (06 R164). -/
def wmCore (c addr : Nat) : Nat := quadCore c (addr / 2 ^ 17 % 4)

/-- Whether a WM address of core c names its own WM. -/
def ownRank (c addr : Nat) : Bool := addr / 2 ^ 17 % 4 == coreRank c

/-- The core on which a save area will be resumed, as far as that is settled (16 R372). -/
def SaveArea.place (a : SaveArea) : Nat :=
  match a.goal with
  | some q => quadMember q (coreRank a.pos)
  | none => a.pos

/-- Whether an access from core c may reach the WM of core p (16 R371): some true performs it,
some false waits, none faults 0x43. -/
def peerReach (s : State) (c p : Nat) : Option Bool :=
  if p = c then some true
  else
    let x := s.core p
    let saved := s.gaffer.saves.any fun e =>
      some e.2.ctx == (s.core c).ctx && (e.2.pos == p || e.2.place == p)
    if x.ctx.isSome && s.pidOf p == s.pidOf c then some x.pre.isNone
    else if saved then some false
    else none

/-! ### Faults after issue -/

/-- A fault that arrives for the thread `tid` of a slot: it waits there for the thread's next turn
(02 R65, 12 R317). A fault of a thread that has left is dropped. -/
def Run.addFault (r : Run) (c sl tid : Nat) (f : DeferredFault) : Run :=
  if (r.s.slot c sl).holds tid then
    r.modSlot c sl fun x => { x with faults := x.faults ++ [f] }
  else r

/-- A fault that a buffered store met: a thread that has left its slot gives a machine-check
record (06 R167, 12 R324). -/
def Run.storeFault (r : Run) (c sl : Nat) (e : SbEntry) (cause : BitVec 8) (aux : Word)
    (aux2 : BitVec 32) : Run :=
  if (r.s.slot c sl).holds e.tid then
    r.addFault c sl e.tid { pc := e.pc, pair := e.pair, cause := cause, aux := aux, aux2 := aux2 }
  else r.check c sl cause aux 5 0

/-- The second auxiliary value of a deferred fault: the lane for causes 0x40 to 0x43, else what
the station gives (12 R327). -/
def laneAux (cause : BitVec 8) (lane : Nat) (aux2 : BitVec 32) : BitVec 32 :=
  if 0x40 ≤ cause.toNat ∧ cause.toNat ≤ 0x43 then BitVec.ofNat 32 lane else aux2

/-! ### Forwarding (06 R166) -/

/-- The accesses of a masked store: the bytes that the mask selects. -/
def maskedParts (addr : Nat) (data : Vec) (mask : BitVec 16) : List (Nat × List Byte) :=
  ((List.range 16).filter fun i => mask.getLsbD i).map fun i =>
    (addr + i, [data.extractLsb' (8 * i) 8])

/-- The bytes of a masked store as one write. -/
def maskedBytes (data : Vec) (mask : BitVec 16) : List (Option Byte) :=
  (List.range 16).map fun i => if mask.getLsbD i then some (data.extractLsb' (8 * i) 8) else none

/-- The space and the accesses of an ordinary store. -/
def SbKind.parts (k : SbKind) : Option (Space × List (Nat × List Byte)) :=
  match k with
  | .store sp l => some (sp, l)
  | .masked sp a v m => some (sp, maskedParts a v m)
  | _ => none

/-- The byte that an ordinary store entry holds for an address; the last part wins. -/
def SbEntry.byteAt (e : SbEntry) (sp : Space) (addr : Nat) : Option Byte :=
  match e.kind.parts with
  | some (sp', l) =>
    if sp' = sp then
      l.foldl (fun o p =>
        if p.1 ≤ addr ∧ addr < p.1 + p.2.length then p.2[addr - p.1]? else o) none
    else none
  | none => none

/-- The byte of the youngest buffered ordinary store older than `seq` that covers an address. -/
def Slot.forward (x : Slot) (seq : Nat) (sp : Space) (addr : Nat) : Option Byte :=
  x.sb.foldl (fun o e =>
    if e.seq < seq then
      match e.byteAt sp addr with
      | some b => some b
      | none => o
    else o) none

/-- Bytes read from memory with the slot's own buffered stores over them. -/
def Slot.overlaid (x : Slot) (seq : Nat) (sp : Space) (addr : Nat) : List Byte → List Byte
  | [] => []
  | b :: r => (x.forward seq sp addr).getD b :: x.overlaid seq sp (addr + 1) r

/-! ### Reading and writing one access -/

/-- A read of n bytes of WM or GL for a thread of core c, without forwarding; `gl` reads GL. -/
def memReadBy (gl : State → Option Context → Nat → Nat → Access → Acc (List Byte))
    (s : State) (c : Nat) (sp : Space) (addr n : Nat) : Acc (List Byte) :=
  match sp with
  | .gl => gl s (s.ctxOf c) addr n .read
  | .wm =>
    match peerReach s c (wmCore c addr) with
    | some true => .ok (readBytes s.mem (localKey (wmCore c addr) .wm (addr % 2 ^ 17)) n) []
    | some false => .wait
    | none => .fault 0x43 0 []
  | sp => .ok (readBytes s.mem (localKey c sp addr) n) []

/-- A read of n bytes of WM or GL, delivered to core c. -/
def memRead (s : State) (c : Nat) (sp : Space) (addr n : Nat) : Acc (List Byte) :=
  memReadBy glRead s c sp addr n

/-- A read of n bytes of WM or GL by an operation that is performed at their home. -/
def memAtHome (s : State) (c : Nat) (sp : Space) (addr n : Nat) : Acc (List Byte) :=
  memReadBy glAtHome s c sp addr n

/-- The bytes of a store to WM of a core from an offset on that are not discarded: those outside
the head window (12 R319), as runs. -/
def wmParts (off : Nat) (bs : List Byte) : List (Nat × List Byte) :=
  let low := bs.take (0x480 - off)
  let high := bs.drop (0x4A8 - off)
  (if low = [] then [] else [(off, low)])
    ++ (if high = [] then [] else [(max off 0x4A8, high)])

/-- A write of bytes to the WM of a core, the head window left out. -/
def wmStore (c off : Nat) (bs : List Byte) : List Eff :=
  (wmParts off bs).map fun p => .wm c p.1 p.2

/-- A write of bytes to WM or GL for a thread of core c. -/
def memWrite (s : State) (c : Nat) (sp : Space) (addr : Nat) (bs : List Byte) (kind : Access) :
    Acc Unit :=
  match sp with
  | .gl => coreWrite s c addr bs kind false
  | .wm =>
    match peerReach s c (wmCore c addr) with
    | some true => .ok () (wmStore (wmCore c addr) (addr % 2 ^ 17) bs)
    | some false => .wait
    | none => .fault 0x43 0 []
  | sp => .ok () [.mem (localKey c sp addr) bs]

/-! ### Loads -/

/-- The value that loaded bytes deliver into a destination. -/
def loadValue (bytes sext : Nat) : Vec :=
  if sext = 0 then BitVec.ofNat 128 bytes
  else (sextLow (BitVec.ofNat 64 bytes) sext).setWidth 128

/-- What satisfying the lanes of a load gives. -/
inductive Loaded where
  | ok (v : Nat) (effs : List Eff)
  | fault (addr lane : Nat) (cause : BitVec 8) (aux2 : BitVec 32) (effs : List Eff)
  | page (addr : Nat)
  | wait

/-- The lanes of a load read in order, each after the effects of those before it, and overlaid with
the slot's buffered stores. -/
def readLanes (s : State) (c : Nat) (x : Slot) (seq : Nat) (sp : Space) :
    List Lane → Nat → List Eff → Loaded
  | [], v, e => .ok v e
  | l :: r, v, e =>
    match memRead s c sp l.addr l.size with
    | .ok bs e2 =>
      readLanes (applyAll s e2) c x seq sp r (v + ofBytes (x.overlaid seq sp l.addr bs) * 2 ^ (8 * l.pos))
        (e ++ e2)
    | .fault cause aux2 e2 => .fault l.addr (l.pos / l.size) cause aux2 (e ++ e2)
    | .page => .page l.addr
    | .wait => .wait

/-- A slot with an asynchronous operation replaced. -/
def Slot.setOp (x : Slot) (o : AsyncOp) : Slot :=
  { x with async := x.async.map fun p => if p.seq = o.seq ∧ p.tid = o.tid then o else p }

/-- A slot without an asynchronous operation. -/
def Slot.delOp (x : Slot) (o : AsyncOp) : Slot :=
  { x with async := x.async.filter fun p => ! (p.seq == o.seq && p.tid == o.tid) }

/-- The operation of a slot with a number. -/
def Slot.findOp (x : Slot) (seq : Nat) : Option AsyncOp := x.async.find? fun o => o.seq == seq

/-- An operation that met a fault: it is abandoned and its destination keeps its value (02 R65). -/
def Run.failOp (r : Run) (c sl : Nat) (o : AsyncOp) (cause : BitVec 8) (aux : Word)
    (aux2 : BitVec 32) : Run :=
  ((r.modSlot c sl fun x => x.delOp o).addFault c sl o.tid
    { pc := o.pc, pair := o.pair, cause := cause, aux := aux, aux2 := aux2 }).reap c sl

/-- An access that waits for a page (16 R364). -/
def Run.awaitPage (r : Run) (c sl : Nat) (o : AsyncOp) (va : Nat) (write : Bool) : Run :=
  (r.modSlot c sl fun x => x.setOp { o with st := .paged }).emit
    (.pages (raisePage r.s (r.s.pidOf c) va write o.launch.toList))

/-- A load satisfied: its value is fixed now, or its fault arrives, or it waits. -/
def Run.satisfy (r : Run) (c sl : Nat) (o : AsyncOp) : Run :=
  match o.kind, o.st with
  | .load sp lanes sext keep, .sent =>
    match readLanes r.s c (r.s.slot c sl) o.seq sp lanes 0 [] with
    | .ok v e => (r.emits e).modSlot c sl fun x =>
        x.setOp { o with st := .done (loadValue v sext &&& keep) }
    | .fault a lane cause aux2 e =>
      (r.emits e).failOp c sl o cause (BitVec.ofNat 64 a) (laneAux cause lane aux2)
    | .page a => r.awaitPage c sl o a false
    | .wait => r
  | _, _ => r

/-- Whether an operation reads memory: an ordinary load, an F/E load, or an atomic access. -/
def OpKind.reads (k : OpKind) : Bool :=
  match k with
  | .load _ _ _ _ => true
  | .fe .ldfe _ _ _ => true
  | .fe .ldfx _ _ _ => true
  | .amo _ _ _ _ _ => true
  | .cas _ _ _ _ _ => true
  | .join _ => true
  | .fork a _ => a != 0
  | _ => false

/-- Whether an operation that a pre-emption has withdrawn is one whose place in program order the
thread's later accesses keep. -/
def OpKind.staysAhead (k : OpKind) : Bool :=
  match k with
  | .fe _ _ _ _ => false
  | .fork _ _ => false
  | _ => true

/-- Whether an operation has a read of memory still to make that later accesses of its thread wait
for (11 R301, R303). An F/E load that waits for its word holds nothing up: 12 R316 has the stores
behind it drain (log 64). -/
def AsyncOp.unread (o : AsyncOp) : Bool :=
  match o.st with
  | .sent => o.kind.reads
  | .paged => o.kind.reads
  | .withdrawn => o.kind.reads && o.kind.staysAhead
  | _ => false

/-- Whether an operation is a load that has not returned (06 R181, R183): its read is still to be
made, or its result is not yet written. The increment of a `fork` has returned once it is made. -/
def AsyncOp.unreturned (o : AsyncOp) : Bool :=
  o.unread || (match o.kind, o.st with
    | .fork _ _, _ => false
    | k, .done _ => k.reads
    | _, _ => false)

/-- Whether a thread has a read before `seq` that is not made. -/
def Slot.unreadBefore (x : Slot) (tid seq : Nat) : Bool :=
  x.async.any fun o => o.tid == tid && decide (o.seq < seq) && o.unread

/-- Whether a thread has a load before `seq` that has not returned. -/
def Slot.loadBefore (x : Slot) (tid seq : Nat) : Bool :=
  x.async.any fun o => o.tid == tid && decide (o.seq < seq) && o.unreturned

/-- Loads of a thread satisfied in program order, up to the first read that cannot be made now. -/
def Run.satisfyEach (r : Run) (c sl : Nat) : List AsyncOp → Run
  | [] => r
  | o :: l =>
    let r := r.satisfy c sl o
    if (r.s.slot c sl).unreadBefore o.tid (o.seq + 1) then r else r.satisfyEach c sl l

/-- The loads of a thread that precede `seq` in program order, satisfied in that order
(11 R303). -/
def Run.satisfyBefore (r : Run) (c sl tid seq : Nat) : Run :=
  r.satisfyEach c sl
    ((r.s.slot c sl).async.filter fun o => o.tid == tid && decide (o.seq < seq))

/-- Whether a buffered entry before `seq` is still to become visible before what stands at `seq`: an
entry of the thread itself, or a store of a thread that has left the slot, whose value the
thread may have read (06 R166, 11 R309). -/
def Slot.storeBefore (x : Slot) (tid seq : Nat) : Bool :=
  x.sb.any fun e => decide (e.seq < seq) && (e.tid == tid || e.kind.parts.isSome)

/-- The write of an operation's result into the workspace it was issued from. -/
def writeDst (c : Nat) (o : AsyncOp) (v : Vec) : List Eff :=
  if o.past then []
  else match o.dst with
    | .none => []
    | .g r => setG c o.block r (v.setWidth 64)
    | .v r => setV c o.block r v

/-- An operation whose result is written: it is outstanding no more, and the results of earlier
operations into its destination are not written (02 R62). -/
def Run.complete (r : Run) (c sl : Nat) (o : AsyncOp) (v : Vec) : Run :=
  ((r.emits (writeDst c o v)).modSlot c sl fun x =>
    match o.dst.code with
    | none => x.delOp o
    | some code => (x.delOp o).overwrite o.tid o.seq code).reap c sl

/-- What an `xwait` finds at its barrier object, with the thread's own buffered stores over it
(11 R301): none while COUNT is below the target (08 R241). -/
def Run.xwaitNow (r : Run) (c sl : Nat) (o : AsyncOp) : Option (Acc Word) :=
  match o.kind with
  | .xwait addr target poll =>
    match memRead r.s c .wm addr 8 with
    | .ok bs e =>
      let v := wordOf ((r.s.slot c sl).overlaid o.seq .wm addr bs)
      if ! poll && decide (field v 62 0 < target) then none else some (.ok v e)
    | .fault cause a e => some (.fault cause a e)
    | _ => none
  | _ => none

/-- The value of an `xwait` that is due fixed now, before its result is written (02 R61). -/
def Run.settleWait (r : Run) (c sl : Nat) (o : AsyncOp) : Run :=
  match o.st, r.xwaitNow c sl o with
  | .sent, some (.ok v e) => (r.emits e).modSlot c sl fun x => x.setOp { o with st := .done (v.setWidth 128) }
  | _, _ => r

/-! ### Homes (06 R175, R179) -/

/-- The home of a word as a thread of core c reaches it, by its key, with the rights that F/E
operations (`fe`), `amo` and `cas` need (16 R360). F/E operations on host memory fault whatever its
link does (06 R178), and so do those on a peer package (16 R360; log 70); host memory has no
atomics in the PCIe modes (25 R443). -/
def homeOf (s : State) (c : Nat) (sp : Space) (addr : Nat) (fe : Bool) : Acc Nat :=
  match sp with
  | .gl =>
    let barred := match translate s (s.ctxOf c) addr .rw with
      | .at .host _ _ => fe || ! s.link.cxl
      | .at (.peer _) _ _ => fe
      | _ => false
    match placeOf s (s.ctxOf c) addr .rw with
    | (l, y) =>
      if barred then .fault 0x43 0 l
      else match y with
        | .fault cause aux2 => .fault cause aux2 l
        | .page => .page
        | .wait => .wait
        | .fill _ _ _ => .fault 0x47 0 l
        | .at t pa _ => .ok (physKey t pa) l
  | sp =>
    match peerReach s c (wmCore c addr) with
    | some true => .ok (localKey (wmCore c addr) sp (addr % 2 ^ 17)) []
    | some false => .wait
    | none => .fault 0x43 0 []

/-- The tag of the dword at a key: whether it is full (06 R173). -/
def tagFull (s : State) (key : Nat) : Bool := ! s.empties.contains key

/-- An F/E operation of a thread performed at the home of a word, when its tag allows it: the bytes
that it returns, and whether it changed the tag. `none` is an operation whose wait condition
fails. -/
def feTry (s : State) (c : Nat) (k : FeKind) (sp : Space) (addr key : Nat) (data : Word) :
    Option (Acc (List Byte × Bool)) :=
  let full := tagFull s key
  let read (e : List Eff) (changed : Bool) : Acc (List Byte × Bool) :=
    match memAtHome s c sp addr 8 with
    | .ok bs e2 => .ok (bs, changed) (e2 ++ e)
    | .fault cause a e2 => .fault cause a e2
    | .page => .page
    | .wait => .wait
  match k with
  | .ldfe => if full then some (read [.tag key false] true) else none
  | .ldfx => if full then some (read [] false) else none
  | .fepoll => some (.ok (toBytes 8 (natOf full), false) [])
  | .stfe =>
    if full then none
    else some (match memWrite s c sp addr (wordBytes data) .rw with
      | .ok _ e => .ok ([], true) (e ++ [.tag key true])
      | .fault cause a e => .fault cause a e
      | .page => .page
      | .wait => .wait)

/-- The answer to an operation of another package that has failed. -/
def Answer.fails : Answer := { bytes := [], failed := true }

/-- The answer that a word read at a key gives an agent outside: it is verified at the egress, and sent with
the link's poison indication when it fails (22 R409). -/
def sendWord (s : State) (key : Nat) (bs : List Byte) : List Eff × Answer :=
  match deliver s key bs with
  | (e, .ok bs) => (e, { bytes := bs })
  | (e, .error _) => (e, { bytes := bs, poison := [key % 2 ^ 60 / 32 * 32] })

/-- An F/E operation of a peer package performed at the home of a word of this one, when its tag
allows it: its effects, the answer, and whether it changed the tag (06 R174, R178, 25 R446). -/
def peerFe (s : State) (k : FeKind) (key : Nat) (data : Word) : Option (List Eff × Answer × Bool) :=
  let full := tagFull s key
  let read (e : List Eff) (changed : Bool) : List Eff × Answer × Bool :=
    match lineRead s key 8 false with
    | (l, .error _) => (l, .fails, false)
    | (l, .ok bs) =>
      let (m, a) := sendWord s key bs
      (l ++ e ++ m, a, changed)
  match k with
  | .ldfe => if full then some (read [.tag key false] true) else none
  | .ldfx => if full then some (read [] false) else none
  | .fepoll => some ([], { bytes := toBytes 8 (natOf full) }, false)
  | .stfe =>
    if full then none
    else some (match lineWrite s key (wordBytes data) false false with
      | (l, .ok _) => (l ++ [.tag key true], { bytes := [] }, true)
      | (l, .error _) => (l, .fails, false))

/-- An answer sent to a peer package. -/
def Run.replyPeer (r : Run) (y : Answer) : Run :=
  r.emit (.link { r.s.link with peerReply := r.s.link.peerReply ++ [y] })

/-- The value that bytes deliver to a g register. -/
def wordValue (bs : List Byte) : Vec := (wordOf bs).setWidth 128

/-- An operation performed at the home of the word at a key: the bytes that it returns reach its
thread, or fail their check on the way (22 R410). -/
def Run.handBack (r : Run) (c sl : Nat) (o : AsyncOp) (key addr : Nat) (bs : List Byte)
    (res : List Byte → Vec) : Run :=
  match deliver r.s key bs with
  | (e, .ok bs) => (r.emits e).modSlot c sl fun x => x.setOp { o with st := .done (res bs) }
  | (e, .error f) => (r.emits e).failOp c sl o f.cause (BitVec.ofNat 64 addr) f.aux2

/-- The entry at the head of a slot's store buffer leaves it. -/
def Run.popSb (r : Run) (c sl : Nat) : Run :=
  (r.modSlot c sl fun x => { x with sb := x.sb.drop 1 }).reap c sl

/-- A waiting F/E operation performed, when its condition holds: the run, and whether it was. -/
def Run.serveWait (r : Run) (w : FeWait) : Run × Bool :=
  let away := r.emit (.waits (r.s.feWaits.erase w))
  match w.peer with
  | some (k, data) =>
    match peerFe r.s k w.key data with
    | some (e, y, changed) => ((away.emits e).replyPeer y, changed)
    | none => (r, false)
  | none =>
  let x := r.s.slot w.core w.slot
  match x.findOp w.seq with
  | some o =>
    match o.kind with
    | .fe k sp addr data =>
      match feTry r.s w.core k sp addr w.key data with
      | some (.ok v e) =>
        ((away.emits e).handBack w.core w.slot o w.key addr v.1 wordValue, v.2)
      | some (.fault cause a e) =>
        ((away.emits e).failOp w.core w.slot o cause (BitVec.ofNat 64 addr) a, false)
      | _ => (r, false)
    | _ => (away, false)
  | none =>
    match x.sb with
    | e :: _ =>
      if e.seq = w.seq then
        match e.kind with
        | .stfe sp addr data =>
          match feTry r.s w.core .stfe sp addr w.key data with
          | some (.ok v f) => ((away.emits f).popSb w.core w.slot, v.2)
          | some (.fault cause a f) =>
            (((away.emits f).storeFault w.core w.slot e cause (BitVec.ofNat 64 addr) a).popSb
              w.core w.slot, false)
          | _ => (r, false)
        | _ => (away, false)
      else (away, false)
    | [] => (away, false)

/-- One walk of a list of waiters in arrival order: each whose condition holds at that point is
performed; and whether one of them changed the tag. -/
def Run.walkList (r : Run) (l : List FeWait) : Run × Bool :=
  l.foldl (fun y w =>
    let z := y.1.serveWait w
    (z.1, y.2 || z.2)) (r, false)

/-- Walks of the wait list of a key until none changes the tag: an operation performed in a walk
is an operation that changes the tag, and is followed by a walk (06 R175; log 13). -/
def Run.walks (key : Nat) : Nat → Run → Run
  | 0, r => r
  | n + 1, r =>
    match r.walkList (r.s.feWaits.filter fun w => w.key == key) with
    | (r, true) => Run.walks key n r
    | (r, false) => r

/-- The walks after an operation that changed the tag of the word at a key. -/
def Run.walk (r : Run) (key : Nat) : Run := Run.walks key (r.s.feWaits.length + 1) r

end Sys2Proof.Machine
end

