-- ==== Sys2Proof/Machine/Flags.lean ====
section
/-!
DEFINITION. Number formats, the one rounding of every result, and the flags that it raises
(03 R69-R88).
-/

namespace Sys2Proof.Machine

/-! ### Flags (03 R84) -/

/-- NX as a bit of FFLAGS. -/
def flagNX : Nat := 1
/-- UF as a bit of FFLAGS. -/
def flagUF : Nat := 2
/-- OF as a bit of FFLAGS. -/
def flagOF : Nat := 4
/-- DZ as a bit of FFLAGS. -/
def flagDZ : Nat := 8
/-- NV as a bit of FFLAGS. -/
def flagNV : Nat := 16

/-- Flags joined. -/
def orFlags (a b : Nat) : Nat := Nat.lor a b

/-- A flag if a condition holds. -/
def flagIf (c : Bool) (f : Nat) : Nat := if c then f else 0

/-! ### Formats (03 R69, R73-R76) -/

/-- A floating-point format: the IEEE layouts and the narrow ones. `sign` and the widths are
counts of bits. -/
structure Fmt where
  sign : Nat
  e    : Nat
  m    : Nat
  bias : Int
  spec : Nat
  subn : Bool
deriving DecidableEq, Repr

/-- binary16. -/
def fmt16 : Fmt := { sign := 1, e := 5, m := 10, bias := 15, spec := 1, subn := true }
/-- bfloat16. -/
def fmtBf : Fmt := { sign := 1, e := 8, m := 7, bias := 127, spec := 1, subn := true }
/-- binary32. -/
def fmt32 : Fmt := { sign := 1, e := 8, m := 23, bias := 127, spec := 1, subn := true }
/-- binary64. -/
def fmt64 : Fmt := { sign := 1, e := 11, m := 52, bias := 1023, spec := 1, subn := true }

/-- The bits of a format. -/
def Fmt.width (f : Fmt) : Nat := f.sign + f.e + f.m

/-- The check of a narrow-format register and the format it describes (03 R73, R74). -/
def nfFormat (w : Word) : Option Fmt :=
  let f : Fmt := { sign := field w 0 0, e := field w 3 1, m := field w 6 4,
                   bias := signedN (field w 15 8) 8, spec := field w 17 16, subn := bitAt w 18 }
  if f.width = 0 ∨ 8 < f.width ∨ f.spec = 3 ∨ (f.e = 0 ∧ f.spec ≠ 0)
      ∨ (f.spec = 1 ∧ (f.e < 2 ∨ f.m = 0)) ∨ bitAt w 7 ∨ field w 63 19 ≠ 0 then none
  else some f

/-- A decoded value: (-1)^neg × mag × 2^exp when finite. -/
inductive Num where
  | nan (signalling : Bool)
  | inf (neg : Bool)
  | fin (neg : Bool) (mag : Nat) (exp : Int)
deriving DecidableEq, Repr

/-- The largest exponent field. -/
def Fmt.emax (f : Fmt) : Nat := 2 ^ f.e - 1

/-- The largest finite magnitude as a code without sign (03 R76). -/
def Fmt.maxCode (f : Fmt) : Nat :=
  if f.spec = 0 then 2 ^ (f.e + f.m) - 1
  else if f.spec = 1 then f.emax * 2 ^ f.m - 1
  else 2 ^ (f.e + f.m) - 2

/-- A magnitude code with its sign bit. -/
def Fmt.signed (f : Fmt) (neg : Bool) (code : Nat) : Nat :=
  if neg ∧ f.sign = 1 then 2 ^ (f.e + f.m) + code else code

/-- The code of a zero; formats with E = 0 have one zero. -/
def Fmt.zero (f : Fmt) (neg : Bool) : Nat := if f.e = 0 then 0 else f.signed neg 0

/-- The default NaN, or what a NaN is written as (03 R69, R76). -/
def Fmt.nan (f : Fmt) : Nat :=
  if f.spec = 0 then 0
  else if f.spec = 1 then f.emax * 2 ^ f.m + 2 ^ (f.m - 1)
  else 2 ^ (f.e + f.m) - 1

/-- The code of an integer of a scaled-integer format. -/
def Fmt.intCode (f : Fmt) (neg : Bool) (k : Nat) : Nat :=
  if neg then (2 ^ (f.sign + f.m) - k) % 2 ^ (f.sign + f.m) else k

/-- The limit of a sign as an integer, for a scaled-integer format (03 R76). -/
def Fmt.intLimit (f : Fmt) (neg : Bool) : Nat :=
  if neg then (if f.sign = 1 then 2 ^ f.m else 0) else 2 ^ f.m - 1

/-- The largest finite value of a sign. -/
def Fmt.largest (f : Fmt) (neg : Bool) : Nat :=
  if f.e = 0 then f.intCode neg (f.intLimit neg) else f.signed neg f.maxCode

/-- An infinity as the format holds it (03 R76). -/
def Fmt.inf (f : Fmt) (neg : Bool) : Nat :=
  if f.spec = 1 then f.signed neg (f.emax * 2 ^ f.m)
  else if f.spec = 2 then f.nan
  else f.largest neg

/-- The value of a code (03 R69, R75, R76). -/
def Fmt.decode (f : Fmt) (code : Nat) : Num :=
  let code := code % 2 ^ f.width
  if f.e = 0 then
    let neg := decide (f.sign = 1) && decide (2 ^ f.m ≤ code)
    .fin neg (if neg then 2 ^ (f.m + 1) - code else code) (- f.bias)
  else
    let neg := decide (f.sign = 1) && decide (2 ^ (f.e + f.m) ≤ code)
    let mag := code % 2 ^ (f.e + f.m)
    let e := mag / 2 ^ f.m
    let fr := mag % 2 ^ f.m
    if f.spec = 1 ∧ e = f.emax then
      if fr = 0 then .inf neg else .nan (decide (8 < f.width) && decide (fr < 2 ^ (f.m - 1)))
    else if f.spec = 2 ∧ mag = 2 ^ (f.e + f.m) - 1 then .nan false
    else if e = 0 then .fin neg (if f.subn then fr else 0) (1 - f.bias - f.m)
    else .fin neg (2 ^ f.m + fr) ((e : Int) - f.bias - f.m)

/-! ### Rounding (03 R79, R80) -/

/-- The rounding modes by their codes in fn. -/
def modeRNE : Nat := 0
/-- Toward zero. -/
def modeRTZ : Nat := 1
/-- Toward -infinity. -/
def modeRDN : Nat := 2
/-- Toward +infinity. -/
def modeRUP : Nat := 3
/-- To nearest, ties away from zero. -/
def modeRNA : Nat := 4
/-- Stochastic. -/
def modeSR : Nat := 5

/-- Whether a magnitude with the part `rest / 2^sh` of a quantum above the neighbour nearer zero rounds
away from zero; `odd` says that this neighbour has an odd code, r is the draw of SR (03 R79, R80). -/
def roundsUp (mode r : Nat) (neg odd : Bool) (rest sh : Nat) : Bool :=
  if rest = 0 then false
  else if mode = modeRTZ then false
  else if mode = modeRDN then neg
  else if mode = modeRUP then ! neg
  else if mode = modeRNA then decide (2 ^ sh ≤ 2 * rest)
  else if mode = modeSR then decide (0x10000 ≤ rest * 2 ^ 16 / 2 ^ sh + r)
  else decide (2 ^ sh < 2 * rest) || (decide (2 ^ sh = 2 * rest) && odd)

/-- mag × 2^exp in quanta of 2^q: rounded, and whether it was inexact, and whether it was rounded
away from zero; the code of k quanta has the parity of k + base. -/
def roundAt (mode r : Nat) (neg : Bool) (mag : Nat) (exp q base : Int) : Nat × Bool × Bool :=
  if q ≤ exp then (mag * 2 ^ (exp - q).toNat, false, false)
  else
    let sh := (q - exp).toNat
    let k := mag / 2 ^ sh
    let rest := mag % 2 ^ sh
    let up := roundsUp mode r neg (decide ((k + base) % 2 ≠ 0)) rest sh
    (k + natOf up, decide (rest ≠ 0), up)

/-- Whether an overflow goes to infinity (03 R79); `up` decides under SR. -/
def toInfinity (mode : Nat) (neg up : Bool) : Bool :=
  if mode = modeRTZ then false
  else if mode = modeRDN then neg
  else if mode = modeRUP then ! neg
  else if mode = modeSR then up
  else true

/-- The largest exponent of a finite value's leading bit; that of the smallest normal where a format
has no finite value but zero. -/
def Fmt.topExp (f : Fmt) : Int := ((max 1 (f.maxCode / 2 ^ f.m) : Nat) : Int) - f.bias

/-- What separates the code of k quanta of 2^q from k, as far as an even code is told from an odd one:
with a fraction of no bits the codes count exponents (03 R79). -/
def Fmt.codeBase (f : Fmt) (q : Int) : Int := if f.m = 0 then q + f.bias - 1 else 0

/-- The one rounding of a finite value (-1)^neg × mag × 2^exp into a format, with its flags. A
value of a negative sign in a format without a sign follows the last row of R83. Beyond the
largest finite value the quantum is that of the largest (03 R80; log 11). With SUBN = 0 a value
below the smallest normal underflows when it is delivered as a zero, not when it rounds up to the
smallest normal (03 R79, R85; log 71). -/
def Fmt.round (f : Fmt) (mode r : Nat) (neg : Bool) (mag : Nat) (exp : Int) : Nat × Nat :=
  let bare := neg && decide (f.sign = 0)
  if mag = 0 then (if bare then 0 else f.zero neg, 0)
  else if f.e = 0 then
    let (k, inexact, _) := roundAt mode r neg mag exp (- f.bias) 0
    if bare then (if k = 0 then (0, flagIf inexact flagNX) else (0, flagNV))
    else if f.intLimit neg < k then (f.largest neg, orFlags flagOF flagNX)
    else (f.intCode neg k, flagIf inexact flagNX)
  else
    let top : Int := (Nat.log2 mag : Int) + exp
    let emin : Int := 1 - f.bias
    let flush := ! f.subn && decide (top < emin)
    let q : Int := if flush then emin else min (max top emin) f.topExp - f.m
    let (k, inexact, up) := roundAt mode r neg mag exp q (f.codeBase q)
    let code := if flush then k * 2 ^ f.m
      else if k < 2 ^ f.m then k
      else (q + f.m + f.bias).toNat * 2 ^ f.m + (k - 2 ^ f.m)
    let (ku, _, _) := roundAt mode r neg mag exp (top - f.m) (f.codeBase (top - f.m))
    let tiny := if flush then decide (code = 0)
      else decide (top + 1 < emin) || (decide (top < emin) && decide (ku < 2 ^ (f.m + 1)))
    let uf := flagIf (inexact && tiny) flagUF
    if bare then (if code = 0 then (0, orFlags (flagIf inexact flagNX) uf) else (0, flagNV))
    else if f.maxCode < code then
      (if toInfinity mode neg up then f.inf neg else f.largest neg, orFlags flagOF flagNX)
    else (f.signed neg code, orFlags (flagIf inexact flagNX) uf)

/-- The delivery of a value into a format with the flags of the operation that gave it: NaN as
the default NaN (03 R70), infinity as R76 has it. -/
def Fmt.deliver (f : Fmt) (mode r : Nat) (x : Num × Nat) : Nat × Nat :=
  match x.1 with
  | .nan _ => (f.nan, x.2)
  | .inf neg => (f.inf neg, x.2)
  | .fin neg mag exp =>
    let y := f.round mode r neg mag exp
    (y.1, orFlags x.2 y.2)

/-- The conversion of a value into a format (03 R83). -/
def Fmt.convert (f : Fmt) (mode r : Nat) (x : Num) : Nat × Nat :=
  match x with
  | .nan sig => (f.nan, flagIf (sig || decide (f.spec = 0)) flagNV)
  | .inf neg => if neg ∧ f.sign = 0 then (0, flagNV) else (f.inf neg, 0)
  | .fin neg mag exp => f.round mode r neg mag exp

/-- The conversion of a value to an integer type of w bits (03 R83). -/
def convertInt (isSigned : Bool) (w mode r : Nat) (x : Num) : Nat × Nat :=
  let pos := if isSigned then 2 ^ (w - 1) - 1 else 2 ^ w - 1
  let low := if isSigned then 2 ^ (w - 1) else 0
  match x with
  | .nan _ => (0, flagNV)
  | .inf neg => (if neg then low else pos, flagNV)
  | .fin neg mag exp =>
    let (k, inexact, _) := roundAt mode r neg mag exp 0 0
    if neg then
      if low < k then (low, flagNV) else ((2 ^ w - k) % 2 ^ w, flagIf inexact flagNX)
    else if pos < k then (pos, flagNV) else (k, flagIf inexact flagNX)

/-! ### Operations on values -/

/-- Whether a value is a signalling NaN. -/
def Num.signals (x : Num) : Bool :=
  match x with
  | .nan s => s
  | _ => false

/-- Whether a value is a NaN. -/
def Num.isNan (x : Num) : Bool :=
  match x with
  | .nan _ => true
  | _ => false

/-- Whether a value is an infinity. -/
def Num.isInf (x : Num) : Bool :=
  match x with
  | .inf _ => true
  | _ => false

/-- Whether a value is a zero. -/
def Num.isZero (x : Num) : Bool :=
  match x with
  | .fin _ mag _ => decide (mag = 0)
  | _ => false

/-- The sign of a value. -/
def Num.neg (x : Num) : Bool :=
  match x with
  | .nan _ => false
  | .inf n => n
  | .fin n _ _ => n

/-- A value with its sign turned. -/
def Num.negate (x : Num) : Num :=
  match x with
  | .nan s => .nan s
  | .inf n => .inf (! n)
  | .fin n m e => .fin (! n) m e

/-- The exponent of a value's last bit; 0 when it is not finite. -/
def Num.exp (x : Num) : Int :=
  match x with
  | .fin _ _ e => e
  | _ => 0

/-- A finite value in units of 2^e, e at most its exponent. -/
def Num.units (x : Num) (e : Int) : Int :=
  match x with
  | .fin n m x => (if n then -1 else 1) * ((m * 2 ^ (x - e).toNat : Nat) : Int)
  | _ => 0

/-- An integer in units of 2^e as a value, not zero. -/
def ofUnits (v : Int) (e : Int) : Num := .fin (decide (v < 0)) v.natAbs e

/-- An integer as a value. -/
def ofInt (v : Int) : Num := .fin (decide (v < 0)) v.natAbs 0

/-- The exact sum of terms before its one rounding (03 R79), without the invalid cases of the
terms themselves. -/
def sumNums (mode : Nat) (l : List Num) : Num × Nat :=
  let sig := flagIf (l.any Num.signals) flagNV
  if l.any Num.isNan then (.nan false, sig)
  else if l.any (fun x => x.isInf && x.neg) && l.any (fun x => x.isInf && ! x.neg) then
    (.nan false, flagNV)
  else if l.any Num.isInf then (.inf (l.any fun x => x.isInf && x.neg), 0)
  else
    let e := l.foldl (fun e x => if x.isZero then e else min e x.exp)
      ((l.find? fun x => ! x.isZero).elim 0 Num.exp)
    let v := l.foldl (fun v x => v + if x.isZero then 0 else x.units e) 0
    if v = 0 then
      let neg := if l.all Num.isZero && l.all Num.neg then true
        else if l.all Num.isZero && l.all (fun x => ! x.neg) then false
        else decide (mode = modeRDN)
      (.fin neg 0 0, 0)
    else (ofUnits v e, 0)

/-- The exact product. -/
def mulNum (a b : Num) : Num × Nat :=
  let sig := flagIf (a.signals || b.signals) flagNV
  let neg := xor a.neg b.neg
  if a.isNan || b.isNan then (.nan false, sig)
  else if (a.isInf && b.isZero) || (a.isZero && b.isInf) then (.nan false, flagNV)
  else if a.isInf || b.isInf then (.inf neg, 0)
  else
    match a, b with
    | .fin _ ma ea, .fin _ mb eb => (.fin neg (ma * mb) (ea + eb), 0)
    | _, _ => (.nan false, 0)

/-- a × b + d before its one rounding (05 R140). -/
def fmaNum (mode : Nat) (a b d : Num) : Num × Nat :=
  let p := mulNum a b
  let x := sumNums mode [p.1, d]
  (x.1, orFlags p.2 x.2)

/-- The quotient of magnitudes to more bits than any rounding looks at, the last of them set when
the quotient is not exact; and its exponent. -/
def divMag (ma : Nat) (ea : Int) (mb : Nat) (eb : Int) : Nat × Int :=
  let k := 1280 + Nat.log2 mb
  let n := ma * 2 ^ k
  (2 * (n / mb) + natOf (decide (n % mb ≠ 0)), ea - eb - k - 1)

/-- a ÷ b (05 R140). -/
def divNum (a b : Num) : Num × Nat :=
  let sig := flagIf (a.signals || b.signals) flagNV
  let neg := xor a.neg b.neg
  if a.isNan || b.isNan then (.nan false, sig)
  else if (a.isInf && b.isInf) || (a.isZero && b.isZero) then (.nan false, flagNV)
  else if a.isInf then (.inf neg, 0)
  else if b.isInf then (.fin neg 0 0, 0)
  else if b.isZero then (.inf neg, flagDZ)
  else
    match a, b with
    | .fin _ ma ea, .fin _ mb eb =>
      let (q, e) := divMag ma ea mb eb
      (.fin neg q e, 0)
    | _, _ => (.nan false, 0)

/-- The bits of the integer square root of n below a root found so far, i of them. -/
def sqrtBits (n : Nat) : Nat → Nat → Nat
  | 0, root => root
  | i + 1, root =>
    let next := root + 2 ^ i
    sqrtBits n i (if next * next ≤ n then next else root)

/-- The integer square root. -/
def isqrt (n : Nat) : Nat := sqrtBits n (Nat.log2 n / 2 + 1) 0

/-- The square root of mag × 2^exp, the last bit set when it is not exact; and its exponent. -/
def sqrtMag (mag : Nat) (exp : Int) : Nat × Int :=
  let odd := exp % 2 = 1
  let n := (if odd then mag * 2 else mag) * 2 ^ 320
  let e := (if odd then exp - 1 else exp) / 2 - 160
  let root := isqrt n
  (2 * root + natOf (decide (root * root ≠ n)), e - 1)

/-- √a (05 R140). -/
def sqrtNum (a : Num) : Num × Nat :=
  match a with
  | .nan s => (.nan false, flagIf s flagNV)
  | .inf neg => if neg then (.nan false, flagNV) else (.inf false, 0)
  | .fin neg mag exp =>
    if mag = 0 then (.fin neg 0 0, 0)
    else if neg then (.nan false, flagNV)
    else
      let (q, e) := sqrtMag mag exp
      (.fin false q e, 0)

/-- 1 ÷ a (05 R142). -/
def rcpNum (a : Num) : Num × Nat := divNum (.fin false 1 0) a

/-- 1 ÷ √a (05 R142). -/
def rsqNum (a : Num) : Num × Nat :=
  match a with
  | .nan s => (.nan false, flagIf s flagNV)
  | .inf neg => if neg then (.nan false, flagNV) else (.fin false 0 0, 0)
  | .fin neg mag exp =>
    if mag = 0 then (.inf neg, flagDZ)
    else if neg then (.nan false, flagNV)
    else
      let odd := exp % 2 = 1
      let n := if odd then mag * 2 else mag
      let half := (if odd then exp - 1 else exp) / 2
      let k := 160 + Nat.log2 n
      let q := isqrt (2 ^ (2 * k) / n)
      (.fin false (2 * q + natOf (decide (q * q * n ≠ 2 ^ (2 * k)))) (- half - k - 1), 0)

/-- The order of two values that are no NaN: whether a < b, with -0 and +0 equal. -/
def ltNum (a b : Num) : Bool :=
  match a, b with
  | .inf na, .inf nb => na && ! nb
  | .inf na, _ => na
  | _, .inf nb => ! nb
  | a, b =>
    let e := min a.exp b.exp
    decide (a.units e < b.units e)

/-- Whether two values that are no NaN are equal, with -0 and +0 equal. -/
def eqNum (a b : Num) : Bool := ! ltNum a b && ! ltNum b a

/-! ### Minimum and maximum (03 R88) -/

/-- The choice of R88 between elements x and y of a format, and its flags; `wantMax` for the
maxima, `numbers` for `vminn` and `vmaxn`. -/
def chooseFloat (f : Fmt) (wantMax numbers : Bool) (x y : Nat) : Nat × Nat :=
  let a := f.decode x
  let b := f.decode y
  let sig := flagIf (a.signals || b.signals) flagNV
  if a.isNan || b.isNan then
    if numbers && ! (a.isNan && b.isNan) then (if a.isNan then y else x, sig)
    else (f.nan, sig)
  else if a.isZero && b.isZero then
    (f.zero (if wantMax then a.neg && b.neg else a.neg || b.neg), 0)
  else if wantMax then (if ltNum a b then y else x, 0)
  else (if ltNum b a then y else x, 0)

/-! ### Draws (03 R81, R82) -/

/-- One draw: the 16-bit word and the generator's next state. -/
def srgDraw (g : BitVec 32) : Nat × BitVec 32 :=
  let x := if g = 0 then 0x6A09E667#32 else g
  let x := x ^^^ (x <<< 13)
  let x := x ^^^ (x >>> 17)
  let x := x ^^^ (x <<< 5)
  (x.toNat / 2 ^ 16, x)

/-- n draws, in order. -/
def srgDraws (g : BitVec 32) : Nat → List Nat × BitVec 32
  | 0 => ([], g)
  | n + 1 =>
    let (r, g) := srgDraw g
    let (l, g) := srgDraws g n
    (r :: l, g)

/-! ### The flags of a word, and their traps (03 R85, R86) -/

/-- The trap causes of the floating-point flags, lowest first: cause, flag, enable bit. -/
def flagCauses : List (BitVec 8 × Nat × Nat) :=
  [(0x21, flagNV, 8), (0x22, flagDZ, 9), (0x23, flagOF, 10), (0x24, flagUF, 11),
    (0x25, flagNX, 12)]

/-- Whether a set of flags holds a flag. -/
def hasFlag (s f : Nat) : Bool := decide (Nat.land s f ≠ 0)

/-- The bits of the elements that raised a flag, element 0 first. -/
def elemMask (f : Nat) : List Nat → Nat
  | [] => 0
  | x :: r => natOf (hasFlag x f) + 2 * elemMask f r

/-- The flags of all elements. -/
def allFlags (l : List Nat) : Nat := l.foldl orFlags 0

/-- The trap that the flags of a word's elements raise, if any (03 R86). -/
def flagTrap (ff : BitVec 14) (idx : Nat) (l : List Nat) : Option Issue :=
  let fl := allFlags l
  match flagCauses.find? fun c => hasFlag fl c.2.1 && bitAt ff c.2.2 with
  | some c => some (.trap c.1 (BitVec.ofNat 64 (fl + elemMask c.2.1 l * 2 ^ 16))
      (BitVec.ofNat 32 idx))
  | none => none

/-- The effect of raising flags: they are ORed into FFLAGS when the bundle completes. -/
def Env.raise (e : Env) (fl : Nat) : List Eff :=
  if fl = 0 then [] else [.flags e.c (e.b * 2048 + 0x2F0) (BitVec.ofNat 8 fl)]

/-- A word whose elements raise these flags: it traps, or has its effects and records them. -/
def Env.withFlags (e : Env) (l : List Nat) (srg : Option (BitVec 32)) (effs : List Eff) :
    Issue :=
  match flagTrap (fflagsOf e.s e.c e.b) e.idx l with
  | some t => t
  | none => .ok { effs := e.raise (allFlags l) ++ effs, srg := srg }

end Sys2Proof.Machine
end

