-- ==== Sys2Proof/Machine/Tlr.lean ====
section
/-!
DEFINITION. Tensor layout records: their fields, their checks, the place of an element and its
value (10 R290-R297, 03 R77, R78).
-/

namespace Sys2Proof.Machine

/-! ### Element formats -/

/-- What an element's bits mean. -/
inductive ElemKind where
  | int (isSigned : Bool)
  | float (f : Fmt)
deriving DecidableEq, Repr

/-- An element format: its meaning, the bits of the format, the bits of its container. -/
structure Elem where
  kind : ElemKind
  bits : Nat
  cont : Nat
deriving DecidableEq, Repr

/-- The container of a format of some width (03 R77). -/
def contBits (w : Nat) : Nat :=
  if w ≤ 1 then 1 else if w ≤ 2 then 2 else if w ≤ 4 then 4 else if w ≤ 8 then 8 else w

/-- An integer format. -/
def intElem (isSigned : Bool) (w : Nat) : Elem := ⟨.int isSigned, w, contBits w⟩

/-- A floating-point format. -/
def floatElem (f : Fmt) : Elem := ⟨.float f, f.width, contBits f.width⟩

/-- Whether elements are narrower than a byte. -/
def Elem.sub (e : Elem) : Bool := decide (e.cont < 8)

/-- The bytes of an element of a byte or more. -/
def Elem.size (e : Elem) : Nat := e.cont / 8

/-- The elements of a 16-byte group (03 R78). -/
def Elem.perGroup (e : Elem) : Nat := 128 / e.cont

/-- The format of a record's FMT code that names no narrow format (10 R291). -/
def fmtElem (code : Nat) : Option Elem :=
  match code with
  | 0x01 => some (intElem true 8)
  | 0x02 => some (intElem false 8)
  | 0x03 => some (intElem true 16)
  | 0x04 => some (intElem false 16)
  | 0x05 => some (intElem true 32)
  | 0x06 => some (intElem false 32)
  | 0x07 => some (intElem true 64)
  | 0x08 => some (intElem false 64)
  | 0x10 => some (floatElem fmt16)
  | 0x11 => some (floatElem fmtBf)
  | 0x12 => some (floatElem fmt32)
  | 0x13 => some (floatElem fmt64)
  | 0x30 => some (intElem true 4)
  | 0x31 => some (intElem false 4)
  | 0x32 => some (intElem true 2)
  | 0x33 => some (intElem false 2)
  | 0x34 => some (intElem false 1)
  | _ => none

/-- NF register k of a core. -/
def CoreSt.nfReg (x : CoreSt) (k : Nat) : Word := mapGet 0 x.nf k

/-- The value of an element's bits. -/
def Elem.decode (e : Elem) (code : Nat) : Num :=
  match e.kind with
  | .int isSigned => ofInt (if isSigned then signedN (code % 2 ^ e.bits) e.bits
      else ((code % 2 ^ e.bits : Nat) : Int))
  | .float f => f.decode code

/-- The conversion of a value into a format (03 R83). -/
def Elem.convert (e : Elem) (mode r : Nat) (x : Num) : Nat × Nat :=
  match e.kind with
  | .int isSigned => convertInt isSigned e.bits mode r x
  | .float f => f.convert mode r x

/-! ### Records -/

/-- A record's fields (10 R290); the lists run over dimensions 0 to 4. -/
structure Tlr where
  dws   : List Word
  space : Nat
  base  : Nat
  fill  : Nat
  bank  : Nat
  fillm : Nat
  eoff  : Nat
  rank  : Nat
  fmt   : Nat
  dims  : List Nat
  strs  : List Nat
  wins  : List Nat
  orgs  : List Int
  elem  : Elem
deriving DecidableEq, Repr

/-- The failure of a record check: cause, auxiliary value, second auxiliary value; and the dword
and bit that it names. -/
structure TlrErr where
  cause : BitVec 8
  aux   : Word
  aux2  : BitVec 32
  dword : Nat
  bit   : Nat
deriving DecidableEq, Repr

/-- Field [hi:lo] of dword i. -/
def tf (d : List Word) (i hi lo : Nat) : Nat := field (dw d i) hi lo

/-- The extents of a record. -/
def tlrDims (d : List Word) : List Nat :=
  [tf d 2 23 0, tf d 2 47 24, tf d 3 23 0, tf d 3 47 24, tf d 4 23 0]

/-- The strides of a record; dimension 0 has none. -/
def tlrStrs (d : List Word) : List Nat :=
  [0, tf d 5 39 0, tf d 6 39 0, tf d 7 39 0, tf d 8 39 0]

/-- The window extents of a record. -/
def tlrWins (d : List Word) : List Nat :=
  [tf d 9 15 0, tf d 9 31 16, tf d 9 47 32, tf d 9 63 48, tf d 10 15 0]

/-- The window origins of a record. -/
def tlrOrgs (d : List Word) : List Int :=
  [signedN (tf d 10 39 16) 24, signedN (tf d 10 63 40) 24, signedN (tf d 11 23 0) 24,
    signedN (tf d 11 47 24) 24, signedN (tf d 4 47 24) 24]

/-- The dword and the lowest bit of each origin. -/
def orgPlace (i : Nat) : Nat × Nat :=
  if i = 0 then (10, 16) else if i = 1 then (10, 40) else if i = 2 then (11, 0)
  else if i = 3 then (11, 24) else (4, 24)

/-- Element n of a list of numbers. -/
def nth (l : List Nat) (n : Nat) : Nat := l.getD n 0

/-- The elements of a record's window. -/
def windowCount (wins : List Nat) (rank : Nat) : Nat := (wins.take rank).foldl (· * ·) 1

/-- The format of a record, read with a core's NF registers: none for a reserved code, an error
with the register's contents and number for an invalid register (10 R291). -/
def recordElem (nf : Map Word) (fmt : Nat) : Option (Except (Word × Nat) Elem) :=
  if 0x20 ≤ fmt ∧ fmt ≤ 0x27 then
    match nfFormat (mapGet 0 nf (fmt - 0x20)) with
    | some f => some (.ok (floatElem f))
    | none => some (.error (mapGet 0 nf (fmt - 0x20), fmt - 0x20))
  else (fmtElem fmt).map .ok

/-- The failure of a field, at a dword and bit. -/
def failAt (d : List Word) (cause : BitVec 8) (i b : Nat) : TlrErr :=
  { cause := cause, aux := dw d i, aux2 := BitVec.ofNat 32 (i + b * 2 ^ 8), dword := i, bit := b }

/-- The conditions of step 1 after the format, in scan order: failure, dword, bit (10 R296). -/
def tlrScan (d : List Word) (e : Elem) : List (Bool × Nat × Nat) :=
  let space := tf d 0 59 57
  let rankm1 := tf d 1 10 8
  let bank := tf d 1 19 16
  let dims := tlrDims d
  let strs := tlrStrs d
  let wins := tlrWins d
  let bad (l : List Nat) (i : Nat) : Bool :=
    if i ≤ rankm1 then nth l i == 0 else nth l i != 0
  let above (v i : Nat) : Bool := decide (rankm1 < i) && v != 0
  [(decide (4 < rankm1), 1, 8),
   (! e.sub && tf d 1 13 11 != 0, 1, 11),
   (decide (8 ≤ bank) || (bank != 0 && (decide (space < 2) || tf d 0 6 0 != 0))
     || (bank == 7 && rankm1 == 0), 1, 16),
   (tf d 1 31 20 != 0, 1, 20),
   (bad dims 0, 2, 0), (bad dims 1, 2, 24), (tf d 2 63 48 != 0, 2, 48),
   (bad dims 2, 3, 0), (bad dims 3, 3, 24), (tf d 3 63 48 != 0, 3, 48),
   (bad dims 4, 4, 0), (above (tf d 4 47 24) 4, 4, 24), (tf d 4 63 48 != 0, 4, 48),
   (above (nth strs 1) 1, 5, 0), (tf d 5 63 40 != 0, 5, 40),
   (above (nth strs 2) 2, 6, 0), (tf d 6 63 40 != 0, 6, 40),
   (above (nth strs 3) 3, 7, 0), (tf d 7 63 40 != 0, 7, 40),
   (above (nth strs 4) 4, 8, 0), (tf d 8 63 40 != 0, 8, 40),
   (decide (2 ^ 32 < windowCount wins (rankm1 + 1)) || bad wins 0, 9, 0),
   (bad wins 1, 9, 16), (bad wins 2, 9, 32), (bad wins 3, 9, 48),
   (bad wins 4, 10, 0), (above (tf d 10 63 40) 1, 10, 40),
   (above (tf d 11 23 0) 2, 11, 0), (above (tf d 11 47 24) 3, 11, 24),
   (tf d 11 63 48 != 0, 11, 48)]

/-- The first condition that fails. -/
def firstBad (l : List (Bool × Nat × Nat)) : Option (Nat × Nat) :=
  firstSome (fun x => if x.1 then some x.2 else none) l

/-- The first byte beyond a space's last address, for a record's BASE (10 R296). -/
def baseLimit (space : Nat) : Nat :=
  if space = 1 then 2 ^ 19 else if space = 2 ∨ space = 3 then 2 ^ 17
  else if space = 4 then 2 ^ 16 else 2 ^ 57

/-- The fields of a record, with the format of its elements. -/
def tlrOf (d : List Word) (e : Elem) : Tlr :=
  { dws := d, space := tf d 0 59 57, base := tf d 0 56 0, fill := tf d 1 63 32,
    bank := tf d 1 19 16, fillm := tf d 1 15 14, eoff := tf d 1 13 11, rank := tf d 1 10 8 + 1,
    fmt := tf d 1 7 0, dims := tlrDims d, strs := tlrStrs d, wins := tlrWins d,
    orgs := tlrOrgs d, elem := e }

/-- The checks of a record (10 R296), with the NF registers of a core; `full` is every reader but
`munf`, which leaves out step 3. -/
def checkTlr (x : CoreSt) (d : List Word) (full : Bool) : Except TlrErr Tlr :=
  let space := tf d 0 59 57
  let base := tf d 0 56 0
  let fmt := tf d 1 7 0
  let rankm1 := tf d 1 10 8
  match firstBad [(decide (space < 5) && decide (baseLimit space ≤ base), 0, 0),
      (decide (5 ≤ space), 0, 57), (tf d 0 63 60 != 0, 0, 60)] with
  | some (i, b) => .error (failAt d 0x80 i b)
  | none =>
    match recordElem x.nf fmt with
    | none => .error (failAt d 0x80 1 0)
    | some (.error (v, k)) =>
      .error { cause := 0x73, aux := v, aux2 := BitVec.ofNat 32 k, dword := 1, bit := 0 }
    | some (.ok e) =>
      match firstBad (tlrScan d e) with
      | some (i, b) => .error (failAt d 0x80 i b)
      | none =>
        let align := if e.sub then 16 else e.size
        let strs := tlrStrs d
        match firstBad ((base % align != 0, 0, 0) ::
            (fromTo 1 rankm1).map fun i => (nth strs i % align != 0, 4 + i, 0)) with
        | some (i, b) => .error (failAt d 0x81 i b)
        | none =>
          let dims := tlrDims d
          let wins := tlrWins d
          let orgs := tlrOrgs d
          let outside (i : Nat) : Bool :=
            let o := orgs.getD i 0
            decide (o < 0) || decide (((nth dims i : Nat) : Int) < o + ((nth wins i : Nat) : Int))
          let fillm := tf d 1 15 14
          match if full && fillm == 3 then
              firstBad ((fromTo 0 (rankm1 + 1)).map fun i => (outside i, orgPlace i))
            else none with
          | some (i, b) => .error (failAt d 0x82 i b)
          | none =>
            .ok (tlrOf d e)

/-! ### The place of an element (10 R293, R294) -/

/-- The bank permutation of an offset. -/
def swizzle (bank o row : Nat) : Nat :=
  if bank = 0 then o
  else
    let rot := if bank ≤ 6 then o / (128 * 2 ^ (bank - 1)) else row
    o / 128 * 128 + (o / 16 + rot) % 8 * 16 + o % 16

/-- The offset from BASE and the container slot of the element at an inside coordinate. -/
def Tlr.locate (t : Tlr) (c : List Nat) : Nat × Nat :=
  let c0 := nth c 0
  let (o, slot) :=
    if t.elem.sub then
      let n := t.elem.perGroup
      let i := t.eoff + c0
      let j := i % n
      (16 * (i / n) + j % 16, j / 16)
    else (c0 * t.elem.size, 0)
  let o := (fromTo 1 (t.rank - 1)).foldl (fun o d => o + nth c d * nth t.strs d) o
  (swizzle t.bank o (nth c 1), slot)

/-- The elements of the window. -/
def Tlr.count (t : Tlr) : Nat := windowCount t.wins t.rank

/-- Window coordinates of the i-th element of a window, dimension 0 fastest. -/
def windowCoord : List Nat → Nat → List Nat
  | [], _ => []
  | w :: r, i => i % w :: windowCoord r (i / w)

/-- The tensor coordinate that a window coordinate names. -/
def Tlr.tensor (t : Tlr) (w : List Nat) : List Int :=
  (List.range t.rank).map fun d => t.orgs.getD d 0 + ((nth w d : Nat) : Int)

/-- Whether a tensor coordinate lies inside. -/
def Tlr.inside (t : Tlr) (s : List Int) : Bool :=
  (List.range t.rank).all fun d =>
    decide (0 ≤ s.getD d 0) && decide (s.getD d 0 < ((nth t.dims d : Nat) : Int))

/-- A tensor coordinate moved into the tensor (10 R295). -/
def Tlr.clamp (t : Tlr) (s : List Int) : List Nat :=
  (List.range t.rank).map fun d =>
    (max 0 (min (s.getD d 0) (((nth t.dims d : Nat) : Int) - 1))).toNat

/-- The fill value of fill mode 1 (10 R295). -/
def Tlr.fillBits (t : Tlr) : Nat :=
  if t.elem.bits ≤ 32 then t.fill % 2 ^ t.elem.bits
  else match t.elem.kind with
    | .int true => (sextLow (BitVec.ofNat 64 t.fill) 32).toNat
    | .int false => t.fill
    | .float f => (f.convert modeRNE 0 (fmt32.decode t.fill)).1

/-- The space of a record. -/
def Tlr.sp (t : Tlr) : Space :=
  if t.space = 0 then .gl else if t.space = 1 then .wm else if t.space = 2 then .wb
  else if t.space = 3 then .ab else .cb

/-- The address of the byte at an offset from BASE, or the fault of one beyond its local space
(10 R297). -/
def Tlr.addr (t : Tlr) (o : Nat) : Except Nat Nat :=
  let a := t.base + o
  if t.space = 0 then .ok a
  else if t.space = 1 then (if 2 ^ 17 ≤ t.base % 2 ^ 17 + o then .error a else .ok a)
  else if spaceBytes t.sp ≤ a then .error a else .ok a

/-! ### Reading and writing elements for an agent of a core -/

/-- A fault of an agent's access: cause and address, or a wait. -/
inductive Elems (α : Type) where
  | ok (v : α) (effs : List Eff)
  | fault (cause : BitVec 8) (addr : Nat) (effs : List Eff)
  | page (addr : Nat)
  | wait

/-- A read of n bytes at an offset of a record's tensor, n at most 16 and aligned. -/
def Tlr.read (t : Tlr) (s : State) (c o n : Nat) : Elems (List Byte) :=
  match t.addr o with
  | .error a => .fault 0x41 a []
  | .ok a =>
    match memRead s c t.sp a n with
    | .ok bs e => .ok bs e
    | .fault cause _ e => .fault cause a e
    | .page => .page a
    | .wait => .wait

/-- A write of bytes at an offset of a record's tensor. -/
def Tlr.write (t : Tlr) (s : State) (c o : Nat) (bs : List Byte) : Elems Unit :=
  match t.addr o with
  | .error a => .fault 0x41 a []
  | .ok a =>
    match memWrite s c t.sp a bs .write with
    | .ok _ e => .ok () e
    | .fault cause _ e => .fault cause a e
    | .page => .page a
    | .wait => .wait

/-- The code of the element at an inside coordinate. -/
def Tlr.readElem (t : Tlr) (s : State) (c : Nat) (co : List Nat) : Elems Nat :=
  let (o, slot) := t.locate co
  match t.read s c o (if t.elem.sub then 1 else t.elem.size) with
  | .ok bs e =>
    let v := ofBytes bs
    .ok (if t.elem.sub then v / 2 ^ (t.elem.cont * slot) % 2 ^ t.elem.bits
      else v % 2 ^ t.elem.bits) e
  | .fault a b e => .fault a b e
  | .page a => .page a
  | .wait => .wait

/-- The code of the element that a reader takes for a tensor coordinate, fills included
(10 R295). -/
def Tlr.take (t : Tlr) (s : State) (c : Nat) (co : List Int) : Elems Nat :=
  if t.inside co then t.readElem s c (co.map Int.toNat)
  else if t.fillm = 1 then .ok t.fillBits []
  else if t.fillm = 2 then t.readElem s c (t.clamp co)
  else .ok 0 []

/-- A byte with a container slot replaced. -/
def putSlot (cont slot : Nat) (v : Nat) (b : Byte) : Byte :=
  let lo := cont * slot
  BitVec.ofNat 8 (b.toNat % 2 ^ lo + v % 2 ^ cont * 2 ^ lo
    + b.toNat / 2 ^ (lo + cont) * 2 ^ (lo + cont))

/-- The write of an element's code at an inside coordinate; the bits of the container above the
element are written zero (03 R77), the other slots of its byte stay. -/
def Tlr.writeElem (t : Tlr) (s : State) (c : Nat) (co : List Nat) (v : Nat) : Elems Unit :=
  let (o, slot) := t.locate co
  let v := v % 2 ^ t.elem.bits
  if t.elem.sub then
    match t.read s c o 1 with
    | .ok bs e =>
      match t.write (applyAll s e) c o [putSlot t.elem.cont slot v (bs.getD 0 0)] with
      | .ok _ e2 => .ok () (e ++ e2)
      | .fault a b e2 => .fault a b (e ++ e2)
      | .page a => .page a
      | .wait => .wait
    | .fault a b e => .fault a b e
    | .page a => .page a
    | .wait => .wait
  else t.write s c o (toBytes t.elem.size v)

end Sys2Proof.Machine
end

