-- ==== Sys2Proof/Machine/Ports.lean ====
section
/-!
DEFINITION. The acceptance of engine commands, pushes to the queue ports, and the write
of a vector result (08 R231-R236, 02 R53, 05 R136).
-/

namespace Sys2Proof.Machine

/-! ### Records and lists in local WM -/

/-- The check of a local WM address that an engine uses (08 R235): alignment, range, own rank,
and that n bytes from it lie inside; none passes. -/
def localCheck (c : Nat) (a : Word) (align n : Nat) : Option (BitVec 8) :=
  if a.toNat % align ≠ 0 then some 0x40
  else if field a 63 19 ≠ 0 ∨ ! ownRank c a.toNat then some 0x41
  else if 2 ^ 17 < a.toNat % 2 ^ 17 + n then some 0x41
  else none

/-- The dwords of a record in local WM as the slot's thread sees it. -/
def readRecord (s : State) (c : Nat) (x : Slot) (a : Nat) : List Word :=
  let bs := x.overlaid x.seq .wm a (readBytes s.mem (localKey c .wm (a % 2 ^ 17)) 96)
  (List.range 12).map fun i => wordOf ((bs.drop (8 * i)).take 8)

/-- Whether a thread has an earlier read that cannot be made now, so that a later load cannot be
satisfied on this turn (11 R303; log 64). -/
def Env.readBlocked (e : Env) : Bool :=
  let r := (Run.start e.s).satisfyBefore e.c e.sl e.slot.tid e.slot.seq
  (r.s.slot e.c e.sl).unreadBefore e.slot.tid e.slot.seq

/-- A word whose answer rests on a load from local WM: the thread's earlier loads are satisfied first, and
it waits for those that cannot be (11 R303). -/
def Issue.afterLoads (i : Issue) (e : Env) : Issue :=
  let before (r : Run) : Run := r.satisfyBefore e.c e.sl e.slot.tid e.slot.seq
  match i with
  | .stall _ _ => i
  | _ =>
    if e.readBlocked then .stall [] none
    else match i with
      | .ok r => .ok { r with late := fun x => r.late (before x) }
      | .trap a b d => .trapWith (before (Run.start e.s)).done a b d
      | .trapWith l a b d => .trapWith ((before (Run.start e.s)).done ++ l) a b d
      | i => i

/-- The same of a load from a space of the core: those of WM stand in the thread's order of loads, those
of the buffers do not (11 R303, 16 R364). -/
def Issue.afterLoadsIn (i : Issue) (sp : Space) (e : Env) : Issue := if sp = .wm then i.afterLoads e else i

/-! ### Acceptance (08 R235) -/

/-- OPC of a header. -/
def hdrOpc (h : Vec) : Nat := field h 2 0
/-- SRC of a header. -/
def hdrSrc (h : Vec) : Word := (h.extractLsb' 24 19).setWidth 64
/-- DST of a header. -/
def hdrDst (h : Vec) : Word := (h.extractLsb' 43 19).setWidth 64
/-- BAR of a header. -/
def hdrBar (h : Vec) : Word := (h.extractLsb' 64 19).setWidth 64
/-- BAREN of a header. -/
def hdrBaren (h : Vec) : Bool := bitAt h 83
/-- ARG of a header. -/
def hdrArg (h : Vec) : BitVec 40 := h.extractLsb' 88 40
/-- Bits [63:0] of a header. -/
def hdrLow (h : Vec) : Word := h.extractLsb' 0 64
/-- Bits [127:64] of a header. -/
def hdrHigh (h : Vec) : Word := h.extractLsb' 64 64

/-- Whether a header's low dword has a reserved bit set. -/
def lowReserved (eng : Nat) (h : Vec) : Bool :=
  field h 63 62 != 0 || field h 23 20 != 0 || field h 15 8 != 0
    || (if eng = 0 then ! bitAt h 6 && field h 5 3 != 0 else field h 6 3 != 0)

/-- Whether a header's high dword has a reserved bit set, ARG included. -/
def highReserved (eng : Nat) (h : Vec) : Bool :=
  let arg := hdrArg h
  field h 87 84 != 0
    || (match eng with
      | 0 => arg != 0
      | 1 => field arg 39 21 != 0
      | 2 => bitAt arg 39 || (hdrOpc h == 0 && bitAt arg 18)
      | _ => field arg 39 32 != 0)

/-- Whether an engine has an operation. -/
def opcKnown (eng opc : Nat) : Bool := if eng = 1 then decide (opc < 3) else decide (opc < 2)

/-- Whether a header's operation uses its source record. -/
def usesSrc (eng : Nat) (h : Vec) : Bool :=
  match eng with
  | 0 => hdrOpc h == 0
  | 3 => hdrOpc h == 0 || hdrSrc h != 0
  | _ => true

/-- The spaces that an engine may touch (10 R286). -/
def engineSpace (eng space : Nat) : Bool :=
  match eng with
  | 0 => true
  | 3 => space == 0 || space == 1 || space == 4
  | _ => decide (space < 4)

/-- The dword of a record that holds the first window extent in which two records differ. -/
def winDword (a b : List Nat) : Nat := if a.take 4 = b.take 4 then 10 else 9

/-- A trap 0x85 with its reason. -/
def inconsistent (v : Word) (reason : Nat) : Option (BitVec 8 × Word × BitVec 32) :=
  some (0x85, v, BitVec.ofNat 32 reason)

/-- The dimension of the source that feeds destination dimension d (08 R247). -/
def dord (arg : BitVec 40) (d : Nat) : Nat := field arg (3 * d + 2) (3 * d)

/-- Whether DORD is a permutation of the dimensions with zero fields above. -/
def dordOk (arg : BitVec 40) (rank : Nat) : Bool :=
  ((List.range rank).all fun d => decide (dord arg d < rank)
    && (List.range rank).all fun k => k == d || dord arg k != dord arg d)
  && (fromTo rank (5 - rank)).all fun d => dord arg d == 0

/-- The check of a bad-chunk list's address. -/
def listCheck (c : Nat) (arg : BitVec 40) : Option (BitVec 8 × Word × BitVec 32) :=
  let a : Word := (arg.extractLsb' 19 19).setWidth 64
  if bitAt arg 38 then (localCheck c a 8 8).map fun x => (x, a, 0) else none

/-- The formats of collectives (08 R251). -/
def collFmt (fmt : Nat) : Bool := decide (0x10 ≤ fmt ∧ fmt ≤ 0x13) || decide (0x05 ≤ fmt ∧ fmt ≤ 0x08)

/-- The operation's own checks (08 R243-R251); a source that the operation does not use is given
as the destination. The place of an index list is checked last (log 88). -/
def opChecks (s : State) (c sl eng : Nat) (h : Vec) (src dst : Tlr) :
    Option (BitVec 8 × Word × BitVec 32) :=
  let arg := hdrArg h
  let opc := hdrOpc h
  let qe := bitAt h 6
  match eng with
  | 0 =>
    if opc = 0 then
      if src.fmt ≠ dst.fmt then inconsistent (dw dst.dws 1) 0
      else if src.rank ≠ dst.rank then inconsistent (dw dst.dws 1) 1
      else if src.wins ≠ dst.wins then inconsistent (dw dst.dws (winDword src.wins dst.wins)) 1
      else if qe ∧ src.rank = 1 then inconsistent (dw src.dws 1) 2
      else if qe ∧ nth src.wins 1 ≠ 64 then inconsistent (dw src.dws 9) 2
      else none
    else if hdrSrc h ≠ 0 ∨ qe then inconsistent (hdrLow h) 3
    else none
  | 1 =>
    let j := if opc = 0 then nth dst.wins 1 else nth src.wins 1
    let inl := bitAt arg 20
    let idx : Word := (arg.extractLsb' 0 19).setWidth 64
    if src.rank ≠ 2 then inconsistent (dw src.dws 1) 4
    else if dst.rank ≠ 2 then inconsistent (dw dst.dws 1) 4
    else if src.fmt ≠ dst.fmt then inconsistent (dw dst.dws 1) 5
    else if nth src.wins 0 ≠ nth dst.wins 0 then inconsistent (dw dst.dws 9) 5
    else if inl ∧ (bitAt arg 19 ∨ idx ≠ 0 ∨ 8 * field h 19 16 < j) then
      inconsistent (hdrHigh h) 6
    else if opc = 2 ∧ ! (decide (0x05 ≤ dst.fmt ∧ dst.fmt ≤ 0x08)
        || decide (0x10 ≤ dst.fmt ∧ dst.fmt ≤ 0x13)) then inconsistent (dw dst.dws 1) 7
    else if inl then none
    else (localCheck c idx (if bitAt arg 19 then 4 else 2) 0).map fun x => (x, idx, 0)
  | 2 =>
    if opc = 0 then
      if 5 ≤ field arg 17 15 then inconsistent (hdrHigh h) 8
      else if src.rank ≠ dst.rank then inconsistent (dw dst.dws 1) 9
      else if ! dordOk arg dst.rank then inconsistent (hdrHigh h) 9
      else
        let want := (List.range dst.rank).map fun d => nth src.wins (dord arg d)
        let got := dst.wins.take dst.rank
        if want ≠ got then inconsistent (dw dst.dws (winDword want got)) 10
        else listCheck c arg
    else
      let tab : Word := (arg.extractLsb' 0 19).setWidth 64
      if src.rank ≠ 1 ∨ src.fmt ≠ 0x02 then inconsistent (dw src.dws 1) 11
      else if ! (dst.fmt == 0x01 || dst.fmt == 0x02 || decide (0x20 ≤ dst.fmt ∧ dst.fmt ≤ 0x34))
        then inconsistent (dw dst.dws 1) 11
      else match localCheck c tab 8 8 with
        | some x => some (x, tab, 0)
        | none => listCheck c arg
  | _ =>
    let rop := field arg 31 29
    if (if opc = 0 then 2 < rop else rop ≠ 0) then inconsistent (hdrHigh h) 12
    else if ! collFmt src.fmt then inconsistent (dw src.dws 1) 13
    else if ! collFmt dst.fmt then inconsistent (dw dst.dws 1) 13
    else
      let v : Word := (arg.extractLsb' 0 27).setWidth 64
      if (resolveScope s c sl v).isNone then some (0x60, v, 0) else none

/-- A record read and checked at acceptance, with the space check of 10 R286. -/
def acceptRecord (e : Env) (a : Word) : Except (BitVec 8 × Word × BitVec 32) Tlr :=
  match checkTlr e.core (readRecord e.s e.c e.slot a.toNat) true with
  | .error x => .error (x.cause, x.aux, x.aux2)
  | .ok t => .ok t

/-- The trap of a record whose space its engine may not touch. -/
def spaceCheck (eng : Nat) (t : Tlr) : Option (BitVec 8 × Word × BitVec 32) :=
  if engineSpace eng t.space then none else some (0x43, dw t.dws 0, BitVec.ofNat 32 eng)

/-- The first failure among checks. -/
def firstFail (l : List (Option (BitVec 8 × Word × BitVec 32))) :
    Option (BitVec 8 × Word × BitVec 32) := firstSome id l

/-- The checks of a header at engine eng before its records are read (08 R235, steps 1 to 4). -/
def Env.headerFault (e : Env) (eng : Nat) (h : Vec) : Option (BitVec 8 × Word × BitVec 32) :=
  let at_ (use : Bool) (a : Word) (n : Nat) : Option (BitVec 8 × Word × BitVec 32) :=
    if use then (localCheck e.c a 8 n).map fun x => (x, a, 0) else none
  firstFail
    [if 7 < field h 19 16 then some (0x83, hdrLow h, 0) else none,
     if lowReserved eng h then some (0x84, hdrLow h, 0) else none,
     if highReserved eng h then some (0x84, hdrHigh h, 1) else none,
     if opcKnown eng (hdrOpc h) then none else some (0x84, hdrLow h, 2),
     at_ (usesSrc eng h) (hdrSrc h) 96, at_ true (hdrDst h) 96, at_ (hdrBaren h) (hdrBar h) 8]

/-- The acceptance of a header at engine eng whose own checks have passed (08 R235): the command, or the
answer of a bundle that does not issue. The source record is checked before the destination record
(log 85). -/
def Env.accept (e : Env) (eng : Nat) (h : Vec) : Except Issue EngCmd :=
  match (if usesSrc eng h then (acceptRecord e (hdrSrc h)).map some else .ok none),
      acceptRecord e (hdrDst h) with
  | .error (a, b, d), _ => .error (.trap a b d)
  | _, .error (a, b, d) => .error (.trap a b d)
  | .ok src, .ok dst =>
    let from_ := src.getD dst
    let qn : BitVec 3 := h.extractLsb' 3 3
    let solving := bitAt h 6 && e.solving qn
    match firstFail [spaceCheck eng from_, spaceCheck eng dst] with
    | some (a, b, d) => .error (.trap a b d)
    | none =>
      if solving then .error (.stall [] none)
      else match opChecks e.s e.c e.sl eng h from_ dst with
        | some (a, b, d) => .error (.trap a b d)
        | none =>
          let v : Word := ((hdrArg h).extractLsb' 0 27).setWidth 64
          .ok { hdr := h, src := (src.map Tlr.dws).getD [], dst := dst.dws,
                q := if bitAt h 6 then (e.q qn).setWidth 352 else 0, operands := [],
                scope := (if eng = 3 then resolveScope e.s e.c e.sl v else none).getD
                  (levelScope e.c e.sl 1),
                tid := e.slot.tid, seq := 0, pc := e.pc, pair := e.pair,
                launch := e.slot.launch }

/-- The elements in a slot's input FIFO at a port. -/
def Port.used (p : Port) : Nat :=
  (p.cmds.map fun x => 1 + x.operands.length).foldl (· + ·) 0
    + match p.opened with
      | some x => 1 + x.operands.length
      | none => 0

/-- A push of an element to port e0 + eng (08 R231, R233). The records of a header are read as
ordinary loads (14 R332). -/
def Env.push (e : Env) (eng : Nat) (v : Vec) : Issue :=
  let p := e.slot.port eng
  match p.opened with
  | some _ => if p.used < 8 then Issue.effs [.operand e.c e.sl eng v] else .stall [] none
  | none =>
    match e.headerFault eng v with
    | some (a, b, d) => .trap a b d
    | none =>
      (match e.accept eng v with
      | .error i => i
      | .ok cmd =>
        if p.used + 1 + field v 19 16 ≤ 8 then Issue.effs [.header e.c e.sl eng cmd]
        else .stall [] none).afterLoads e

/-- Two answers of one word joined: its other effects, and those of its vector result. -/
def Issue.both (a b : Issue) : Issue :=
  match a, b with
  | .trap x y z, _ => .trap x y z
  | .trapWith l x y z, _ => .trapWith l x y z
  | _, .trap x y z => .trap x y z
  | _, .trapWith l x y z => .trapWith l x y z
  | .stall x y, _ => .stall x y
  | _, .stall x y => .stall x y
  | .ok p, .ok q => .ok { p with effs := p.effs ++ q.effs, late := fun r => q.late (p.late r) }

/-- The write of a 128-bit result: a register, a push to a queue port, or the trap of a write to
a stream port (02 R53, 05 R136). -/
def Env.putV (e : Env) (r : Reg) (v : Vec) : Issue :=
  if r.toNat < 24 then Issue.effs (e.setV r v)
  else if r.toNat < 28 then
    .trap 0x63 (BitVec.ofNat 64 e.word.toNat) (BitVec.ofNat 32 r.toNat)
  else e.push (r.toNat - 28) v

end Sys2Proof.Machine
end

