-- ==== Sys2Proof/Machine/Licence.lean ====
section
/-!
DEFINITION. The matrix licence of a quad (07 R212-R216), and what a bundle that has not issued waits
for (09 R279).
-/

namespace Sys2Proof.Machine

/-! ### The licence -/

/-- Whether an engine operation needs the licence (07 R212). -/
def MatKind.licensed (k : MatKind) : Bool :=
  match k with
  | .mma | .mmac => true
  | _ => false

/-- The licensed operations accepted by a quad and not retired (07 R213). -/
def queuedLicensed (s : State) (q : Nat) : Nat :=
  ((List.range 4).map fun r =>
    ((s.core (quadMember q r)).matq.filter fun o => o.kind.licensed).length).foldl (· + ·) 0

/-- The whole microseconds of quantum left (07 R213, R214). -/
def quantumLeft (s : State) (q : Nat) : Nat :=
  let x := s.quad q
  if x.held then 50 - (s.time.toNat - x.grant) / 1000 else 0

/-- Whether a quad must yield because its quantum has expired while its twin waits: YIELD is set
(07 R215). -/
def yieldPending (s : State) (q : Nat) : Bool :=
  let x := s.quad q
  x.yield || (x.held && (s.quad (twinQuad q)).wait && quantumLeft s q == 0)

/-- Whether a quad holds the licence with no yield pending. -/
def licenceReady (s : State) (q : Nat) : Bool :=
  let x := s.quad q
  x.held && ! yieldPending s q && ! x.pre

/-- `LICENCE` of a quad (07 R213). -/
def licenceWord (s : State) (q : Nat) : Word :=
  let x := s.quad q
  let t := s.quad (twinQuad q)
  BitVec.ofNat 64 (natOf x.held + natOf x.wait * 2 + natOf t.wait * 4 + natOf (yieldPending s q) * 8
    + natOf x.pre * 16 + x.hold.toNat * 2 ^ 16 + queuedLicensed s q * 2 ^ 24
    + quantumLeft s q * 2 ^ 32)

/-- A request for the licence by a quad that does not hold it (07 R214). -/
def requestLicence (s : State) (q : Nat) : List Eff :=
  let x := s.quad q
  if x.held || x.wait then [] else [.quad q { x with wait := true }]

/-! ### Bundles that wait (09 R279, R281) -/

/-- Whether the event that a waiting bundle of core c's slot sleeps on has not come about: the tag
of a window entry, the element of a stream, or the licence (09 R279). -/
def Slot.stillAsleep (s : State) (c : Nat) (x : Slot) (a : Asleep) : Bool :=
  match a.kind with
  | 0 => match decodeWord (a.addr.setWidth 32) with
    | .ok (.twput _ _ i) => (s.core (twinOf c)).twinAt i.toNat
    | .ok (.twget _ _ i) => ! (s.core c).twinAt i.toNat
    | _ => true
  | 4 => match mapFind x.streams (a.addr.toNat - 24) with
    | some b => b.fifo.isEmpty
    | none => false
  | 5 => ! licenceReady s (quadOf c)
  | _ => true

/-- The launch of a slot's thread that issues again, when the event has woken it that it awaited when its
launch was last found hung (09 R281). -/
def wokenLaunch (s : State) (c : Nat) (x : Slot) : Option Nat :=
  match x.hungOn with
  | none => none
  | some a => if x.stillAsleep s c a then none else x.launch

end Sys2Proof.Machine
end

