-- ==== Sys2Proof/Machine/Bundle.lean ====
section
/-!
DEFINITION. One turn of a slot: whether its thread is eligible, and the issue of a bundle, all
or nothing (02 R37-R50, R60-R66). How a bundle is fetched and decoded stands in `Turn.lean`.
-/

namespace Sys2Proof.Machine

/-- A word of a bundle as it issues: its bits, its index, its instruction's register codes, and
its meaning. -/
structure Issuing where
  word   : BitVec 32
  idx    : Nat
  reads  : List Nat
  writes : List Nat
  /-- Privileged (04 R126). -/
  priv   : Bool
  /-- Binds or closes the ports it writes (10 R289). -/
  binds  : Bool
  /-- Issues only while its thread has no asynchronous operation outstanding (02 R42, case 8). -/
  idle   : Bool := false
  sem    : Env → Issue

/-! ### The turn -/

/-- The slot whose turn it is in a core (02 R37). -/
def turnSlot (s : State) (c : Nat) : Nat := (s.core c).cycle.toNat % 16

/-- The end of a turn. -/
def Run.tick (r : Run) (c : Nat) : Run := r.emit (.tick c)

/-- Whether a level keeps a slot in rotation (20 R398): the level is the highest user slot. -/
def inRotation (level sl : Nat) : Bool := decide (sl ≤ level)

/-- The level that the power controller has set for a core's domain. -/
def setLevel (s : State) (c : Nat) : Nat := mapGet 12 s.power.level (domainOf c)

/-- The domain's level applied by a core: slots above it are held (20 R398, R399). -/
def Run.applyLevel (r : Run) (c : Nat) : Run :=
  let l := setLevel r.s c
  r.modCore c fun x => { x with level := l }

/-- Whether a slot is out of rotation: held by the level of its core (20 R399). -/
def slotOff (s : State) (c sl : Nat) : Bool := ! inRotation (s.core c).level sl

/-- A turn of a held slot: its cycles do not count toward a wait limit (20 R399). -/
def Run.heldTurn (r : Run) (c sl : Nat) : Run :=
  let x := r.s.slot c sl
  if x.park.isSome || x.asleep.isSome then
    r.modSlot c sl fun x => { x with
      park := x.park.map fun p => { p with cycle := p.cycle + 16 },
      asleep := x.asleep.map fun a => { a with cycle := a.cycle + 16 } }
  else r

/-- Whether a slot's turn is without effect: it holds no thread, or one that is ending or parked by
a trap, or its core is being pre-empted or holds no context. -/
def slotInert (s : State) (c sl : Nat) : Bool :=
  let x := s.slot c sl
  ! x.wspV || x.dying || x.trap.isSome || (s.core c).pre.isSome || (s.core c).ctx.isNone

/-- Whether a slot cannot issue whatever its thread waits for: its turn is without effect, or it is
held, removed or stopped. -/
def slotBarred (s : State) (c sl : Nat) : Bool :=
  let x := s.slot c sl
  slotInert s c sl || x.hold || slotOff s c sl || x.stopped

/-! ### Parks -/

/-- Whether a park may end (02 R60, 04 R113, R114, R117, 06 R183). -/
def parkOver (s : State) (c : Nat) (x : Slot) (p : Park) : Bool :=
  let idle := x.outstanding == 0
  match p.kind with
  | .marker => idle
  | .fenceSc _ => idle && x.sb.isEmpty
  | .join => (! x.own.any fun o => match o.kind with | .join _ => true | _ => false)
      && (! p.all || idle)
  | .susp => (! x.own.any fun o => match o.kind with | .susp _ _ => true | _ => false)
      && (! p.all || idle)
  | .halt => ! (s.core c).trapq.isEmpty && (! p.all || idle)

/-- The address of an operation that waits on an F/E word. -/
def AsyncOp.feAddr (o : AsyncOp) : Option Nat :=
  match o.kind with
  | .fe .fepoll _ _ _ => none
  | .fe _ _ a _ => some a
  | _ => none

/-- The outstanding F/E operations of a thread, but for those that wait for a page, which is no sleep
(06 R177, 16 R364): number and address; with `all`, those too that the home has performed. -/
def Slot.feOps (x : Slot) (all : Bool) : List (Nat × Nat) :=
  let ops := x.own.filterMap fun o =>
    match o.st with
    | .done _ => if all then o.feAddr.map fun a => (o.seq, a) else none
    | .paged => none
    | _ => o.feAddr.map fun a => (o.seq, a)
  let sts := x.ownStfe.filterMap fun e =>
    match e.kind with
    | .stfe _ a _ => if e.held then none else some (e.seq, a)
    | _ => none
  ops ++ sts

/-- Whether a park is one under R60: that of the park marker, of an instruction that parks as it
does, or of `fence.sc`, which waits for every outstanding operation too. -/
def Park.underMarker (p : Park) : Bool :=
  p.all || (match p.kind with
    | .marker => true
    | .fenceSc _ => true
    | _ => false)

/-- The oldest of numbered addresses. -/
def oldest : List (Nat × Nat) → Option (Nat × Nat)
  | [] => none
  | x :: r => match oldest r with
    | some y => if y.1 < x.1 then some y else some x
    | none => some x

/-- The trap 0x64 of a parked thread that has slept past its limit (06 R177): it names the oldest waiting
F/E operation, or the oldest that has yet to return when none waits any more. -/
def limitTrap (s : State) (c sl : Nat) (x : Slot) (p : Park) : Option TrapRec :=
  let lim := wlimOf s c x.block
  match oldest (x.feOps false) <|> oldest (x.feOps true) with
  | none => none
  | some (_, a) =>
    if p.underMarker ∧ lim ≠ 0 ∧ lim < (s.core c).cycle.toNat - p.cycle then
      some (trapRecord s sl 0x64 (BitVec.ofNat 64 a) (BitVec.ofNat 32 lim) p.pc p.pair false)
    else none

/-! ### The issue of a bundle -/

/-- A trap at decode or issue: the thread parks, nothing else changes (02 R47), but that the PC
image of a `trap n` is the next bundle (12 R322). -/
def Run.trapAt (r : Run) (c sl pc npc : Nat) (pair : Bool) (cause : BitVec 8) (aux : Word)
    (aux2 : BitVec 32) : Run :=
  let b := (r.s.slot c sl).block
  let r := if isTrapN cause then r.emit (setPc c b npc) else r
  r.emits (takeTrap r.s c sl (trapRecord r.s sl cause aux aux2 pc pair false))

/-- A turn on which the bundle does not issue: the thread may be asleep from now on, and a
twin-window wait may pass its limit (06 R194). -/
def Run.stallAt (r : Run) (c sl pc npc : Nat) (pair : Bool) (effs : List Eff)
    (sleep : Option (Nat × Word)) : Run :=
  let r := r.emits effs
  let x := r.s.slot c sl
  match sleep with
  | none => if x.asleep.isSome then r.modSlot c sl fun x => { x with asleep := none } else r
  | some (kind, addr) =>
    let now := (r.s.core c).cycle.toNat
    match x.asleep with
    | some a =>
      let lim := wlimOf r.s c x.block
      if a.kind = kind ∧ a.addr = addr then
        if kind = 0 ∧ lim ≠ 0 ∧ lim < now - a.cycle then
          r.trapAt c sl pc npc pair 0x64 addr (BitVec.ofNat 32 lim)
        else r
      else r.modSlot c sl fun x => { x with asleep := some { kind, addr, cycle := now } }
    | none => r.modSlot c sl fun x => { x with asleep := some { kind, addr, cycle := now } }

/-- The end step at a bundle whose last word lies at `last`, from level l - 1 down (04 R108). -/
def Run.endStep (r : Run) (c b last : Nat) : Nat → Run
  | 0 => r
  | l + 1 =>
    let x := loopState r.s c b l
    if x.active && x.lastWord == (last : Int) then
      let r := r.emit (setLoop c b l x.less)
      if x.less.count ≠ 0 then
        let r := (fromTo (l + 1) (2 - l)).foldl (fun r m =>
          r.emit (setLoop c b m { loopState r.s c b m with active := false })) r
        r.emit (setPc c b x.start)
      else r.endStep c b last l
    else r.endStep c b last l

/-- Vector register codes of ports, as register numbers. -/
def portCodes (l : List Nat) : List Nat :=
  l.filterMap fun code => if 56 ≤ code ∧ code < 64 then some (code - 32) else none

/-- What the ports that a bundle reads give. -/
inductive PortsIn where
  | ok (vals : List (Nat × Vec)) (pops : List Eff)
  | trap (cause : BitVec 8) (aux : Word) (aux2 : BitVec 32)
  | stall (sleep : Option (Nat × Word))

/-- The element that a read of port code p gives now (06 R192, 08 R231). -/
def readPort (c sl : Nat) (x : Slot) (p : Nat) : PortsIn :=
  if p < 28 then
    match mapFind x.streams (p - 24) with
    | none => .trap 0x67 (BitVec.ofNat 64 p) 0
    | some b =>
      if b.total ≤ b.taken then .trap 0x67 (BitVec.ofNat 64 p) 1
      else match b.fifo with
        | [] => .stall (some (4, BitVec.ofNat 64 p))
        | .value v :: _ => .ok [(p, v)] [.popStream c sl (p - 24)]
        | .fault cause addr :: _ => .trap cause addr 0
  else
    match (x.port (p - 28)).results with
    | [] => .stall none
    | v :: _ => .ok [(p, v)] [.popResult c sl (p - 28)]

/-- The elements of the ports that a bundle reads, each port once (02 R49): a trap comes before a
stall. -/
def gatherPorts (c sl : Nat) (x : Slot) : List Nat → PortsIn
  | [] => .ok [] []
  | p :: r =>
    match readPort c sl x p, gatherPorts c sl x r with
    | .trap a b d, _ => .trap a b d
    | _, .trap a b d => .trap a b d
    | .stall z, _ => .stall z
    | _, .stall z => .stall z
    | .ok v e, .ok v2 e2 => .ok (v ++ v2) (e ++ e2)

/-- The asynchronous operations that effects start (02 R43, 06 R176). -/
def startsOf (l : List Eff) : Nat :=
  (l.filter fun e => match e with
    | .op _ _ _ => true
    | .sb _ _ x => (match x.kind with | .stfe _ _ _ => true | _ => false)
    | _ => false).length

/-- The register codes of a bundle that are pending. -/
def pendingOf (x : Slot) (l : List Nat) : List Nat := l.filter x.pending

/-- The pending register that a bundle touches under strict mode, and whether by a write
(02 R63). Where there are several, the record names the first of the first word, its reads before
its writes, in the order of its operands (log 74). -/
def strictHit (x : Slot) (ws : List Issuing) : Option (Nat × Nat) :=
  firstSome (fun w =>
    match pendingOf x w.reads, pendingOf x w.writes with
    | p :: _, _ => some (p, 0)
    | [], p :: _ => some (p, 1)
    | [], [] => none) ws

/-- The first trap among the words' answers, with what it leaves at a station. -/
def firstTrap (l : List Issue) : Option (List Eff × BitVec 8 × Word × BitVec 32) :=
  firstSome (fun i => match i with
    | .trap a b c => some ([], a, b, c)
    | .trapWith e a b c => some (e, a, b, c)
    | _ => none) l

/-- The first stall among the words' answers. -/
def firstStall (l : List Issue) : Option (List Eff × Option (Nat × Word)) :=
  firstSome (fun i => match i with | .stall e z => some (e, z) | _ => none) l

/-- The results of the words that issue. -/
def resultsOf (l : List Issue) : List Res :=
  l.filterMap fun i => match i with | .ok r => some r | _ => none

/-- The park after a bundle whose operations are numbered from `first` on: a word's own kind, or that of the
park marker (02 R60). A thread that left the slot with the bundle does not park. -/
def Run.parkAfter (r : Run) (c sl tid first pc : Nat) (pair marker : Bool) (kind : Option ParkKind) :
    Run :=
  let x := r.s.slot c sl
  let park (k : ParkKind) : Run :=
    r.modSlot c sl fun x => { x with
      park := some { kind := k, all := marker, pc := pc, pair := pair,
                     cycle := (r.s.core c).cycle.toNat, first := first } }
  if x.tid ≠ tid ∨ ! x.wspV ∨ x.dying ∨ x.trap.isSome then r
  else
    match kind with
    | some .marker => if x.outstanding = 0 then r else park .marker
    | some k => park k
    | none => if marker && x.outstanding != 0 then park .marker else r

/-- A slot whose park is over: a `fence.sc` has completed, and a thread that its launch's hang had listed
has been woken (02 R60, R68, 09 R281). -/
def Slot.parkEnded (s : State) (c : Nat) (p : Park) (x : Slot) : Slot :=
  let x := { x with park := none, hungOn := none }
  match p.kind with
  | .fenceSc n => x.covers (fenceSees s c n)
  | _ => x

/-- A slot whose thread has issued a bundle: it sleeps no more, and its fetches find no more the old words that
its last `fence.sc` has covered (02 R68). -/
def Slot.awake (x : Slot) : Slot :=
  { x with asleep := none, hungOn := none, synced := x.covered.foldl (fun l i => setPut l i true) x.synced,
           covered := [] }

/-- A launch found hung may be found hung again once one of its threads has been woken (09 R281). -/
def Run.woken (r : Run) (l : Option Nat) : Run :=
  match l with
  | none => r
  | some k =>
    match mapFind r.s.gaffer.launches k with
    | some y => if y.hung then r.modGaffer fun g => { g with
        launches := mapPut g.launches k { y with hung := false } } else r
    | none => r

/-- The effects of a bundle that issues, in order: the PC, the words' effects, the elements taken
from ports, the generator, the transfer of control or the end step, what follows, the park. -/
def Run.commit (r : Run) (c sl pc npc : Nat) (pair marker : Bool) (l : List Res)
    (pops : List Eff) : Run :=
  let x := r.s.slot c sl
  let woken := wokenLaunch r.s c x
  let r := r.emit (setPc c x.block npc)
  let r := r.emits (l.map Res.effs).flatten
  let r := r.emits pops
  let r := match firstSome Res.srg l with
    | some g => if l.any Res.ownsSrg then r else r.emit (setSrg c x.block g)
    | none => r
  let r := match firstSome Res.jump l with
    | some t => r.emit (setPc c x.block t)
    | none => r.endStep c x.block (npc - 4) 3
  let y := r.s.slot c sl
  let r := if y.awake = y then r else r.modSlot c sl Slot.awake
  let r := l.foldl (fun r y => y.late r) (r.woken woken)
  r.parkAfter c sl x.tid x.seq pc pair marker (firstSome Res.park l)

/-- The environment of a word. -/
def Run.env (r : Run) (c sl pc npc : Nat) (pair : Bool) (ports : List (Nat × Vec))
    (w : Issuing) : Env :=
  { s := r.s, c := c, sl := sl, b := (r.s.slot c sl).block, pc := pc, npc := npc,
    word := w.word, idx := w.idx, pair := pair, ports := ports }

/-- Before a bundle that reads a pending register in normal mode, the thread's loads may have been
satisfied, or not, and its `xwait`s that are due settled, or not, as a free value says (02 R61; log 1). -/
def Run.pendingReads (r : Run) (c sl : Nat) (ws : List Issuing) : Run :=
  let x := r.s.slot c sl
  if (ws.map fun w => pendingOf x w.reads).flatten = [] then r
  else
    let z := Config.bits r.s.free 1024
    let r := if z.getLsbD 0 then r.satisfyBefore c sl x.tid x.seq else r
    let r := if z.getLsbD 1 then (r.s.slot c sl).own.foldl (fun r o => r.settleWait c sl o) r else r
    r.emit .free

/-- The issue of a bundle that decode has let through, by an eligible thread. -/
def Run.issue (r : Run) (c sl pc : Nat) (ws : List Issuing) (marker : Bool) : Run :=
  let pair := decide (1 < ws.length)
  let npc := pc + 4 * ws.length
  let x := r.s.slot c sl
  if (ws.any Issuing.idle) ∧ x.outstanding ≠ 0 then r.stallAt c sl pc npc pair [] none
  else match if strictOn r.s c x.block then strictHit x ws else none with
  | some (code, w) => r.trapAt c sl pc npc pair 0x04 (BitVec.ofNat 64 code) (BitVec.ofNat 32 w)
  | none =>
    let r := r.pendingReads c sl ws
    match gatherPorts c sl (r.s.slot c sl) (portCodes (ws.map Issuing.reads).flatten).eraseDups with
    | .trap a b d => r.trapAt c sl pc npc pair a b d
    | .stall z => r.stallAt c sl pc npc pair [] z
    | .ok vals pops =>
      let outs := ws.map fun w => w.sem (r.env c sl pc npc pair vals w)
      match firstTrap outs with
      | some (e, a, b, d) => (r.emits e).trapAt c sl pc npc pair a b d
      | none =>
        match firstStall outs with
        | some (e, z) => r.stallAt c sl pc npc pair e z
        | none =>
          let l := resultsOf outs
          if 16 < (r.s.slot c sl).outstanding + startsOf (l.map Res.effs).flatten then
            r.stallAt c sl pc npc pair [] none
          else r.commit c sl pc npc pair marker l pops

/-- The codes that appear in both of two lists; g0 is never a written register (02 R49). -/
def common (a b : List Nat) : List Nat := a.filter fun c => c != 0 && b.contains c

/-- The codes of queue ports that a bundle pushes or pops more than once (02 R49). -/
def portTwice (ws : List Issuing) : List Nat :=
  let l := (ws.map fun w => w.writes ++ w.reads).flatten.filter fun c =>
    decide (60 ≤ c ∧ c < 64)
  l.filter fun c => decide (1 < l.count c)

/-- The stream ports that one word reads and another binds or closes (10 R289). -/
def boundRead (ws : List Issuing) : List Nat :=
  (ws.map fun w =>
    if w.binds then common w.writes ((ws.filter fun x => x.idx != w.idx).map Issuing.reads).flatten
    else []).flatten

/-- The registers that two words of a bundle write, and the ports that count as such (02 R48,
R49, 10 R289). -/
def doubleWrites (ws : List Issuing) : List Nat :=
  (match ws with
    | [a, b] => common a.writes b.writes
    | _ => []) ++ portTwice ws ++ boundRead ws

/-- The lowest of some numbers. -/
def lowestOf : List Nat → Option Nat
  | [] => none
  | a :: r => some (r.foldl min a)

/-- The words of a bundle: the first in [31:0], the second in [63:32]. -/
def bundleAux (ws : List Issuing) : Word :=
  ws.foldr (fun w acc => acc <<< 32 ||| w.word.setWidth 64) 0

/-- The issue of a bundle whose words are instructions: the last two decode checks come first
(02 R48). -/
def Run.bundle (r : Run) (c sl pc : Nat) (ws : List Issuing) (marker : Bool) : Run :=
  let pair := decide (1 < ws.length)
  let npc := pc + 4 * ws.length
  match if sl = 0 then none else ws.find? Issuing.priv with
  | some w =>
    r.trapAt c sl pc npc pair 0x06 (w.word.setWidth 64) (BitVec.ofNat 32 w.idx)
  | none =>
    match lowestOf (doubleWrites ws) with
    | some code => r.trapAt c sl pc npc pair 0x05 (bundleAux ws) (BitVec.ofNat 32 code)
    | none => r.issue c sl pc ws marker

/-- What a turn comes to before a bundle is looked at. -/
inductive Gate where
  /-- The turn is used: a bubble, a trap, a change of state. -/
  | past (r : Run)
  /-- The thread may issue its next bundle. -/
  | go (r : Run)

/-- The level set for a core's domain applied at a turn of slot 0 (20 R398). -/
def Run.startTurn (r : Run) (c sl : Nat) : Run :=
  if sl = 0 ∧ setLevel r.s c ≠ (r.s.core c).level then r.applyLevel c else r

/-- The turn of a slot up to the fetch: its thread is eligible unless it has a fault to take, which
a held thread takes too, or is barred, or is parked; a thread asleep past its limit traps, one that
`slotctl.stop` holds too (02 R42, R60, R65, 06 R177, 20 R399). -/
def Run.gate (r : Run) (c sl : Nat) : Gate :=
  let x := r.s.slot c sl
  if slotInert r.s c sl then .past r
  else match x.faults with
    | f :: rest =>
      let r := r.modSlot c sl fun x => { x with faults := rest }
      .past (r.emits (takeTrap r.s c sl
        (trapRecord r.s sl f.cause f.aux f.aux2 f.pc f.pair true)))
    | [] =>
      let limited (r : Run) : Run := match x.park with
        | some p => match if parkOver r.s c x p then none else limitTrap r.s c sl x p with
          | some t => r.emits (takeTrap r.s c sl t)
          | none => r
        | none => r
      if slotOff r.s c sl then .past (r.heldTurn c sl)
      else if slotBarred r.s c sl then .past (limited r)
      else match x.park with
      | none => .go r
      | some p =>
        if parkOver r.s c x p then
          let q := r.modSlot c sl (Slot.parkEnded r.s c p)
          .go (if x.hungOn.isSome then q.woken x.launch else q)
        else .past (limited r)

/-- The PC at which a slot's thread fetches; bits [1:0] are zero (02 R45). -/
def fetchPc (s : State) (c sl : Nat) : Nat := pcImage s c (s.slot c sl).block / 4 * 4

/-- The old values of a word that the fetches of a slot's thread may still find: stores have changed them,
and no `fence.sc` of the thread has followed (02 R68). -/
def oldValues (s : State) (c sl key : Nat) : List (BitVec 32) :=
  (s.oldWords.zipIdx.filter fun e => e.1.key == key && ! (s.slot c sl).synced.contains e.2).map
    fun e => e.1.word

/-- The word that a fetch finds: the one that memory holds at its place, or freely an old value, at each
fetch anew (log 7). -/
def fetchedWord (s : State) (c sl pc : Nat) (w : BitVec 32) : BitVec 32 :=
  match translate s (s.ctxOf c) pc .fetch with
  | .at t pa _ => match oldValues s c sl (physKey t pa) with
    | [] => w
    | l =>
      let n := 2 ^ 60 + pc + 2 ^ 61 * (c + 2 ^ 12 * (s.core c).cycle.toNat)
      l.getD ((Config.bits s.free n).toNat % (l.length + 1)) w
  | _ => w

/-- The fetch of the word at a PC (02 R45, R68, 16 R360). -/
def fetchWord (s : State) (c sl pc : Nat) : Acc (BitVec 32) :=
  if 2 ^ 57 ≤ pc then .fault 0x42 0 []
  else
    match glRead s (s.ctxOf c) pc 4 .fetch with
    | .ok bs e => .ok (fetchedWord s c sl pc (BitVec.ofNat 32 (ofBytes bs))) e
    | .fault cause a e => .fault cause a e
    | .page => .page
    | .wait => .wait

/-- Whether an instruction issues only when nothing of its thread is outstanding (02 R42: case 8). -/
def needsIdle : Instr → Bool
  | .susp _ _ | .yield => true
  | _ => false

/-- A word of a bundle as it issues. -/
def issuing (i : Instr) (word : BitVec 32) (idx : Nat) (sem : Env → Issue) : Issuing :=
  { word := word, idx := idx, reads := readsOf i, writes := writesOf i, priv := privileged i,
    binds := (match i with
      | .sbind _ _ => true
      | .sclose _ => true
      | _ => false),
    idle := needsIdle i,
    sem := sem }

/-- A lone word issued, or the trap of a reserved field value (02 R48, R58). -/
def Run.lone (r : Run) (c sl pc : Nat) (i : Instr) (word : BitVec 32) (marker : Bool)
    (sem : Env → Issue) : Run :=
  if wellFormed i then r.bundle c sl pc [issuing i word 0 sem] marker
  else r.trapAt c sl pc (pc + 4) false 0x02 (word.setWidth 64) 0

/-- The turn of the core that `sel` names with a given lone instruction as the thread's next
bundle; the meaning of an instruction as a step. -/
def runLone (i : Instr) (sem : Env → Issue) (s : State) : Host.Outcome State Fault Refusal :=
  let c := s.sel.core
  let sl := turnSlot s c
  finish s (some
    (match ((Run.start s).startTurn c sl).gate c sl with
      | .past r => (r.tick c).done
      | .go r =>
        ((r.lone c sl (fetchPc r.s c sl) i ((encodeLone i false).getD 0) false sem).tick c).done))

end Sys2Proof.Machine
end

