-- ==== Sys2Proof/Machine/Scalar.lean ====
section
/-!
DEFINITION. The scalar instructions (04 R93-R99).
-/

namespace Sys2Proof.Machine

/-! ### Scalar operations -/

/-- The high 64 bits of a product of integers. -/
def highProduct (a b : Int) : Word := BitVec.ofInt 64 (a * b / 2 ^ 64)

/-- The number of one bits among the low n bits. -/
def countOnes (x : Nat) : Nat → Nat
  | 0 => 0
  | n + 1 => natOf (x.testBit n) + countOnes x n

/-- The leading zero bits of n bits. -/
def leadingZeros (x : Nat) : Nat → Nat
  | 0 => 0
  | n + 1 => if x.testBit n then 0 else 1 + leadingZeros x n

/-- The index of the lowest one bit at or above i among n bits. -/
def lowestOne (x i : Nat) : Nat → Nat
  | 0 => i
  | n + 1 => if x.testBit i then i else lowestOne x (i + 1) n

/-- The bits of a dword in reverse order. -/
def reverseBits (x : Nat) : Nat → Nat
  | 0 => 0
  | n + 1 => natOf (x.testBit (63 - n)) * 2 ^ n + reverseBits x n

/-- The bytes of a dword in reverse order. -/
def reverseBytes (x : Word) : Word := wordOf (wordBytes x).reverse

/-- The quotient of R95; signed division truncates toward zero. -/
def quotient (isSigned : Bool) (a b : Word) : Word :=
  if b = 0 then BitVec.allOnes 64
  else if isSigned then BitVec.ofInt 64 (a.toInt.tdiv b.toInt)
  else BitVec.ofNat 64 (a.toNat / b.toNat)

/-- The remainder of R95, with the sign of the dividend. -/
def remainder (isSigned : Bool) (a b : Word) : Word :=
  if b = 0 then a
  else if isSigned then BitVec.ofInt 64 (a.toInt.tmod b.toInt)
  else BitVec.ofNat 64 (a.toNat % b.toNat)

/-- A division: by zero it traps 0x20 under IDZE, else raises DZ (03 R85, R86, 04 R95). -/
def Env.divide (e : Env) (d : Reg) (a b v : Word) : Issue :=
  if b = 0 then
    if bitAt (fflagsOf e.s e.c e.b) 13 then .trap 0x20 a (BitVec.ofNat 32 e.idx)
    else Issue.effs (e.raise flagDZ ++ e.setG d v)
  else e.putG d v

/-- The field of LEN bits at POS. -/
def extractField (x : Word) (pos len : Nat) : Word := BitVec.ofNat 64 (x.toNat / 2 ^ pos % 2 ^ len)

/-- A dword with the field of LEN bits at POS replaced. -/
def insertField (old x : Word) (pos len : Nat) : Word :=
  let mask : Word := BitVec.ofNat 64 ((2 ^ len - 1) * 2 ^ pos)
  (old &&& ~~~ mask) ||| ((x <<< pos) &&& mask)

/-- R94: Add two g registers. -/
def semAdd (d a b : BitVec 5) (e : Env) : Issue :=
  e.putG d (e.g a + e.g b)

/-- The step `ADD`. -/
def execAdd (d a b : BitVec 5) (s' : State) : Host.Outcome State Fault Refusal :=
  runLone (.add d a b) (semAdd d a b) s'

/-- R94: Subtract two g registers. -/
def semSub (d a b : BitVec 5) (e : Env) : Issue :=
  e.putG d (e.g a - e.g b)

/-- The step `SUB`. -/
def execSub (d a b : BitVec 5) (s' : State) : Host.Outcome State Fault Refusal :=
  runLone (.sub d a b) (semSub d a b) s'

/-- R94: Bitwise AND. -/
def semAnd (d a b : BitVec 5) (e : Env) : Issue :=
  e.putG d (e.g a &&& e.g b)

/-- The step `AND`. -/
def execAnd (d a b : BitVec 5) (s' : State) : Host.Outcome State Fault Refusal :=
  runLone (.and d a b) (semAnd d a b) s'

/-- R94: Bitwise OR. -/
def semOr (d a b : BitVec 5) (e : Env) : Issue :=
  e.putG d (e.g a ||| e.g b)

/-- The step `OR`. -/
def execOr (d a b : BitVec 5) (s' : State) : Host.Outcome State Fault Refusal :=
  runLone (.or d a b) (semOr d a b) s'

/-- R94: Bitwise XOR. -/
def semXor (d a b : BitVec 5) (e : Env) : Issue :=
  e.putG d (e.g a ^^^ e.g b)

/-- The step `XOR`. -/
def execXor (d a b : BitVec 5) (s' : State) : Host.Outcome State Fault Refusal :=
  runLone (.xor d a b) (semXor d a b) s'

/-- R94: Shift left by a register count. -/
def semShl (d a b : BitVec 5) (e : Env) : Issue :=
  e.putG d (e.g a <<< (field (e.g b) 5 0))

/-- The step `SHL`. -/
def execShl (d a b : BitVec 5) (s' : State) : Host.Outcome State Fault Refusal :=
  runLone (.shl d a b) (semShl d a b) s'

/-- R94: Logical shift right by a register count. -/
def semShr (d a b : BitVec 5) (e : Env) : Issue :=
  e.putG d (e.g a >>> (field (e.g b) 5 0))

/-- The step `SHR`. -/
def execShr (d a b : BitVec 5) (s' : State) : Host.Outcome State Fault Refusal :=
  runLone (.shr d a b) (semShr d a b) s'

/-- R94: Arithmetic shift right by a register count. -/
def semSra (d a b : BitVec 5) (e : Env) : Issue :=
  e.putG d ((e.g a).sshiftRight (field (e.g b) 5 0))

/-- The step `SRA`. -/
def execSra (d a b : BitVec 5) (s' : State) : Host.Outcome State Fault Refusal :=
  runLone (.sra d a b) (semSra d a b) s'

/-- R94: Low 64 bits of the product. -/
def semMul (d a b : BitVec 5) (e : Env) : Issue :=
  e.putG d (e.g a * e.g b)

/-- The step `MUL`. -/
def execMul (d a b : BitVec 5) (s' : State) : Host.Outcome State Fault Refusal :=
  runLone (.mul d a b) (semMul d a b) s'

/-- R94: High 64 bits of the signed product. -/
def semMulh (d a b : BitVec 5) (e : Env) : Issue :=
  e.putG d (highProduct (e.g a).toInt (e.g b).toInt)

/-- The step `MULH`. -/
def execMulh (d a b : BitVec 5) (s' : State) : Host.Outcome State Fault Refusal :=
  runLone (.mulh d a b) (semMulh d a b) s'

/-- R94: High 64 bits of the unsigned product. -/
def semMulhu (d a b : BitVec 5) (e : Env) : Issue :=
  e.putG d (highProduct (e.g a).toNat (e.g b).toNat)

/-- The step `MULHU`. -/
def execMulhu (d a b : BitVec 5) (s' : State) : Host.Outcome State Fault Refusal :=
  runLone (.mulhu d a b) (semMulhu d a b) s'

/-- R95: Signed division. -/
def semDiv (d a b : BitVec 5) (e : Env) : Issue :=
  e.divide d (e.g a) (e.g b) (quotient true (e.g a) (e.g b))

/-- The step `DIV`. -/
def execDiv (d a b : BitVec 5) (s' : State) : Host.Outcome State Fault Refusal :=
  runLone (.div d a b) (semDiv d a b) s'

/-- R95: Unsigned division. -/
def semDivu (d a b : BitVec 5) (e : Env) : Issue :=
  e.divide d (e.g a) (e.g b) (quotient false (e.g a) (e.g b))

/-- The step `DIVU`. -/
def execDivu (d a b : BitVec 5) (s' : State) : Host.Outcome State Fault Refusal :=
  runLone (.divu d a b) (semDivu d a b) s'

/-- R95: Signed remainder. -/
def semRem (d a b : BitVec 5) (e : Env) : Issue :=
  e.divide d (e.g a) (e.g b) (remainder true (e.g a) (e.g b))

/-- The step `REM`. -/
def execRem (d a b : BitVec 5) (s' : State) : Host.Outcome State Fault Refusal :=
  runLone (.rem d a b) (semRem d a b) s'

/-- R95: Unsigned remainder. -/
def semRemu (d a b : BitVec 5) (e : Env) : Issue :=
  e.divide d (e.g a) (e.g b) (remainder false (e.g a) (e.g b))

/-- The step `REMU`. -/
def execRemu (d a b : BitVec 5) (s' : State) : Host.Outcome State Fault Refusal :=
  runLone (.remu d a b) (semRemu d a b) s'

/-- R94: Signed minimum. -/
def semMin (d a b : BitVec 5) (e : Env) : Issue :=
  e.putG d (if (e.g b).slt (e.g a) then e.g b else e.g a)

/-- The step `MIN`. -/
def execMin (d a b : BitVec 5) (s' : State) : Host.Outcome State Fault Refusal :=
  runLone (.min d a b) (semMin d a b) s'

/-- R94: Signed maximum. -/
def semMax (d a b : BitVec 5) (e : Env) : Issue :=
  e.putG d (if (e.g a).slt (e.g b) then e.g b else e.g a)

/-- The step `MAX`. -/
def execMax (d a b : BitVec 5) (s' : State) : Host.Outcome State Fault Refusal :=
  runLone (.max d a b) (semMax d a b) s'

/-- R94: Unsigned minimum. -/
def semMinu (d a b : BitVec 5) (e : Env) : Issue :=
  e.putG d (if (e.g b).ult (e.g a) then e.g b else e.g a)

/-- The step `MINU`. -/
def execMinu (d a b : BitVec 5) (s' : State) : Host.Outcome State Fault Refusal :=
  runLone (.minu d a b) (semMinu d a b) s'

/-- R94: Unsigned maximum. -/
def semMaxu (d a b : BitVec 5) (e : Env) : Issue :=
  e.putG d (if (e.g a).ult (e.g b) then e.g b else e.g a)

/-- The step `MAXU`. -/
def execMaxu (d a b : BitVec 5) (s' : State) : Host.Outcome State Fault Refusal :=
  runLone (.maxu d a b) (semMaxu d a b) s'

/-- R94: Set if less, signed. -/
def semSlt (d a b : BitVec 5) (e : Env) : Issue :=
  e.putG d (bit01 ((e.g a).slt (e.g b)))

/-- The step `SLT`. -/
def execSlt (d a b : BitVec 5) (s' : State) : Host.Outcome State Fault Refusal :=
  runLone (.slt d a b) (semSlt d a b) s'

/-- R94: Set if less, unsigned. -/
def semSltu (d a b : BitVec 5) (e : Env) : Issue :=
  e.putG d (bit01 ((e.g a).ult (e.g b)))

/-- The step `SLTU`. -/
def execSltu (d a b : BitVec 5) (s' : State) : Host.Outcome State Fault Refusal :=
  runLone (.sltu d a b) (semSltu d a b) s'

/-- R94: Count leading zero bits. -/
def semClz (d a : BitVec 5) (e : Env) : Issue :=
  e.putG d (BitVec.ofNat 64 (leadingZeros (e.g a).toNat 64))

/-- The step `CLZ`. -/
def execClz (d a : BitVec 5) (s' : State) : Host.Outcome State Fault Refusal :=
  runLone (.clz d a) (semClz d a) s'

/-- R94: Count trailing zero bits. -/
def semCtz (d a : BitVec 5) (e : Env) : Issue :=
  e.putG d (BitVec.ofNat 64 (lowestOne (e.g a).toNat 0 64))

/-- The step `CTZ`. -/
def execCtz (d a : BitVec 5) (s' : State) : Host.Outcome State Fault Refusal :=
  runLone (.ctz d a) (semCtz d a) s'

/-- R94: Count one bits. -/
def semPopc (d a : BitVec 5) (e : Env) : Issue :=
  e.putG d (BitVec.ofNat 64 (countOnes (e.g a).toNat 64))

/-- The step `POPC`. -/
def execPopc (d a : BitVec 5) (s' : State) : Host.Outcome State Fault Refusal :=
  runLone (.popc d a) (semPopc d a) s'

/-- R94: Reverse the bytes of a register. -/
def semRevB (d a : BitVec 5) (e : Env) : Issue :=
  e.putG d (reverseBytes (e.g a))

/-- The step `REV_B`. -/
def execRevB (d a : BitVec 5) (s' : State) : Host.Outcome State Fault Refusal :=
  runLone (.revB d a) (semRevB d a) s'

/-- R94: Reverse the bits of a register. -/
def semRevBit (d a : BitVec 5) (e : Env) : Issue :=
  e.putG d (BitVec.ofNat 64 (reverseBits (e.g a).toNat 64))

/-- The step `REV_BIT`. -/
def execRevBit (d a : BitVec 5) (s' : State) : Host.Outcome State Fault Refusal :=
  runLone (.revBit d a) (semRevBit d a) s'

/-- R96: Extract a bit field, zero-extended. -/
def semExt (d a : BitVec 5) (u n : BitVec 6) (e : Env) : Issue :=
  e.putG d (extractField (e.g a) u.toNat (n.toNat + 1))

/-- The step `EXT`. -/
def execExt (d a : BitVec 5) (u n : BitVec 6) (s' : State) : Host.Outcome State Fault Refusal :=
  runLone (.ext d a u n) (semExt d a u n) s'

/-- R96: Insert a bit field into the destination. -/
def semIns (d a : BitVec 5) (u n : BitVec 6) (e : Env) : Issue :=
  e.putG d (insertField (e.g d) (e.g a) u.toNat (n.toNat + 1))

/-- The step `INS`. -/
def execIns (d a : BitVec 5) (u n : BitVec 6) (s' : State) : Host.Outcome State Fault Refusal :=
  runLone (.ins d a u n) (semIns d a u n) s'

/-- R97: Select one of two registers by a third. -/
def semSel (d a b c : BitVec 5) (e : Env) : Issue :=
  e.putG d (if e.g c ≠ 0 then e.g a else e.g b)

/-- The step `SEL`. -/
def execSel (d a b c : BitVec 5) (s' : State) : Host.Outcome State Fault Refusal :=
  runLone (.sel d a b c) (semSel d a b c) s'

/-- R98: Add a signed immediate. -/
def semAddi (d a : BitVec 5) (i : BitVec 12) (e : Env) : Issue :=
  e.putG d (e.g a + immS i)

/-- The step `ADDI`. -/
def execAddi (d a : BitVec 5) (i : BitVec 12) (s' : State) : Host.Outcome State Fault Refusal :=
  runLone (.addi d a i) (semAddi d a i) s'

/-- R98: AND with a signed immediate. -/
def semAndi (d a : BitVec 5) (i : BitVec 12) (e : Env) : Issue :=
  e.putG d (e.g a &&& immS i)

/-- The step `ANDI`. -/
def execAndi (d a : BitVec 5) (i : BitVec 12) (s' : State) : Host.Outcome State Fault Refusal :=
  runLone (.andi d a i) (semAndi d a i) s'

/-- R98: OR with an unsigned immediate. -/
def semOri (d a : BitVec 5) (i : BitVec 12) (e : Env) : Issue :=
  e.putG d (e.g a ||| immZ i)

/-- The step `ORI`. -/
def execOri (d a : BitVec 5) (i : BitVec 12) (s' : State) : Host.Outcome State Fault Refusal :=
  runLone (.ori d a i) (semOri d a i) s'

/-- R98: XOR with an unsigned immediate. -/
def semXori (d a : BitVec 5) (i : BitVec 12) (e : Env) : Issue :=
  e.putG d (e.g a ^^^ immZ i)

/-- The step `XORI`. -/
def execXori (d a : BitVec 5) (i : BitVec 12) (s' : State) : Host.Outcome State Fault Refusal :=
  runLone (.xori d a i) (semXori d a i) s'

/-- R98: Shift left by an immediate. -/
def semShli (d a : BitVec 5) (n : BitVec 6) (e : Env) : Issue :=
  e.putG d (e.g a <<< n.toNat)

/-- The step `SHLI`. -/
def execShli (d a : BitVec 5) (n : BitVec 6) (s' : State) : Host.Outcome State Fault Refusal :=
  runLone (.shli d a n) (semShli d a n) s'

/-- R98: Logical shift right by an immediate. -/
def semShri (d a : BitVec 5) (n : BitVec 6) (e : Env) : Issue :=
  e.putG d (e.g a >>> n.toNat)

/-- The step `SHRI`. -/
def execShri (d a : BitVec 5) (n : BitVec 6) (s' : State) : Host.Outcome State Fault Refusal :=
  runLone (.shri d a n) (semShri d a n) s'

/-- R98: Arithmetic shift right by an immediate. -/
def semSrai (d a : BitVec 5) (n : BitVec 6) (e : Env) : Issue :=
  e.putG d ((e.g a).sshiftRight n.toNat)

/-- The step `SRAI`. -/
def execSrai (d a : BitVec 5) (n : BitVec 6) (s' : State) : Host.Outcome State Fault Refusal :=
  runLone (.srai d a n) (semSrai d a n) s'

/-- R98: Set if less than an immediate, signed. -/
def semSlti (d a : BitVec 5) (i : BitVec 12) (e : Env) : Issue :=
  e.putG d (bit01 ((e.g a).slt (immS i)))

/-- The step `SLTI`. -/
def execSlti (d a : BitVec 5) (i : BitVec 12) (s' : State) : Host.Outcome State Fault Refusal :=
  runLone (.slti d a i) (semSlti d a i) s'

/-- R98: Set if less than an immediate, unsigned. -/
def semSltiu (d a : BitVec 5) (i : BitVec 12) (e : Env) : Issue :=
  e.putG d (bit01 ((e.g a).ult (immS i)))

/-- The step `SLTIU`. -/
def execSltiu (d a : BitVec 5) (i : BitVec 12) (s' : State) : Host.Outcome State Fault Refusal :=
  runLone (.sltiu d a i) (semSltiu d a i) s'

/-- R99: Load a sign-extended 17-bit constant. -/
def semKon (d : BitVec 5) (i : BitVec 17) (e : Env) : Issue :=
  e.putG d (immS i)

/-- The step `KON`. -/
def execKon (d : BitVec 5) (i : BitVec 17) (s' : State) : Host.Outcome State Fault Refusal :=
  runLone (.kon d i) (semKon d i) s'

/-- R99: Shift left by 17 and OR in a 17-bit constant. -/
def semKonh (d : BitVec 5) (i : BitVec 17) (e : Env) : Issue :=
  e.putG d ((e.g d <<< 17) ||| immZ i)

/-- The step `KONH`. -/
def execKonh (d : BitVec 5) (i : BitVec 17) (s' : State) : Host.Outcome State Fault Refusal :=
  runLone (.konh d i) (semKonh d i) s'

end Sys2Proof.Machine
end

