-- ==== Sys2Proof/Machine/Special.lean ====
section
/-!
DEFINITION. The special functions of 05 R142, correctly rounded.

Where the exact value is rational (the cases R142 and its exactness rule name) it is given
exactly. Everywhere else the value is irrational; it is computed in fixed point to some 450 bits
below the last bit that any rounding of an operand of these formats looks at, and its last bit is
set, so that no rounding takes it for exact (log 12). Fixed-point numbers carry p bits below the
point.
-/

namespace Sys2Proof.Machine

/-- The terms of the series of atanh (`alt = false`) or atan, from the term z^(2k+1) = pow on. -/
def atanTerms (alt : Bool) (p z2 : Nat) : Nat → Nat → Nat → Int → Int
  | 0, _, _, acc => acc
  | n + 1, k, pow, acc =>
    if pow = 0 then acc
    else
      let t : Int := ((pow / (2 * k + 1) : Nat) : Int)
      atanTerms alt p z2 n (k + 1) (pow * z2 / 2 ^ p)
        (if alt ∧ k % 2 = 1 then acc - t else acc + t)

/-- atanh of a fixed-point z of at most 1/3. -/
def atanhFix (p z : Nat) : Nat := (atanTerms false p (z * z / 2 ^ p) p 0 z 0).toNat

/-- atan of 1 / n. -/
def atanInv (p n : Nat) : Nat :=
  (atanTerms true p (2 ^ p / (n * n)) p 0 (2 ^ p / n) 0).toNat

/-- The natural logarithm of 2. -/
def ln2Fix (p : Nat) : Nat := 2 * atanhFix p (2 ^ p / 3)

/-- The number π. -/
def piFix (p : Nat) : Nat := 16 * atanInv p 5 - 4 * atanInv p 239

/-- The terms of the series of the exponential function from t = x^k / k! on; k counts up. -/
def expTerms (p x : Nat) : Nat → Nat → Nat → Nat → Nat
  | 0, _, _, acc => acc
  | n + 1, k, t, acc =>
    if t = 0 then acc else expTerms p x n (k + 1) (t * x / 2 ^ p / (k + 1)) (acc + t)

/-- The exponential of a fixed-point x below 1. -/
def expFix (p x : Nat) : Nat := expTerms p x p 0 (2 ^ p) 0

/-- The terms of the series of sine and cosine from t = x^k / k! on, with alternating signs. -/
def sinTerms (p x2 : Nat) : Nat → Nat → Bool → Nat → Int → Int
  | 0, _, _, _, acc => acc
  | n + 1, k, neg, t, acc =>
    if t = 0 then acc
    else sinTerms p x2 n (k + 2) (! neg) (t * x2 / 2 ^ p / ((k + 1) * (k + 2)))
      (if neg then acc - (t : Int) else acc + (t : Int))

/-- The sine of a fixed-point x of at most 1. -/
def sinFix (p x : Nat) : Nat := (sinTerms p (x * x / 2 ^ p) p 1 false x 0).toNat

/-- The cosine of a fixed-point x of at most 1. -/
def cosFix (p x : Nat) : Nat := (sinTerms p (x * x / 2 ^ p) p 0 false (2 ^ p) 0).toNat

/-- An irrational value from its fixed-point approximation: the 64 guard bits are dropped and the
last bit is set. -/
def irrational (neg : Bool) (p v : Nat) : Num :=
  .fin neg (2 * (v / 2 ^ 64) + 1) (- ((p : Int) - 64) - 1)

/-- 2^a. Of a value beyond every format only stochastic rounding looks at the bits below the first:
in the other modes any value as great stands for it. -/
def exp2Num (mode : Nat) (a : Num) : Num × Nat :=
  match a with
  | .nan s => (.nan false, flagIf s flagNV)
  | .inf neg => (if neg then .fin false 0 0 else .inf false, 0)
  | .fin neg mag exp =>
    if mag = 0 then (.fin false 1 0, 0)
    else if 14 ≤ (Nat.log2 mag : Int) + exp ∧ neg then (.fin false 3 (-16384), 0)
    else if 14 ≤ (Nat.log2 mag : Int) + exp ∧ (mode ≠ modeSR ∨ 0 ≤ exp ∨ mag % 2 ^ (- exp).toNat = 0) then
      (.fin false 1 16384, 0)
    else
      let n := (- exp).toNat
      let v := mag * 2 ^ exp.toNat
      if v % 2 ^ n = 0 then
        (.fin false 1 ((if neg then -1 else 1) * ((v / 2 ^ n : Nat) : Int)), 0)
      else
        let whole : Int := if neg then - ((v / 2 ^ n : Nat) : Int) - 1 else ((v / 2 ^ n : Nat) : Int)
        let frac := if neg then 2 ^ n - v % 2 ^ n else v % 2 ^ n
        let p := 576 + n + whole.toNat
        let x := frac * 2 ^ (p - n) * ln2Fix p / 2 ^ p
        match irrational false p (expFix p x) with
        | .fin s m e => (.fin s m (e + whole), 0)
        | y => (y, 0)

/-- log₂ a. -/
def log2Num (a : Num) : Num × Nat :=
  match a with
  | .nan s => (.nan false, flagIf s flagNV)
  | .inf neg => if neg then (.nan false, flagNV) else (.inf false, 0)
  | .fin neg mag exp =>
    if mag = 0 then (.inf true, flagDZ)
    else if neg then (.nan false, flagNV)
    else
      let l := Nat.log2 mag
      let e : Int := (l : Int) + exp
      if mag = 2 ^ l then (ofInt e, 0)
      else
        let p := 640
        let z := (mag - 2 ^ l) * 2 ^ p / (mag + 2 ^ l)
        let f := 2 * atanhFix p z * 2 ^ p / ln2Fix p
        let v : Int := e * ((2 ^ p : Nat) : Int) + (f : Int)
        (irrational (decide (v < 0)) p v.natAbs, 0)

/-- sin(π·x) for a half-turn count x = A / 2^n modulo 2, n at least 1; the exact cases are 0 and
±1. -/
def sinPi (n A : Nat) : Num :=
  let neg := decide (2 ^ n ≤ A)
  let r := A % 2 ^ n
  let r := if 2 ^ (n - 1) < r then 2 ^ n - r else r
  if r = 0 then .fin false 0 0
  else if r = 2 ^ (n - 1) then .fin neg 1 0
  else
    let p := 576 + 2 * n
    if 4 * r ≤ 2 ^ n then irrational neg p (sinFix p (r * 2 ^ (p - n) * piFix p / 2 ^ p))
    else irrational neg p (cosFix p ((2 ^ (n - 1) - r) * 2 ^ (p - n) * piFix p / 2 ^ p))

/-- sin(π·a). -/
def sinNum (a : Num) : Num × Nat :=
  match a with
  | .nan s => (.nan false, flagIf s flagNV)
  | .inf _ => (.nan false, flagNV)
  | .fin neg mag exp =>
    if mag = 0 then (.fin neg 0 0, 0)
    else if 0 ≤ exp then (.fin false 0 0, 0)
    else
      let n := (- exp).toNat
      let x := sinPi n (mag % 2 ^ (n + 1))
      (if neg ∧ ! x.isZero then x.negate else x, 0)

/-- cos(π·a). -/
def cosNum (a : Num) : Num × Nat :=
  match a with
  | .nan s => (.nan false, flagIf s flagNV)
  | .inf _ => (.nan false, flagNV)
  | .fin _ mag exp =>
    if mag = 0 then (.fin false 1 0, 0)
    else if 0 < exp then (.fin false 1 0, 0)
    else if exp = 0 then (.fin (decide (mag % 2 = 1)) 1 0, 0)
    else
      let n := (- exp).toNat
      (sinPi n ((mag + 2 ^ (n - 1)) % 2 ^ (n + 1)), 0)

end Sys2Proof.Machine
end

