-- ==== Sys2Proof/Machine/Vector.lean ====
section
/-!
DEFINITION. Vector, mask and conversion instructions (05 R135-R154).
-/

namespace Sys2Proof.Machine

/-! ### Elements and types (05 R135, 02 R54) -/

/-- The width in bytes of the elements of type T. -/
def typeWidth (t : BitVec 3) : Nat :=
  match t.toNat with
  | 0 => 1
  | 1 | 4 | 5 => 2
  | 2 | 6 => 4
  | _ => 8

/-- The format of a float type. -/
def typeFmt (t : BitVec 3) : Fmt :=
  match t.toNat with
  | 4 => fmt16
  | 5 => fmtBf
  | 6 => fmt32
  | _ => fmt64

/-- Whether T is a float type. -/
def floatT (t : BitVec 3) : Bool := decide (4 ≤ t.toNat)

/-- The elements of w bytes of a 128-bit value, element 0 first. -/
def lanes (w : Nat) (v : Vec) : List Nat :=
  (List.range (16 / w)).map fun k => v.toNat / 2 ^ (8 * w * k) % 2 ^ (8 * w)

/-- The number that elements of w bytes make. -/
def packNat (w : Nat) : List Nat → Nat
  | [] => 0
  | x :: r => x % 2 ^ (8 * w) + 2 ^ (8 * w) * packNat w r

/-- The 128-bit value of elements of w bytes. -/
def pack (w : Nat) (l : List Nat) : Vec := BitVec.ofNat 128 (packNat w l)

/-- An element as an integer, signed or unsigned. -/
def laneInt (isSigned : Bool) (w x : Nat) : Int :=
  if isSigned then signedN x (8 * w) else (x : Int)

/-- The low bits of an integer. -/
def wrapInt (bits : Nat) (x : Int) : Nat := (x % 2 ^ bits).toNat

/-- An integer clamped to the range of a type (03 R72). -/
def clampInt (isSigned : Bool) (bits : Nat) (x : Int) : Int :=
  if isSigned then max (- 2 ^ (bits - 1)) (min x (2 ^ (bits - 1) - 1))
  else max 0 (min x (2 ^ bits - 1))

/-- An exact integer result delivered into w bytes: saturated when S = 1, else wrapped. -/
def intResult (sat isSigned : Bool) (w : Nat) (x : Int) : Nat :=
  wrapInt (8 * w) (if sat then clampInt isSigned (8 * w) x else x)

/-! ### Rounding modes and results -/

/-- The rounding mode of fn (02 R55); none traps 0x02. -/
def Env.mode (e : Env) (r : BitVec 3) : Option Nat :=
  if r = 7 then
    let m := rmMode e.s e.c e.b
    if m < 6 then some m else none
  else some r.toNat

/-- The trap of an issue-time check (02 R55, 12 R327). -/
def Env.issueTrap (e : Env) : Issue := .trap 0x02 (BitVec.ofNat 64 e.word.toNat) 2

/-- The draws of n elements under a mode, and the generator after them (03 R82). -/
def Env.draws (e : Env) (mode n : Nat) : List Nat × Option (BitVec 32) :=
  if mode = modeSR then
    let (l, g) := srgDraws (srgOf e.s e.c e.b) n
    (l, some g)
  else (List.replicate n 0, none)

/-- Float results delivered into elements of a format, and written to a vector destination
(05 R137). -/
def Env.floatResult (e : Env) (d : Reg) (f : Fmt) (r : BitVec 3)
    (xs : Nat → List (Num × Nat)) : Issue :=
  match e.mode r with
  | none => e.issueTrap
  | some mode =>
    let l := xs mode
    let (dr, g) := e.draws mode l.length
    let out := l.zipWith (fun x k => f.deliver mode k x) dr
    (e.withFlags (out.map Prod.snd) g []).both
      (e.putV d (pack (f.width / 8) (out.map Prod.fst)))

/-- An integer or float operation on the elements of two registers and the old destination. -/
def Env.arith (e : Env) (d : Reg) (s : BitVec 1) (r t : BitVec 3) (va vb vd : Vec)
    (fi : Int → Int → Int → Int) (ff : Nat → Num → Num → Num → Num × Nat) : Issue :=
  let w := typeWidth t
  let la := lanes w va
  let lb := lanes w vb
  let ld := lanes w vd
  if floatT t then
    let f := typeFmt t
    e.floatResult d f r fun mode =>
      (la.zip (lb.zip ld)).map fun x =>
        ff mode (f.decode x.1) (f.decode x.2.1) (f.decode x.2.2)
  else
    let sg := ! r.getLsbD 0
    let i := laneInt sg w
    e.putV d (pack w ((la.zip (lb.zip ld)).map fun x =>
      intResult (s == 1) sg w (fi (i x.1) (i x.2.1) (i x.2.2))))

/-- An operation on the elements of one register that neither rounds nor raises a flag. -/
def Env.mapLanes (e : Env) (d : Reg) (w : Nat) (v : Vec) (f : Nat → Nat) : Issue :=
  e.putV d (pack w ((lanes w v).map f))

/-- An operation on pairs of elements that neither rounds nor raises a flag. -/
def Env.zipLanes (e : Env) (d : Reg) (w : Nat) (va vb : Vec) (f : Nat → Nat → Nat) : Issue :=
  e.putV d (pack w ((lanes w va).zipWith f (lanes w vb)))

/-- A float operation on the elements of one register. -/
def Env.floatMap (e : Env) (d : Reg) (r t : BitVec 3) (v : Vec) (ff : Num → Num × Nat) : Issue :=
  let f := typeFmt t
  e.floatResult d f r fun _ => (lanes (typeWidth t) v).map fun x => ff (f.decode x)

/-- Element minimum or maximum (03 R88). -/
def Env.choose (e : Env) (d : Reg) (r t : BitVec 3) (va vb : Vec) (wantMax numbers : Bool) :
    Issue :=
  let w := typeWidth t
  let la := lanes w va
  let lb := lanes w vb
  if floatT t then
    let out := la.zipWith (chooseFloat (typeFmt t) wantMax numbers) lb
    (e.withFlags (out.map Prod.snd) none []).both (e.putV d (pack w (out.map Prod.fst)))
  else
    let i := laneInt (! r.getLsbD 0) w
    e.putV d (pack w (la.zipWith (fun x y =>
      if (if wantMax then i x < i y else i y < i x) then y else x) lb))

/-- The magnitude of an element (05 R139, R140). -/
def absLane (t : BitVec 3) (sat uns : Bool) (x : Nat) : Nat :=
  let w := typeWidth t
  if floatT t then x % 2 ^ (8 * w - 1)
  else if uns then x
  else intResult sat true w ((laneInt true w x).natAbs)

/-- The negation of an element (05 R139, R140). -/
def negLane (t : BitVec 3) (sat uns : Bool) (x : Nat) : Nat :=
  let w := typeWidth t
  if floatT t then (x + 2 ^ (8 * w - 1)) % 2 ^ (8 * w)
  else intResult sat (! uns) w (- laneInt (! uns) w x)

/-! ### Comparison and classification -/

/-- Whether elements compare as CC asks, with the flags of a float compare (05 R144). -/
def compareLane (c : BitVec 3) (uns : Bool) (t : BitVec 3) (x y : Nat) : Bool × Nat :=
  if floatT t then
    let a := (typeFmt t).decode x
    let b := (typeFmt t).decode y
    let sig := a.signals || b.signals
    if a.isNan || b.isNan then
      (c == 1 || c == 6, flagIf (sig || decide (2 ≤ c.toNat ∧ c.toNat < 6)) flagNV)
    else
      (match c.toNat with
        | 0 => eqNum a b
        | 1 => ! eqNum a b
        | 2 => ltNum a b
        | 3 => ! ltNum b a
        | 4 => ltNum b a
        | 5 => ! ltNum a b
        | _ => false, 0)
  else
    let w := typeWidth t
    let a := laneInt (! uns) w x
    let b := laneInt (! uns) w y
    (match c.toNat with
      | 0 => decide (a = b)
      | 1 => decide (a ≠ b)
      | 2 => decide (a < b)
      | 3 => decide (a ≤ b)
      | 4 => decide (b < a)
      | _ => decide (b ≤ a), 0)

/-- A mask whose bits for the byte lanes of each element hold the element's truth. -/
def laneMask (w : Nat) : List Bool → Nat
  | [] => 0
  | x :: r => (if x then 2 ^ w - 1 else 0) + 2 ^ w * laneMask w r

/-- The class bit of a float element (05 R143). -/
def classOf (f : Fmt) (x : Nat) : Nat :=
  match f.decode x with
  | .nan s => if s then 2 ^ 8 else 2 ^ 9
  | .inf neg => if neg then 2 ^ 0 else 2 ^ 7
  | .fin neg mag _ =>
    if mag = 0 then (if neg then 2 ^ 3 else 2 ^ 4)
    else if mag < 2 ^ f.m then (if neg then 2 ^ 2 else 2 ^ 5)
    else if neg then 2 ^ 1 else 2 ^ 6

/-! ### Bytes -/

/-- Byte b of a 128-bit value. -/
def byteOf (v : Vec) (b : Nat) : Nat := v.toNat / 2 ^ (8 * b) % 256

/-- A 128-bit value from a function of its byte lanes. -/
def ofLanes (f : Nat → Nat) : Vec := pack 1 ((List.range 16).map f)

/-! ### Reductions (05 R149) -/

/-- The answers of one level of pairwise combination, the state of the draws threaded through in
ascending order. -/
def combineLevel {σ : Type} (f : σ → Nat → Nat → Nat × σ) : σ → List Nat → List Nat × σ
  | st, x :: y :: r =>
    let (v, st) := f st x y
    let (l, st) := combineLevel f st r
    (v :: l, st)
  | st, l => (l, st)

/-- Levels of pairwise combination: at most n of them. -/
def combineAll {σ : Type} (f : σ → Nat → Nat → Nat × σ) : Nat → σ → List Nat → Nat × σ
  | 0, st, l => (l.headD 0, st)
  | n + 1, st, l =>
    match l with
    | [x] => (x, st)
    | _ =>
      let (l, st) := combineLevel f st l
      combineAll f n st l

/-- A reduced element extended into a g register. -/
def extendLane (isSigned : Bool) (w x : Nat) : Word :=
  if isSigned then sextLow (BitVec.ofNat 64 x) (8 * w) else BitVec.ofNat 64 x

/-- `vred` on float elements: the value, the flags, and the draws left. -/
def Env.reduceFloat (e : Env) (f : Fmt) (op mode : Nat) (l : List Nat) : Nat × Nat × BitVec 32 :=
  let step (st : Nat × BitVec 32) (x y : Nat) : Nat × (Nat × BitVec 32) :=
    if op = 0 then
      let (k, g) := if mode = modeSR then srgDraw st.2 else (0, st.2)
      let z := f.deliver mode k (sumNums mode [f.decode x, f.decode y])
      (z.1, (orFlags st.1 z.2, g))
    else
      let z := chooseFloat f (op == 2) false x y
      (z.1, (orFlags st.1 z.2, st.2))
  combineAll step 4 (0, srgOf e.s e.c e.b) l

/-- `vred` on integer elements. -/
def reduceInt (op : Nat) (sat isSigned : Bool) (w : Nat) (l : List Nat) : Nat :=
  let i := laneInt isSigned w
  let fold (f : Nat → Nat → Nat) : Nat := (l.drop 1).foldl f (l.headD 0)
  match op with
  | 0 => intResult sat isSigned w ((l.map i).foldl (· + ·) 0)
  | 1 => fold fun x y => if i y < i x then y else x
  | 2 => fold fun x y => if i x < i y then y else x
  | 3 => fold Nat.land
  | _ => fold Nat.lor

/-! ### Dot products (05 R150, R151) -/

/-- n elements from element i on. -/
def slice (l : List Nat) (i n : Nat) : List Nat := (l.drop i).take n

/-- The integer sum of products of lane k, four elements a lane. -/
def dotInt (isSigned : Bool) (w : Nat) (la lb : List Nat) (k : Nat) : Int :=
  (((slice la (4 * k) 4).zip (slice lb (4 * k) 4)).map fun x =>
    laneInt isSigned w x.1 * laneInt isSigned w x.2).foldl (· + ·) 0

/-- The float sum of lane k: the two products and the old lane, before the one rounding. An
invalid product beside a quiet NaN is left open by IEEE 754 (03 R85; log 9). -/
def dotFloat (f : Fmt) (mode : Nat) (la lb ld : List Nat) (k : Nat) : Num × Nat :=
  let ps := ((slice la (2 * k) 2).zip (slice lb (2 * k) 2)).map fun x =>
    (mulNum (f.decode x.1) (f.decode x.2), (f.decode x.1).isNan || (f.decode x.2).isNan)
  let old := fmt32.decode (ld.getD k 0)
  let sum := sumNums mode (ps.map (fun p => p.1.1) ++ [old])
  let hurt := ps.any fun p => ! p.2 && p.1.1.isNan
  let quiet := old.isNan || ps.any fun p => p.2
  let sig := orFlags (allFlags ((ps.filter fun p => p.2).map fun p => p.1.2)) (flagIf old.signals flagNV)
  let inv := if hurt then flagIf (! quiet || Config.dotInvalid) flagNV else 0
  (sum.1, orFlags (orFlags sig inv) sum.2)

/-! ### Conversions (05 R152-R154) -/

/-- The element format of a code of R152, or the invalid NF register's contents and number. -/
def codeElem (x : CoreSt) (code : Nat) : Except (Word × Nat) Elem :=
  if 0x10 ≤ code then
    match nfFormat (x.nfReg (code - 0x10)) with
    | some f => .ok (floatElem f)
    | none => .error (x.nfReg (code - 0x10), code - 0x10)
  else if 8 ≤ code then .ok (intElem false (8 * 2 ^ (code - 8)))
  else if code < 4 then .ok (intElem true (8 * 2 ^ code))
  else .ok (floatElem (typeFmt (BitVec.ofNat 3 code)))

/-- The bytes of an element of R152 in a register: narrow formats travel in byte containers. -/
def Elem.regBytes (x : Elem) : Nat := max 1 (x.cont / 8)

/-- The trap of an invalid NF register (03 R74). -/
def nfTrap (x : Word × Nat) : Issue := .trap 0x73 x.1 (BitVec.ofNat 32 x.2)

/-- The rounding mode that `vcvt` names (05 R153); none traps 0x02. -/
def Env.cvtMode (e : Env) (r : BitVec 2) : Option Nat :=
  match r.toNat with
  | 0 => some modeRNE
  | 1 => some modeRTZ
  | 2 => some modeSR
  | _ => e.mode 7

/-- `vcvt` (05 R153). -/
def Env.convert (e : Env) (d : Reg) (v : Vec) (src dst : Nat) (r : BitVec 2) : Issue :=
  match codeElem e.core src, codeElem e.core dst with
  | .error x, _ => nfTrap x
  | _, .error x => nfTrap x
  | .ok es, .ok ed =>
    match e.cvtMode r with
    | none => e.issueTrap
    | some mode =>
      let ws := es.regBytes
      let wd := ed.regBytes
      let c := 16 / max ws wd
      let xs := (lanes ws v).take c
      let (dr, g) := e.draws mode c
      let out := xs.zipWith (fun x k => ed.convert mode k (es.decode x)) dr
      (e.withFlags (out.map Prod.snd) g []).both (e.putV d (pack wd (out.map Prod.fst)))

/-- The sub-byte format of a code of R154, with the checks at issue. -/
def Env.subElem (e : Env) (code part : Nat) : Except Issue Elem :=
  if 0x10 ≤ code then
    match codeElem e.core code with
    | .error x => .error (nfTrap x)
    | .ok f => if f.sub ∧ part < 8 / f.cont then .ok f else .error e.issueTrap
  else .ok (intElem (code == 0 || code == 2) (if code < 2 then 4 else if code < 4 then 2 else 1))

/-- A sub-byte element in its byte container: sign-extended for the signed integers. -/
def unpackLane (f : Elem) (part x : Nat) : Nat :=
  let v := x / 2 ^ (f.cont * part) % 2 ^ f.bits
  match f.kind with
  | .int true => wrapInt 8 (signedN v f.bits)
  | _ => v

/-- A byte container as the element's bits, clamped when S = 1. -/
def packLane (f : Elem) (sat : Bool) (x : Nat) : Nat :=
  match f.kind with
  | .int sg =>
    if sat then wrapInt f.bits (clampInt sg f.bits (laneInt sg 1 x)) else x % 2 ^ f.bits
  | _ => x % 2 ^ f.bits

/-- R138: Element-wise add. -/
def semVadd (d a b : BitVec 5) (s : BitVec 1) (r t : BitVec 3) (e : Env) : Issue :=
  e.arith d s r t (e.v a) (e.v b) 0 (fun x y _ => x + y) (fun m x y _ => sumNums m [x, y])

/-- The step `VADD`. -/
def execVadd (d a b : BitVec 5) (s : BitVec 1) (r t : BitVec 3) (s' : State) : Host.Outcome State Fault Refusal :=
  runLone (.vadd d a b s r t) (semVadd d a b s r t) s'

/-- R138: Element-wise subtract. -/
def semVsub (d a b : BitVec 5) (s : BitVec 1) (r t : BitVec 3) (e : Env) : Issue :=
  e.arith d s r t (e.v a) (e.v b) 0 (fun x y _ => x - y)
    (fun m x y _ => sumNums m [x, y.negate])

/-- The step `VSUB`. -/
def execVsub (d a b : BitVec 5) (s : BitVec 1) (r t : BitVec 3) (s' : State) : Host.Outcome State Fault Refusal :=
  runLone (.vsub d a b s r t) (semVsub d a b s r t) s'

/-- R138: Element-wise multiply. -/
def semVmul (d a b : BitVec 5) (s : BitVec 1) (r t : BitVec 3) (e : Env) : Issue :=
  e.arith d s r t (e.v a) (e.v b) 0 (fun x y _ => x * y) (fun _ x y _ => mulNum x y)

/-- The step `VMUL`. -/
def execVmul (d a b : BitVec 5) (s : BitVec 1) (r t : BitVec 3) (s' : State) : Host.Outcome State Fault Refusal :=
  runLone (.vmul d a b s r t) (semVmul d a b s r t) s'

/-- R138: High half of element-wise integer products. -/
def semVmulh (d a b : BitVec 5) (_s : BitVec 1) (r t : BitVec 3) (e : Env) : Issue :=
  let w := typeWidth t
  let i := laneInt (! r.getLsbD 0) w
  e.zipLanes d w (e.v a) (e.v b) fun x y => wrapInt (8 * w) (i x * i y / 2 ^ (8 * w))

/-- The step `VMULH`. -/
def execVmulh (d a b : BitVec 5) (s : BitVec 1) (r t : BitVec 3) (s' : State) : Host.Outcome State Fault Refusal :=
  runLone (.vmulh d a b s r t) (semVmulh d a b s r t) s'

/-- R140: Fused multiply-add with one rounding. -/
def semVfma (d a b : BitVec 5) (s : BitVec 1) (r t : BitVec 3) (e : Env) : Issue :=
  e.arith d s r t (e.v a) (e.v b) (e.v d) (fun x y z => x * y + z) fmaNum

/-- The step `VFMA`. -/
def execVfma (d a b : BitVec 5) (s : BitVec 1) (r t : BitVec 3) (s' : State) : Host.Outcome State Fault Refusal :=
  runLone (.vfma d a b s r t) (semVfma d a b s r t) s'

/-- R140: Fused multiply-subtract with one rounding. -/
def semVfms (d a b : BitVec 5) (s : BitVec 1) (r t : BitVec 3) (e : Env) : Issue :=
  e.arith d s r t (e.v a) (e.v b) (e.v d) (fun x y z => x * y - z)
    (fun m x y z => fmaNum m x y z.negate)

/-- The step `VFMS`. -/
def execVfms (d a b : BitVec 5) (s : BitVec 1) (r t : BitVec 3) (s' : State) : Host.Outcome State Fault Refusal :=
  runLone (.vfms d a b s r t) (semVfms d a b s r t) s'

/-- R140: Fused negated multiply-add with one rounding. -/
def semVfnma (d a b : BitVec 5) (s : BitVec 1) (r t : BitVec 3) (e : Env) : Issue :=
  e.arith d s r t (e.v a) (e.v b) (e.v d) (fun x y z => z - x * y)
    (fun m x y z => fmaNum m x.negate y z)

/-- The step `VFNMA`. -/
def execVfnma (d a b : BitVec 5) (s : BitVec 1) (r t : BitVec 3) (s' : State) : Host.Outcome State Fault Refusal :=
  runLone (.vfnma d a b s r t) (semVfnma d a b s r t) s'

/-- R140: Element-wise floating-point division. -/
def semVdiv (d a b : BitVec 5) (s : BitVec 1) (r t : BitVec 3) (e : Env) : Issue :=
  e.arith d s r t (e.v a) (e.v b) 0 (fun x _ _ => x) (fun _ x y _ => divNum x y)

/-- The step `VDIV`. -/
def execVdiv (d a b : BitVec 5) (s : BitVec 1) (r t : BitVec 3) (s' : State) : Host.Outcome State Fault Refusal :=
  runLone (.vdiv d a b s r t) (semVdiv d a b s r t) s'

/-- R140: Element-wise floating-point square root. -/
def semVsqrt (d a : BitVec 5) (_s : BitVec 1) (r t : BitVec 3) (e : Env) : Issue :=
  e.floatMap d r t (e.v a) sqrtNum

/-- The step `VSQRT`. -/
def execVsqrt (d a : BitVec 5) (s : BitVec 1) (r t : BitVec 3) (s' : State) : Host.Outcome State Fault Refusal :=
  runLone (.vsqrt d a s r t) (semVsqrt d a s r t) s'

/-- R142: Correctly rounded reciprocal. -/
def semVrcp (d a : BitVec 5) (_s : BitVec 1) (r t : BitVec 3) (e : Env) : Issue :=
  e.floatMap d r t (e.v a) rcpNum

/-- The step `VRCP`. -/
def execVrcp (d a : BitVec 5) (s : BitVec 1) (r t : BitVec 3) (s' : State) : Host.Outcome State Fault Refusal :=
  runLone (.vrcp d a s r t) (semVrcp d a s r t) s'

/-- R142: Correctly rounded reciprocal square root. -/
def semVrsq (d a : BitVec 5) (_s : BitVec 1) (r t : BitVec 3) (e : Env) : Issue :=
  e.floatMap d r t (e.v a) rsqNum

/-- The step `VRSQ`. -/
def execVrsq (d a : BitVec 5) (s : BitVec 1) (r t : BitVec 3) (s' : State) : Host.Outcome State Fault Refusal :=
  runLone (.vrsq d a s r t) (semVrsq d a s r t) s'

/-- R142: Correctly rounded 2 to the power a. -/
def semVexp2 (d a : BitVec 5) (_s : BitVec 1) (r t : BitVec 3) (e : Env) : Issue :=
  let f := typeFmt t
  e.floatResult d f r fun m => (lanes (typeWidth t) (e.v a)).map fun x => exp2Num m (f.decode x)

/-- The step `VEXP2`. -/
def execVexp2 (d a : BitVec 5) (s : BitVec 1) (r t : BitVec 3) (s' : State) : Host.Outcome State Fault Refusal :=
  runLone (.vexp2 d a s r t) (semVexp2 d a s r t) s'

/-- R142: Correctly rounded base-2 logarithm. -/
def semVlog2 (d a : BitVec 5) (_s : BitVec 1) (r t : BitVec 3) (e : Env) : Issue :=
  e.floatMap d r t (e.v a) log2Num

/-- The step `VLOG2`. -/
def execVlog2 (d a : BitVec 5) (s : BitVec 1) (r t : BitVec 3) (s' : State) : Host.Outcome State Fault Refusal :=
  runLone (.vlog2 d a s r t) (semVlog2 d a s r t) s'

/-- R142: Correctly rounded sine of a half-turn argument. -/
def semVsin (d a : BitVec 5) (_s : BitVec 1) (r t : BitVec 3) (e : Env) : Issue :=
  e.floatMap d r t (e.v a) sinNum

/-- The step `VSIN`. -/
def execVsin (d a : BitVec 5) (s : BitVec 1) (r t : BitVec 3) (s' : State) : Host.Outcome State Fault Refusal :=
  runLone (.vsin d a s r t) (semVsin d a s r t) s'

/-- R142: Correctly rounded cosine of a half-turn argument. -/
def semVcos (d a : BitVec 5) (_s : BitVec 1) (r t : BitVec 3) (e : Env) : Issue :=
  e.floatMap d r t (e.v a) cosNum

/-- The step `VCOS`. -/
def execVcos (d a : BitVec 5) (s : BitVec 1) (r t : BitVec 3) (s' : State) : Host.Outcome State Fault Refusal :=
  runLone (.vcos d a s r t) (semVcos d a s r t) s'

/-- R88: Element-wise minimum, NaN-propagating. -/
def semVmin (d a b : BitVec 5) (_s : BitVec 1) (r t : BitVec 3) (e : Env) : Issue :=
  e.choose d r t (e.v a) (e.v b) false false

/-- The step `VMIN`. -/
def execVmin (d a b : BitVec 5) (s : BitVec 1) (r t : BitVec 3) (s' : State) : Host.Outcome State Fault Refusal :=
  runLone (.vmin d a b s r t) (semVmin d a b s r t) s'

/-- R88: Element-wise maximum, NaN-propagating. -/
def semVmax (d a b : BitVec 5) (_s : BitVec 1) (r t : BitVec 3) (e : Env) : Issue :=
  e.choose d r t (e.v a) (e.v b) true false

/-- The step `VMAX`. -/
def execVmax (d a b : BitVec 5) (s : BitVec 1) (r t : BitVec 3) (s' : State) : Host.Outcome State Fault Refusal :=
  runLone (.vmax d a b s r t) (semVmax d a b s r t) s'

/-- R88: Element-wise minimum, preferring numbers. -/
def semVminn (d a b : BitVec 5) (_s : BitVec 1) (r t : BitVec 3) (e : Env) : Issue :=
  e.choose d r t (e.v a) (e.v b) false true

/-- The step `VMINN`. -/
def execVminn (d a b : BitVec 5) (s : BitVec 1) (r t : BitVec 3) (s' : State) : Host.Outcome State Fault Refusal :=
  runLone (.vminn d a b s r t) (semVminn d a b s r t) s'

/-- R88: Element-wise maximum, preferring numbers. -/
def semVmaxn (d a b : BitVec 5) (_s : BitVec 1) (r t : BitVec 3) (e : Env) : Issue :=
  e.choose d r t (e.v a) (e.v b) true true

/-- The step `VMAXN`. -/
def execVmaxn (d a b : BitVec 5) (s : BitVec 1) (r t : BitVec 3) (s' : State) : Host.Outcome State Fault Refusal :=
  runLone (.vmaxn d a b s r t) (semVmaxn d a b s r t) s'

/-- R139: Element-wise absolute value. -/
def semVabs (d a : BitVec 5) (s : BitVec 1) (r t : BitVec 3) (e : Env) : Issue :=
  e.mapLanes d (typeWidth t) (e.v a) (absLane t (s == 1) (r.getLsbD 0))

/-- The step `VABS`. -/
def execVabs (d a : BitVec 5) (s : BitVec 1) (r t : BitVec 3) (s' : State) : Host.Outcome State Fault Refusal :=
  runLone (.vabs d a s r t) (semVabs d a s r t) s'

/-- R139: Element-wise negation. -/
def semVneg (d a : BitVec 5) (s : BitVec 1) (r t : BitVec 3) (e : Env) : Issue :=
  e.mapLanes d (typeWidth t) (e.v a) (negLane t (s == 1) (r.getLsbD 0))

/-- The step `VNEG`. -/
def execVneg (d a : BitVec 5) (s : BitVec 1) (r t : BitVec 3) (s' : State) : Host.Outcome State Fault Refusal :=
  runLone (.vneg d a s r t) (semVneg d a s r t) s'

/-- R138: 128-bit AND. -/
def semVand (d a b : BitVec 5) (e : Env) : Issue :=
  e.putV d (e.v a &&& e.v b)

/-- The step `VAND`. -/
def execVand (d a b : BitVec 5) (s' : State) : Host.Outcome State Fault Refusal :=
  runLone (.vand d a b) (semVand d a b) s'

/-- R138: 128-bit OR. -/
def semVor (d a b : BitVec 5) (e : Env) : Issue :=
  e.putV d (e.v a ||| e.v b)

/-- The step `VOR`. -/
def execVor (d a b : BitVec 5) (s' : State) : Host.Outcome State Fault Refusal :=
  runLone (.vor d a b) (semVor d a b) s'

/-- R138: 128-bit XOR. -/
def semVxor (d a b : BitVec 5) (e : Env) : Issue :=
  e.putV d (e.v a ^^^ e.v b)

/-- The step `VXOR`. -/
def execVxor (d a b : BitVec 5) (s' : State) : Host.Outcome State Fault Refusal :=
  runLone (.vxor d a b) (semVxor d a b) s'

/-- R138: 128-bit NOT. -/
def semVnot (d a : BitVec 5) (e : Env) : Issue :=
  e.putV d (~~~ e.v a)

/-- The step `VNOT`. -/
def execVnot (d a : BitVec 5) (s' : State) : Host.Outcome State Fault Refusal :=
  runLone (.vnot d a) (semVnot d a) s'

/-- R141: Element-wise shift left. -/
def semVshl (d a b : BitVec 5) (s : BitVec 1) (r t : BitVec 3) (e : Env) : Issue :=
  let w := typeWidth t
  let sg := ! r.getLsbD 0
  e.zipLanes d w (e.v a) (e.v b) fun x y =>
    intResult (s == 1) sg w (laneInt sg w x * 2 ^ (y % (8 * w)))

/-- The step `VSHL`. -/
def execVshl (d a b : BitVec 5) (s : BitVec 1) (r t : BitVec 3) (s' : State) : Host.Outcome State Fault Refusal :=
  runLone (.vshl d a b s r t) (semVshl d a b s r t) s'

/-- R141: Element-wise logical shift right. -/
def semVshr (d a b : BitVec 5) (_s : BitVec 1) (_r t : BitVec 3) (e : Env) : Issue :=
  let w := typeWidth t
  e.zipLanes d w (e.v a) (e.v b) fun x y => x / 2 ^ (y % (8 * w))

/-- The step `VSHR`. -/
def execVshr (d a b : BitVec 5) (s : BitVec 1) (r t : BitVec 3) (s' : State) : Host.Outcome State Fault Refusal :=
  runLone (.vshr d a b s r t) (semVshr d a b s r t) s'

/-- R141: Element-wise arithmetic shift right. -/
def semVsra (d a b : BitVec 5) (_s : BitVec 1) (_r t : BitVec 3) (e : Env) : Issue :=
  let w := typeWidth t
  e.zipLanes d w (e.v a) (e.v b) fun x y => wrapInt (8 * w) (laneInt true w x / 2 ^ (y % (8 * w)))

/-- The step `VSRA`. -/
def execVsra (d a b : BitVec 5) (s : BitVec 1) (r t : BitVec 3) (s' : State) : Host.Outcome State Fault Refusal :=
  runLone (.vsra d a b s r t) (semVsra d a b s r t) s'

/-- R144: Compare elements and write a mask. -/
def semVcmp (d a b : BitVec 5) (c : BitVec 3) (u : BitVec 1) (t : BitVec 3) (e : Env) : Issue :=
  let w := typeWidth t
  let out := (lanes w (e.v a)).zipWith (compareLane c (u == 1) t) (lanes w (e.v b))
  e.withFlags (out.map Prod.snd) none
    (e.setM d (BitVec.ofNat 16 (laneMask w (out.map Prod.fst))))

/-- The step `VCMP`. -/
def execVcmp (d a b : BitVec 5) (c : BitVec 3) (u : BitVec 1) (t : BitVec 3) (s' : State) : Host.Outcome State Fault Refusal :=
  runLone (.vcmp d a b c u t) (semVcmp d a b c u t) s'

/-- R145: Select bytes by a mask. -/
def semVsel (d a b c : BitVec 5) (e : Env) : Issue :=
  let k := e.m c
  let va := e.v a
  let vb := e.v b
  e.putV d (ofLanes fun i => if k.getLsbD i then byteOf va i else byteOf vb i)

/-- The step `VSEL`. -/
def execVsel (d a b c : BitVec 5) (s' : State) : Host.Outcome State Fault Refusal :=
  runLone (.vsel d a b c) (semVsel d a b c) s'

/-- R148: Broadcast a g register into every element. -/
def semVsplat (d a : BitVec 5) (_u : BitVec 1) (t : BitVec 3) (e : Env) : Issue :=
  let w := typeWidth t
  e.putV d (pack w (List.replicate (16 / w) (e.g a).toNat))

/-- The step `VSPLAT`. -/
def execVsplat (d a : BitVec 5) (u : BitVec 1) (t : BitVec 3) (s' : State) : Host.Outcome State Fault Refusal :=
  runLone (.vsplat d a u t) (semVsplat d a u t) s'

/-- R148: Insert a g register into one element. -/
def semVins (d a b : BitVec 5) (_u : BitVec 1) (t : BitVec 3) (e : Env) : Issue :=
  let w := typeWidth t
  e.putV d (pack w ((lanes w (e.v d)).set ((e.g b).toNat % (16 / w)) (e.g a).toNat))

/-- The step `VINS`. -/
def execVins (d a b : BitVec 5) (u : BitVec 1) (t : BitVec 3) (s' : State) : Host.Outcome State Fault Refusal :=
  runLone (.vins d a b u t) (semVins d a b u t) s'

/-- R148: Extract one element into a g register. -/
def semVext (d a b : BitVec 5) (u : BitVec 1) (t : BitVec 3) (e : Env) : Issue :=
  let w := typeWidth t
  let v := (lanes w (e.v a)).getD ((e.g b).toNat % (16 / w)) 0
  e.putG d (extendLane (! floatT t && u == 0) w v)

/-- The step `VEXT`. -/
def execVext (d a b : BitVec 5) (u : BitVec 1) (t : BitVec 3) (s' : State) : Host.Outcome State Fault Refusal :=
  runLone (.vext d a b u t) (semVext d a b u t) s'

/-- R148: Shuffle bytes by an index vector. -/
def semVshuf (d a b : BitVec 5) (e : Env) : Issue :=
  let va := e.v a
  let vb := e.v b
  e.putV d (ofLanes fun i =>
    if 128 ≤ byteOf vb i then 0 else byteOf va (byteOf vb i % 16))

/-- The step `VSHUF`. -/
def execVshuf (d a b : BitVec 5) (s' : State) : Host.Outcome State Fault Refusal :=
  runLone (.vshuf d a b) (semVshuf d a b) s'

/-- R148: Interleave elements of two vectors. -/
def semVzip (d a b : BitVec 5) (h _u : BitVec 1) (t : BitVec 3) (e : Env) : Issue :=
  let w := typeWidth t
  let n := 16 / w
  let la := (lanes w (e.v a)).drop (h.toNat * (n / 2))
  let lb := (lanes w (e.v b)).drop (h.toNat * (n / 2))
  e.putV d (pack w (((la.take (n / 2)).zip (lb.take (n / 2))).map fun x => [x.1, x.2]).flatten)

/-- The step `VZIP`. -/
def execVzip (d a b : BitVec 5) (h u : BitVec 1) (t : BitVec 3) (s' : State) : Host.Outcome State Fault Refusal :=
  runLone (.vzip d a b h u t) (semVzip d a b h u t) s'

/-- R148: De-interleave elements of two vectors. -/
def semVunzip (d a b : BitVec 5) (h _u : BitVec 1) (t : BitVec 3) (e : Env) : Issue :=
  let w := typeWidth t
  let l := lanes w (e.v a) ++ lanes w (e.v b)
  e.putV d (pack w ((List.range (16 / w)).map fun i => l.getD (2 * i + h.toNat) 0))

/-- The step `VUNZIP`. -/
def execVunzip (d a b : BitVec 5) (h u : BitVec 1) (t : BitVec 3) (s' : State) : Host.Outcome State Fault Refusal :=
  runLone (.vunzip d a b h u t) (semVunzip d a b h u t) s'

/-- R148: Copy 128 bits between vector registers and ports. -/
def semVmov (d a : BitVec 5) (e : Env) : Issue :=
  e.putV d (e.v a)

/-- The step `VMOV`. -/
def execVmov (d a : BitVec 5) (s' : State) : Host.Outcome State Fault Refusal :=
  runLone (.vmov d a) (semVmov d a) s'

/-- R149: Reduce the elements of a vector pairwise into a g register. -/
def semVred (d a o : BitVec 5) (s : BitVec 1) (r t : BitVec 3) (e : Env) : Issue :=
  let w := typeWidth t
  let l := lanes w (e.v a)
  if floatT t then
    match (if o = 0 then e.mode r else some 0) with
    | none => e.issueTrap
    | some mode =>
      let (v, fl, g) := e.reduceFloat (typeFmt t) o.toNat mode l
      e.withFlags [fl] (if o = 0 ∧ mode = modeSR then some g else none)
        (e.setG d (BitVec.ofNat 64 v))
  else
    let sg := ! r.getLsbD 0
    e.putG d (extendLane sg w (reduceInt o.toNat (s == 1) sg w l))

/-- The step `VRED`. -/
def execVred (d a o : BitVec 5) (s : BitVec 1) (r t : BitVec 3) (s' : State) : Host.Outcome State Fault Refusal :=
  runLone (.vred d a o s r t) (semVred d a o s r t) s'

/-- R150: Accumulate dot products into wider lanes. -/
def semVdot (d a b : BitVec 5) (s : BitVec 1) (r t : BitVec 3) (e : Env) : Issue :=
  let w := typeWidth t
  let la := lanes w (e.v a)
  let lb := lanes w (e.v b)
  if floatT t then
    let ld := lanes 4 (e.v d)
    e.floatResult d fmt32 r fun mode =>
      (List.range 4).map fun k => dotFloat (typeFmt t) mode la lb ld k
  else
    let sg := ! r.getLsbD 0
    let wd := 4 * w
    let ld := lanes wd (e.v d)
    e.putV d (pack wd ((List.range (16 / wd)).map fun k =>
      intResult (s == 1) sg wd (laneInt sg wd (ld.getD k 0) + dotInt sg w la lb k)))

/-- The step `VDOT`. -/
def execVdot (d a b : BitVec 5) (s : BitVec 1) (r t : BitVec 3) (s' : State) : Host.Outcome State Fault Refusal :=
  runLone (.vdot d a b s r t) (semVdot d a b s r t) s'

/-- R151: Accumulate sums of absolute differences. -/
def semVsad (d a b : BitVec 5) (s : BitVec 1) (r t : BitVec 3) (e : Env) : Issue :=
  let w := typeWidth t
  let i := laneInt (! r.getLsbD 0) w
  let df := (lanes w (e.v a)).zipWith (fun x y => (i x - i y).natAbs) (lanes w (e.v b))
  let ld := lanes 4 (e.v d)
  let n := 4 / w
  e.putV d (pack 4 ((List.range 4).map fun k =>
    intResult (s == 1) false 4
      ((ld.getD k 0 + (slice df (n * k) n).foldl (· + ·) 0 : Nat) : Int)))

/-- The step `VSAD`. -/
def execVsad (d a b : BitVec 5) (s : BitVec 1) (r t : BitVec 3) (s' : State) : Host.Outcome State Fault Refusal :=
  runLone (.vsad d a b s r t) (semVsad d a b s r t) s'

/-- R153: Convert elements between formats. -/
def semVcvt (d a s : BitVec 5) (r : BitVec 2) (t : BitVec 5) (e : Env) : Issue :=
  e.convert d (e.v a) s.toNat t.toNat r

/-- The step `VCVT`. -/
def execVcvt (d a s : BitVec 5) (r : BitVec 2) (t : BitVec 5) (s' : State) : Host.Outcome State Fault Refusal :=
  runLone (.vcvt d a s r t) (semVcvt d a s r t) s'

/-- R154: Pack byte containers into one part of a sub-byte group. -/
def semVpack (d a : BitVec 5) (n : BitVec 3) (s : BitVec 1) (c : BitVec 5) (e : Env) : Issue :=
  match e.subElem c.toNat n.toNat with
  | .error i => i
  | .ok f =>
    let va := e.v a
    let vd := e.v d
    e.putV d (ofLanes fun i =>
      (putSlot f.cont n.toNat (packLane f (s == 1) (byteOf va i)) (BitVec.ofNat 8 (byteOf vd i))).toNat)

/-- The step `VPACK`. -/
def execVpack (d a : BitVec 5) (n : BitVec 3) (s : BitVec 1) (c : BitVec 5) (s' : State) : Host.Outcome State Fault Refusal :=
  runLone (.vpack d a n s c) (semVpack d a n s c) s'

/-- R154: Unpack one part of a sub-byte group into byte containers. -/
def semVunpack (d a : BitVec 5) (n : BitVec 3) (c : BitVec 5) (e : Env) : Issue :=
  match e.subElem c.toNat n.toNat with
  | .error i => i
  | .ok f =>
    let va := e.v a
    e.putV d (ofLanes fun i => unpackLane f n.toNat (byteOf va i))

/-- The step `VUNPACK`. -/
def execVunpack (d a : BitVec 5) (n : BitVec 3) (c : BitVec 5) (s' : State) : Host.Outcome State Fault Refusal :=
  runLone (.vunpack d a n c) (semVunpack d a n c) s'

/-- R143: Classify float elements. -/
def semVclass (d a : BitVec 5) (t : BitVec 3) (e : Env) : Issue :=
  e.mapLanes d (typeWidth t) (e.v a) (classOf (typeFmt t))

/-- The step `VCLASS`. -/
def execVclass (d a : BitVec 5) (t : BitVec 3) (s' : State) : Host.Outcome State Fault Refusal :=
  runLone (.vclass d a t) (semVclass d a t) s'

/-- R146: Mask AND. -/
def semMand (d a b : BitVec 5) (e : Env) : Issue :=
  e.putM d (e.m a &&& e.m b)

/-- The step `MAND`. -/
def execMand (d a b : BitVec 5) (s' : State) : Host.Outcome State Fault Refusal :=
  runLone (.mand d a b) (semMand d a b) s'

/-- R146: Mask AND NOT. -/
def semMandNot (d a b : BitVec 5) (e : Env) : Issue :=
  e.putM d (e.m a &&& ~~~ e.m b)

/-- The step `MAND_NOT`. -/
def execMandNot (d a b : BitVec 5) (s' : State) : Host.Outcome State Fault Refusal :=
  runLone (.mandNot d a b) (semMandNot d a b) s'

/-- R146: Mask OR. -/
def semMor (d a b : BitVec 5) (e : Env) : Issue :=
  e.putM d (e.m a ||| e.m b)

/-- The step `MOR`. -/
def execMor (d a b : BitVec 5) (s' : State) : Host.Outcome State Fault Refusal :=
  runLone (.mor d a b) (semMor d a b) s'

/-- R146: OR the low 16 bits of two g registers into a mask. -/
def semMorG (d a b : BitVec 5) (e : Env) : Issue :=
  e.putM d ((e.g a ||| e.g b).extractLsb' 0 16)

/-- The step `MOR_G`. -/
def execMorG (d a b : BitVec 5) (s' : State) : Host.Outcome State Fault Refusal :=
  runLone (.morG d a b) (semMorG d a b) s'

/-- R146: Mask XOR. -/
def semMxor (d a b : BitVec 5) (e : Env) : Issue :=
  e.putM d (e.m a ^^^ e.m b)

/-- The step `MXOR`. -/
def execMxor (d a b : BitVec 5) (s' : State) : Host.Outcome State Fault Refusal :=
  runLone (.mxor d a b) (semMxor d a b) s'

/-- R146: Mask NOT. -/
def semMnot (d a : BitVec 5) (e : Env) : Issue :=
  e.putM d (~~~ e.m a)

/-- The step `MNOT`. -/
def execMnot (d a : BitVec 5) (s' : State) : Host.Outcome State Fault Refusal :=
  runLone (.mnot d a) (semMnot d a) s'

/-- R146: Count the one bits of a mask. -/
def semMcnt (d a : BitVec 5) (e : Env) : Issue :=
  e.putG d (BitVec.ofNat 64 (countOnes (e.m a).toNat 16))

/-- The step `MCNT`. -/
def execMcnt (d a : BitVec 5) (s' : State) : Host.Outcome State Fault Refusal :=
  runLone (.mcnt d a) (semMcnt d a) s'

/-- R146: Move a mask into a g register. -/
def semMcntRaw (d a : BitVec 5) (e : Env) : Issue :=
  e.putG d ((e.m a).setWidth 64)

/-- The step `MCNT_RAW`. -/
def execMcntRaw (d a : BitVec 5) (s' : State) : Host.Outcome State Fault Refusal :=
  runLone (.mcntRaw d a) (semMcntRaw d a) s'

/-- R146: Index of the lowest one bit of a mask. -/
def semMfirst (d a : BitVec 5) (e : Env) : Issue :=
  e.putG d (BitVec.ofNat 64 (lowestOne (e.m a).toNat 0 16))

/-- The step `MFIRST`. -/
def execMfirst (d a : BitVec 5) (s' : State) : Host.Outcome State Fault Refusal :=
  runLone (.mfirst d a) (semMfirst d a) s'

end Sys2Proof.Machine
end

