-- ==== Sys2Proof/Machine/BitStream.lean ====
section
/-!
DEFINITION. The bit buffer and rANS decoding (05 R155-R162).
-/

namespace Sys2Proof.Machine

/-! ### The bit-buffer state (05 R155) -/

/-- The bit buffer of a workspace. -/
structure BitBuf where
  buf   : Nat
  next  : Nat
  bound : Bool
  ovr   : Bool
  valid : Nat
  len   : Nat
  pos   : Nat
deriving DecidableEq, Repr

/-- The bit buffer of workspace b. -/
def bitBuf (s : State) (c b : Nat) : BitBuf :=
  let y := wspDword s c b 0x2D8
  { buf := ofBytes (readWsp s c b 0x2C0 16), next := field (wspDword s c b 0x2D0) 18 0,
    bound := bitAt y 63, ovr := bitAt y 62, valid := field y 61 54, len := field y 41 21,
    pos := field y 20 0 }

/-- The dword at 0x2D8, given its reserved bits. -/
def BitBuf.word (x : BitBuf) (reserved : Nat) : Nat :=
  natOf x.bound * 2 ^ 63 + natOf x.ovr * 2 ^ 62 + x.valid % 2 ^ 8 * 2 ^ 54 + reserved * 2 ^ 42
    + x.len % 2 ^ 21 * 2 ^ 21 + x.pos % 2 ^ 21

/-- The write of the bit buffer of workspace b; reserved bits stay as they are. -/
def setBitBuf (s : State) (c b : Nat) (x : BitBuf) : List Eff :=
  let high := field (wspDword s c b 0x2D0) 63 19
  [wspWrite c b 0x2C0 (toBytes 16 x.buf ++ toBytes 8 (high * 2 ^ 19 + x.next % 2 ^ 19)
    ++ toBytes 8 (x.word (field (wspDword s c b 0x2D8) 53 42)))]

/-- The address of a stream's first byte: NEXT points at byte (POS + VALID) ÷ 8 of it. -/
def BitBuf.base (x : BitBuf) : Nat := (x.next + 2 ^ 19 - (x.pos + x.valid) / 8) % 2 ^ 19

/-- The combinations of the fields that a supervisor must keep (05 R160), of a stream that lies in core c's
own WM. -/
def BitBuf.sound (x : BitBuf) (c : Nat) : Bool :=
  let base := x.base
  decide (x.valid ≤ 128) && decide (x.pos + x.valid ≤ x.len) && decide (x.len ≤ 0x100000)
    && (decide (x.len = 0) || (ownRank c base && decide (base % 2 ^ 17 + ceilDiv x.len 8 ≤ 2 ^ 17)))

/-- The buffer with the byte at NEXT fetched: NEXT points at byte (POS + VALID) ÷ 8 of the stream,
and bits at or beyond LEN are not fetched. -/
def BitBuf.fetch (x : BitBuf) (read : Nat → Byte) : BitBuf :=
  let at_ := x.pos + x.valid
  let skip := at_ % 8
  let n := min (8 - skip) (x.len - at_)
  if 128 < x.valid + n ∨ n = 0 then x
  else { x with
    buf := x.buf % 2 ^ x.valid + (read x.next).toNat / 2 ^ skip % 2 ^ n * 2 ^ x.valid,
    valid := x.valid + n,
    next := x.next + (skip + n) / 8 }

/-- The buffer after fetches of bytes until it holds n bits or the stream ends; at most k bytes. -/
def BitBuf.fill (x : BitBuf) (read : Nat → Byte) (n : Nat) : Nat → BitBuf
  | 0 => x
  | k + 1 => if n ≤ x.valid then x else (x.fetch read).fill read n k

/-- The buffer after n bits have been consumed, n any number: the stream ends at LEN. -/
def BitBuf.consume (x : BitBuf) (n : Nat) : BitBuf :=
  let e := x.pos + x.valid
  let pos := min (x.pos + n) x.len
  let valid := e - pos
  { x with
    buf := x.buf / 2 ^ (pos - x.pos), pos := pos, valid := valid,
    next := x.next + ((pos + valid) / 8 - e / 8),
    ovr := x.ovr || decide (x.len < x.pos + n) }

/-- A byte of core c's own WM as the thread of a slot loads it, with its own buffered stores (05 R159). -/
def Slot.localByte (x : Slot) (s : State) (c a : Nat) : Byte :=
  (x.forward x.seq .wm a).getD (readByte s.mem (localKey c .wm (a % 2 ^ 17)))

/-- Whether the bits of a buffer are those of its stream, as the thread of a slot loads them (05 R160). -/
def BitBuf.holdsStream (x : BitBuf) (y : Slot) (s : State) (c : Nat) : Bool :=
  (List.range x.valid).all fun i =>
    x.buf.testBit i == (y.localByte s c (x.base + (x.pos + i) / 8)).getLsbD ((x.pos + i) % 8)

/-- A core with a dword of a slot's block written by `wwr` from `s` on: a write that changes the state of
the bit buffer must keep all that R160 asks. -/
def CoreSt.bitsWritten (y : CoreSt) (s t : State) (c sl b : Nat) : CoreSt :=
  let x := bitBuf t c b
  if readWsp s c b 0x2C0 32 = readWsp t c b 0x2C0 32 then y
  else { y with wildBits := setPut y.wildBits b (! (x.sound c && x.holdsStream (t.slot c sl) t c)) }

/-- Whether what a buffer of block b yields is the stream's: no combination that R160 does not allow has
been written into it. -/
def bitsHold (s : State) (c b : Nat) : Bool := (bitBuf s c b).sound c && ! (s.core c).wildBits.contains b

/-- A byte of local WM as a thread loads it (05 R159). -/
def Env.localByte (e : Env) (a : Nat) : Byte := e.slot.localByte e.s e.c a

/-- Bytes of local WM as a thread loads them. -/
def Env.localBytes (e : Env) (a n : Nat) : List Byte := (fromTo a n).map e.localByte

/-- A free value from which the bits of an inconsistent buffer are read (05 R160; log 9). -/
def Env.freeBits (e : Env) : Nat := (Config.bits e.s.free 2048).toNat

/-- `take` (05 R157): the bits, and the buffer after them. -/
def Env.take (e : Env) (x : BitBuf) (n : Nat) (consume : Bool) : Nat × BitBuf :=
  let good := bitsHold e.s e.c e.b
  let y := if good then x.fill e.localByte n 9 else x
  let v := if good then y.buf % 2 ^ y.valid % 2 ^ n else e.freeBits % 2 ^ n
  (v, if consume then y.consume n else { y with ovr := y.ovr || decide (y.len < y.pos + n) })

/-- The use of a free value by a read of a buffer that does not hold its stream. -/
def Env.freeTaken (e : Env) : List Eff := if bitsHold e.s e.c e.b then [] else [.free]

/-- A word that takes n bits into a g register. -/
def Env.takeBits (e : Env) (d : Reg) (n : Nat) (consume : Bool) : Issue :=
  let (v, y) := e.take (bitBuf e.s e.c e.b) n consume
  Issue.effs (setBitBuf e.s e.c e.b y ++ e.setG d (BitVec.ofNat 64 v) ++ e.freeTaken)

/-- The buffer of the thread of a slot after the fetch of at most k bytes ahead (05 R159). -/
def Run.prefetch (r : Run) (c sl k : Nat) : Run :=
  let s := r.s
  let x := s.slot c sl
  let z := bitBuf s c x.block
  if k = 0 ∨ ! x.wspV ∨ ! z.bound ∨ ! bitsHold s c x.block then r
  else r.emits (setBitBuf s c x.block (z.fill (x.localByte s c) 128 k))

/-! ### rANS (05 R161, R162) -/

/-- The lowest symbol whose range holds a slot, among entries from symbol i on; with it FREQ and
CUM. -/
def findSymbol (slot : Nat) : Nat → List Word → Option (Nat × Nat × Nat)
  | _, [] => none
  | i, w :: r =>
    let cum := field w 31 16
    let freq := field w 15 0
    if cum ≤ slot ∧ slot < cum + freq then some (i, freq, cum) else findSymbol slot (i + 1) r

/-- The entries of a table of n symbols. -/
def Env.ansTable (e : Env) (a n : Nat) : List Word :=
  let bs := e.localBytes (a + 8) (4 * n)
  (List.range n).map fun i => wordOf ((bs.drop (4 * i)).take 4)

/-- One decode step on a table whose place has been checked. -/
def Env.ansStep (e : Env) (d : Reg) (x0 : Nat) (a : Nat) (h : Word) : Issue :=
  let fail := Issue.effs (e.setG d (BitVec.ofNat 64 (0xFFFF * 2 ^ 32 + x0)))
  let prec := field h 4 0
  if field h 63 14 ≠ 0 ∨ prec = 0 ∨ 16 < prec then fail
  else
    let slot := x0 % 2 ^ prec
    match findSymbol slot 0 (e.ansTable a (field h 13 5 + 1)) with
    | none => fail
    | some (sym, freq, cum) =>
      let x := (freq * (x0 / 2 ^ prec) + slot - cum) % 2 ^ 32
      if x < 0x10000 then
        let b := bitBuf e.s e.c e.b
        let (v, y) := e.take b 16 true
        Issue.effs (setBitBuf e.s e.c e.b y
          ++ e.setG d (BitVec.ofNat 64 (sym * 2 ^ 32 + x * 2 ^ 16 + v))
          ++ e.freeTaken)
      else Issue.effs (e.setG d (BitVec.ofNat 64 (sym * 2 ^ 32 + x)))

/-- R156: Bind the bit buffer to a stream in local WM. The buffer fetches bytes from now on, so the
thread's loads issued before are satisfied first (R159, 11 R303). -/
def semBbind (a b : BitVec 5) (e : Env) : Issue :=
  let g := e.g a
  let n := (e.g b).toNat
  if field g 63 19 ≠ 0 ∨ ! ownRank e.c g.toNat then .trap 0x41 g 0
  else if 0x100000 < n then .trap 0x41 (e.g b) 0
  else if 2 ^ 17 < g.toNat % 2 ^ 17 + ceilDiv n 8 then .trap 0x41 g 0
  else Issue.afterLoads (.ok {
    effs := setBitBuf e.s e.c e.b
      { buf := 0, next := g.toNat, bound := true, ovr := false, valid := 0, len := n, pos := 0 },
    late := fun r => if e.core.wildBits.contains e.b then r.modCore e.c fun y =>
        { y with wildBits := setPut y.wildBits e.b false } else r }) e

/-- The step `BBIND`. -/
def execBbind (a b : BitVec 5) (s' : State) : Host.Outcome State Fault Refusal :=
  runLone (.bbind a b) (semBbind a b) s'

/-- R158: Take and consume n bits of the stream. -/
def semBget (d : BitVec 5) (i : BitVec 12) (e : Env) : Issue :=
  e.takeBits d i.toNat true

/-- The step `BGET`. -/
def execBget (d : BitVec 5) (i : BitVec 12) (s' : State) : Host.Outcome State Fault Refusal :=
  runLone (.bget d i) (semBget d i) s'

/-- R158: Take and consume a register-given number of bits. -/
def semBgetv (d a : BitVec 5) (e : Env) : Issue :=
  if 64 < (e.g a).toNat then e.issueTrap else e.takeBits d (e.g a).toNat true

/-- The step `BGETV`. -/
def execBgetv (d a : BitVec 5) (s' : State) : Host.Outcome State Fault Refusal :=
  runLone (.bgetv d a) (semBgetv d a) s'

/-- R158: Read n bits of the stream without consuming them. -/
def semBpeek (d : BitVec 5) (i : BitVec 12) (e : Env) : Issue :=
  e.takeBits d i.toNat false

/-- The step `BPEEK`. -/
def execBpeek (d : BitVec 5) (i : BitVec 12) (s' : State) : Host.Outcome State Fault Refusal :=
  runLone (.bpeek d i) (semBpeek d i) s'

/-- R158: Skip bits of the stream. -/
def semBskip (a : BitVec 5) (i : BitVec 12) (e : Env) : Issue :=
  Issue.effs (setBitBuf e.s e.c e.b ((bitBuf e.s e.c e.b).consume ((e.g a).toNat + i.toNat)))

/-- The step `BSKIP`. -/
def execBskip (a : BitVec 5) (i : BitVec 12) (s' : State) : Host.Outcome State Fault Refusal :=
  runLone (.bskip a i) (semBskip a i) s'

/-- R158: Read the bit-buffer position. -/
def semBpos (d : BitVec 5) (e : Env) : Issue :=
  e.putG d (BitVec.ofNat 64 (bitBuf e.s e.c e.b).pos)

/-- The step `BPOS`. -/
def execBpos (d : BitVec 5) (s' : State) : Host.Outcome State Fault Refusal :=
  runLone (.bpos d) (semBpos d) s'

/-- R158: Read the bits left in the stream. -/
def semBposLeft (d : BitVec 5) (e : Env) : Issue :=
  let x := bitBuf e.s e.c e.b
  e.putG d (BitVec.ofNat 64 x.len - BitVec.ofNat 64 x.pos)

/-- The step `BPOS_LEFT`. -/
def execBposLeft (d : BitVec 5) (s' : State) : Host.Outcome State Fault Refusal :=
  runLone (.bposLeft d) (semBposLeft d) s'

/-- R158: Read the bit-buffer state dword. -/
def semBposState (d : BitVec 5) (e : Env) : Issue :=
  e.putG d (wspDword e.s e.c e.b 0x2D8)

/-- The step `BPOS_STATE`. -/
def execBposState (d : BitVec 5) (s' : State) : Host.Outcome State Fault Refusal :=
  runLone (.bposState d) (semBposState d) s'

/-- R162: Perform one rANS decode step with renormalisation. -/
def semAnsd (d a b : BitVec 5) (e : Env) : Issue :=
  let t := e.g b
  if t.toNat % 8 ≠ 0 then .trap 0x40 t 0
  else if field t 63 19 ≠ 0 ∨ ! ownRank e.c t.toNat then .trap 0x41 t 0
  else
    let h := wordOf (e.localBytes t.toNat 8)
    (if 2 ^ 17 < t.toNat % 2 ^ 17 + 8 + 4 * (field h 13 5 + 1) then .trap 0x41 t 0
    else e.ansStep d (field (e.g a) 31 0) t.toNat h).afterLoads e

/-- The step `ANSD`. -/
def execAnsd (d a b : BitVec 5) (s' : State) : Host.Outcome State Fault Refusal :=
  runLone (.ansd d a b) (semAnsd d a b) s'

end Sys2Proof.Machine
end

