-- ==== Sys2Proof/Machine/Control.lean ====
section
/-!
DEFINITION. Jumps, branches, loops, continuations and the end of a thread (04 R101-R117).
-/

namespace Sys2Proof.Machine

/-! ### Targets -/

/-- An answer with what an access that it made leaves at the stations. -/
def Issue.leaving (i : Issue) (l : List Eff) : Issue :=
  match i with
  | .ok r => .ok { r with effs := l ++ r.effs }
  | .trap a b d => .trapWith l a b d
  | .trapWith e a b d => .trapWith (l ++ e) a b d
  | .stall e z => .stall (l ++ e) z

/-- A transfer of control to a target, with other effects; bits [63:57] set trap 0x42 (04 R104). -/
def Issue.jumpTo (t : Word) (effs : List Eff) : Issue :=
  if field t 63 57 ≠ 0 then .trap 0x42 t 0 else .ok { effs := effs, jump := some t.toNat }

/-- The target at a signed word offset from the word. -/
def Env.wordTarget {n : Nat} (e : Env) (o : BitVec n) : Word := BitVec.ofNat 64 e.pc + immS o * 4

/-- The target at a signed word offset from a register, bits [1:0] ignored (04 R103). -/
def Env.regTarget (e : Env) (a : Reg) (i : BitVec 12) : Word :=
  (e.g a + immS i * 4) &&& ~~~ 3#64

/-- A conditional branch (04 R101). The target of one that is taken is checked as a jump's is, and
traps 0x42 at the branch (log 34). -/
def Env.branch (e : Env) (taken : Bool) (o : BitVec 12) : Issue :=
  if taken then Issue.jumpTo (e.wordTarget o) [] else .ok {}

/-- The trap of a loop rule (04 R107). -/
def Env.loopTrap (e : Env) : Issue :=
  .trap 0x07 (BitVec.ofNat 64 e.word.toNat) (BitVec.ofNat 32 e.idx)

/-- ACTIVE cleared for a level and every level numbered above it. -/
def Env.clearLoops (e : Env) (v : Nat) : List Eff :=
  (fromTo v (3 - v)).map fun l => setLoop e.c e.b l { loopState e.s e.c e.b l with active := false }

/-- The checks 1 to 5 of R107 for a body of n words from `start` on. -/
def Env.loopBad (e : Env) (v n start : Nat) (count : Word) : Bool :=
  let st := fun l => loopState e.s e.c e.b l
  n == 0 || (st v).active || ((fromTo (v + 1) (2 - v)).any fun l => (st l).active)
    || ((List.range v).any fun l => (st l).active && decide ((st l).lastWord < ((start + 4 * (n - 1) : Nat) : Int)))
    || decide (2 ^ 48 ≤ count.toNat)

/-- A page request for an access of the issuing thread. -/
def Env.pageEff (e : Env) (va : Nat) (write : Bool) : Eff :=
  .pages (raisePage e.s e.pid va write e.slot.launch.toList)

/-! ### Addresses (06 R164) -/

/-- The check of an address: the trap cause, if it fails. -/
def addrFault (sp : Space) (a : Word) (size : Nat) : Option (BitVec 8) :=
  if a.toNat % size ≠ 0 then some 0x40
  else match sp with
    | .gl => if field a 63 57 ≠ 0 then some 0x42 else none
    | .wm => if field a 63 19 ≠ 0 then some 0x41 else none
    | .cb => if field a 63 16 ≠ 0 then some 0x41 else none
    | _ => if field a 63 17 ≠ 0 then some 0x41 else none

/-- A word that goes on only with a good address. -/
def checked (sp : Space) (a : Word) (size : Nat) (k : Issue) : Issue :=
  match addrFault sp a size with
  | some c => .trap c a 0
  | none => k

/-! ### Continuations -/

/-- The record of a thread that stops at its next bundle, with the registers after the bundle
(04 R114, R115). -/
def Env.stopRecord (e : Env) (s : State) (kind : Nat) : List Byte :=
  makeRecord s e.c e.b e.npc kind 0 (fiveRegs s e.c e.b)

/-- The thread's record pushed on top of the deque and the bottom record taken up in its place
(04 R115); room has been made. The top is 04 R115's word, where 09 R275 says the bottom (log 34). -/
def Env.yieldNow (e : Env) (r : Run) : Run :=
  let launch := (r.s.slot e.c e.sl).launch
  let r := r.putTop e.c (e.stopRecord r.s 3) launch
  let x := r.s.core e.c
  let rec_ := dequeRec r.s e.c (x.dqTop + x.depth - 1)
  let next := (x.dqLaunch.getLast?).getD none
  let r := (r.takeBottom e.c).freeSlot e.c e.sl
  match (r.s.core e.c).lowest with
  | some b => r.startThread e.c e.sl b (recSeeds rec_) next
  | none => r

/-- R59: No operation. -/
def semNop (_e : Env) : Issue :=
  .ok {}

/-- The step `NOP`. -/
def execNop (s' : State) : Host.Outcome State Fault Refusal :=
  runLone (.nop) (semNop) s'

/-- R103: Jump by a signed word offset. -/
def semJ (o : BitVec 22) (e : Env) : Issue :=
  Issue.jumpTo (e.wordTarget o) []

/-- The step `J`. -/
def execJ (o : BitVec 22) (s' : State) : Host.Outcome State Fault Refusal :=
  runLone (.j o) (semJ o) s'

/-- R103: Jump by offset and write the return address to g31. -/
def semJal (o : BitVec 22) (e : Env) : Issue :=
  Issue.jumpTo (e.wordTarget o) (e.setG 31 (BitVec.ofNat 64 e.npc))

/-- The step `JAL`. -/
def execJal (o : BitVec 22) (s' : State) : Host.Outcome State Fault Refusal :=
  runLone (.jal o) (semJal o) s'

/-- R103: Jump to a register plus an offset. -/
def semJr (a : BitVec 5) (i : BitVec 12) (e : Env) : Issue :=
  Issue.jumpTo (e.regTarget a i) []

/-- The step `JR`. -/
def execJr (a : BitVec 5) (i : BitVec 12) (s' : State) : Host.Outcome State Fault Refusal :=
  runLone (.jr a i) (semJr a i) s'

/-- R103: Jump to a register plus an offset and write the return address. -/
def semJalr (d a : BitVec 5) (i : BitVec 12) (e : Env) : Issue :=
  Issue.jumpTo (e.regTarget a i) (e.setG d (BitVec.ofNat 64 e.npc))

/-- The step `JALR`. -/
def execJalr (d a : BitVec 5) (i : BitVec 12) (s' : State) : Host.Outcome State Fault Refusal :=
  runLone (.jalr d a i) (semJalr d a i) s'

/-- R101: Branch if equal. -/
def semBEq (a b : BitVec 5) (o : BitVec 12) (e : Env) : Issue :=
  e.branch (e.g a == e.g b) o

/-- The step `B_EQ`. -/
def execBEq (a b : BitVec 5) (o : BitVec 12) (s' : State) : Host.Outcome State Fault Refusal :=
  runLone (.bEq a b o) (semBEq a b o) s'

/-- R101: Branch if not equal. -/
def semBNe (a b : BitVec 5) (o : BitVec 12) (e : Env) : Issue :=
  e.branch (e.g a != e.g b) o

/-- The step `B_NE`. -/
def execBNe (a b : BitVec 5) (o : BitVec 12) (s' : State) : Host.Outcome State Fault Refusal :=
  runLone (.bNe a b o) (semBNe a b o) s'

/-- R101: Branch if less, signed. -/
def semBLt (a b : BitVec 5) (o : BitVec 12) (e : Env) : Issue :=
  e.branch ((e.g a).slt (e.g b)) o

/-- The step `B_LT`. -/
def execBLt (a b : BitVec 5) (o : BitVec 12) (s' : State) : Host.Outcome State Fault Refusal :=
  runLone (.bLt a b o) (semBLt a b o) s'

/-- R101: Branch if greater or equal, signed. -/
def semBGe (a b : BitVec 5) (o : BitVec 12) (e : Env) : Issue :=
  e.branch (! (e.g a).slt (e.g b)) o

/-- The step `B_GE`. -/
def execBGe (a b : BitVec 5) (o : BitVec 12) (s' : State) : Host.Outcome State Fault Refusal :=
  runLone (.bGe a b o) (semBGe a b o) s'

/-- R101: Branch if less, unsigned. -/
def semBLtu (a b : BitVec 5) (o : BitVec 12) (e : Env) : Issue :=
  e.branch ((e.g a).ult (e.g b)) o

/-- The step `B_LTU`. -/
def execBLtu (a b : BitVec 5) (o : BitVec 12) (s' : State) : Host.Outcome State Fault Refusal :=
  runLone (.bLtu a b o) (semBLtu a b o) s'

/-- R101: Branch if greater or equal, unsigned. -/
def semBGeu (a b : BitVec 5) (o : BitVec 12) (e : Env) : Issue :=
  e.branch (! (e.g a).ult (e.g b)) o

/-- The step `B_GEU`. -/
def execBGeu (a b : BitVec 5) (o : BitVec 12) (s' : State) : Host.Outcome State Fault Refusal :=
  runLone (.bGeu a b o) (semBGeu a b o) s'

/-- R107: Check nesting and start a hardware loop level over a body. -/
def semLoop (v : BitVec 2) (c : BitVec 5) (n : BitVec 15) (e : Env) : Issue :=
  let start := e.npc
  let len := n.toNat
  let last := start + 4 * (len - 1)
  if e.loopBad v.toNat len start (e.g c) then e.loopTrap
  else match fetchWord e.s e.c e.sl last with
    | .fault cause a2 l => .trapWith l cause (BitVec.ofNat 64 last) a2
    | .page => .stall [e.pageEff last false] none
    | .wait => .stall [] none
    | .ok w l =>
      if last % 8 = 0 ∧ ! w.getLsbD 31 then e.loopTrap.leaving l
      else if e.g c = 0 then (Issue.jumpTo (BitVec.ofNat 64 (start + 4 * len)) []).leaving l
      else Issue.effs (l ++ [setLoop e.c e.b v.toNat
        { active := true, length := len, count := (e.g c).toNat, start := start }])

/-- The step `LOOP`. -/
def execLoop (v : BitVec 2) (c : BitVec 5) (n : BitVec 15) (s' : State) : Host.Outcome State Fault Refusal :=
  runLone (.loop v c n) (semLoop v c n) s'

/-- R109: Leave a loop level and the levels inside it, and transfer control past the body. -/
def semLbrk (v : BitVec 2) (e : Env) : Issue :=
  let x := loopState e.s e.c e.b v.toNat
  if x.active then
    Issue.jumpTo (BitVec.ofNat 64 (x.start + 4 * x.length)) (e.clearLoops v.toNat)
  else e.loopTrap

/-- The step `LBRK`. -/
def execLbrk (v : BitVec 2) (s' : State) : Host.Outcome State Fault Refusal :=
  runLone (.lbrk v) (semLbrk v) s'

/-- R109: Clear a loop level and the levels inside it without transferring control. -/
def semLbrkStay (v : BitVec 2) (e : Env) : Issue :=
  if (loopState e.s e.c e.b v.toNat).active then Issue.effs (e.clearLoops v.toNat) else e.loopTrap

/-- The step `LBRK_STAY`. -/
def execLbrkStay (v : BitVec 2) (s' : State) : Host.Outcome State Fault Refusal :=
  runLone (.lbrkStay v) (semLbrkStay v) s'

/-- R112: Increment a join counter and push a continuation record for a fork arm. -/
def semFork (a b : BitVec 5) (o : BitVec 12) (e : Env) : Issue :=
  let j := e.g a
  let rec_ := makeRecord e.s e.c e.b ((e.wordTarget o).toNat % 2 ^ 57) 1 j.toNat
    (e.g b :: (fromTo 2 4).map fun r => e.g (BitVec.ofNat 5 r))
  let k := Issue.effs [e.async .none (.fork j.toNat rec_)]
  if j = 0 then k else checked .gl j 8 k

/-- The step `FORK`. -/
def execFork (a b : BitVec 5) (o : BitVec 12) (s' : State) : Host.Outcome State Fault Refusal :=
  runLone (.fork a b o) (semFork a b o) s'

/-- R113: Decrement a join counter, continuing if it was 1 and retiring otherwise. -/
def semJoin (d a : BitVec 5) (i : BitVec 12) (e : Env) : Issue :=
  let addr := e.g a + immS i * 8
  checked .gl addr 8 (.ok { effs := [e.async (.g d) (.join addr.toNat)], park := some .join })

/-- The step `JOIN`. -/
def execJoin (d a : BitVec 5) (i : BitVec 12) (s' : State) : Host.Outcome State Fault Refusal :=
  runLone (.join d a i) (semJoin d a i) s'

/-- R114: Write a suspended continuation record to GL and free the slot. A fault of the write is
delivered as a deferred trap, when the PC image stands behind the bundle (log 77). -/
def semSusp (a : BitVec 5) (i : BitVec 12) (e : Env) : Issue :=
  let addr := e.g a + immS i * 64
  if e.slot.outstanding ≠ 0 then .stall [] none
  else checked .gl addr 64 (.ok {
    park := some .susp,
    late := fun r => r.emit (e.async .none (.susp addr.toNat (e.stopRecord r.s 2))) })

/-- The step `SUSP`. -/
def execSusp (a : BitVec 5) (i : BitVec 12) (s' : State) : Host.Outcome State Fault Refusal :=
  runLone (.susp a i) (semSusp a i) s'

/-- R115: Push the thread's record on top of a non-empty deque and take the bottom record. The push
releases the thread's stores to whoever takes the record up (11 R307), so it waits until they have
left the buffer (log 67). A fault of the spill that makes room is a precise trap of the `yield`
(log 77). -/
def semYield (e : Env) : Issue :=
  if e.slot.outstanding ≠ 0 then .stall [] none
  else if e.sl = 0 ∨ e.core.depth = 0 then .ok {}
  else if e.slot.storeBefore e.slot.tid e.slot.seq then .stall [] none
  else match (Run.start e.s).makeRoom e.c e.slot.launch with
    | .fault cause a a2 _ => .trap cause a a2
    | .wait r => .stall r.done none
    | .done _ => .ok { late := fun r => match r.makeRoom e.c e.slot.launch with
        | .done r => e.yieldNow r
        | _ => r }

/-- The step `YIELD`. -/
def execYield (s' : State) : Host.Outcome State Fault Refusal :=
  runLone (.yield) (semYield) s'

/-- R116: End the thread and free its slot, or in slot 0 sleep until a trap record is queued. In slot 0 the
open commands stay, since that thread has not ended (log 84). -/
def semHalt (e : Env) : Issue :=
  if e.sl = 0 then .ok { park := some .halt }
  else .ok { late := fun r => r.retire e.c e.sl }

/-- The step `HALT`. -/
def execHalt (s' : State) : Host.Outcome State Fault Refusal :=
  runLone (.halt) (semHalt) s'

end Sys2Proof.Machine
end

