-- ==== Sys2Proof/Machine/Perm.lean ====
section
/-!
DEFINITION. The permutation network: what settings deliver, the settings that a permutation
solves to, cycle structure, and random permutations (07 R218-R225, R228).
-/

namespace Sys2Proof.Machine

/-! ### The network (07 R219) -/

/-- Setting of switch j of stage s. -/
def switchAt (q : Nat) (s j : Nat) : Bool := q.testBit (32 * s + j)

/-- The targets of a block's wires pairwise: a straight or crossed switch each. -/
def crossPairs (q s j : Nat) : List Nat → List (Nat × Nat)
  | x :: y :: r => (if switchAt q s j then (y, x) else (x, y)) :: crossPairs q s (j + 1) r
  | _ => []

/-- Stages 0 to 4 on one block: even wires to the upper half. -/
def splitBlock (q s j : Nat) (w : List Nat) : List Nat :=
  let l := crossPairs q s j w
  l.map Prod.fst ++ l.map Prod.snd

/-- Stage 5 on pairs of wires. -/
def middleStage (q : Nat) (w : List Nat) : List Nat :=
  ((crossPairs q 5 0 w).map fun x => [x.1, x.2]).flatten

/-- The wires of two halves, one of each in turn. -/
def interleave : List Nat → List Nat → List Nat
  | x :: r, y :: t => x :: y :: interleave r t
  | _, _ => []

/-- Stages 6 to 10 on one block: the halves interleave. -/
def joinBlock (q s j : Nat) (w : List Nat) : List Nat :=
  let m := w.length / 2
  ((crossPairs q s j (interleave (w.take m) (w.drop m))).map fun x => [x.1, x.2]).flatten

/-- A stage on n blocks of m wires. -/
def onBlocks (f : Nat → List Nat → List Nat) (m : Nat) : Nat → Nat → List Nat → List Nat
  | 0, _, _ => []
  | n + 1, b, w => f (b * (m / 2)) (w.take m) ++ onBlocks f m n (b + 1) (w.drop m)

/-- The wires after stage s. -/
def stage (q s : Nat) (w : List Nat) : List Nat :=
  let k := min s (10 - s)
  let m := 2 ^ (6 - k)
  if s < 5 then onBlocks (splitBlock q s) m (64 / m) 0 w
  else if s = 5 then middleStage q w
  else onBlocks (joinBlock q s) m (64 / m) 0 w

/-- The permutation of settings: output i carries input π[i]. -/
def permOf {n : Nat} (q : BitVec n) : List Nat :=
  (List.range 11).foldl (fun w s => stage q.toNat s w) (List.range 64)

/-! ### The solver (07 R220) -/

/-- The state of one level of the solver: the switches set to 1, the sources of the upper and of
the lower subnetwork, and which outputs are done. -/
structure SolveState where
  ones : List Nat
  up   : List Nat
  lo   : List Nat
  done : List Bool
deriving DecidableEq, Repr

/-- One bit set, when its value is 1. -/
def SolveState.set (x : SolveState) (s j v : Nat) : SolveState :=
  if v = 1 then { x with ones := (32 * s + j) :: x.ones } else x

/-- The inner loop of the solver from output o, with at most n passes. -/
def solveLoop (b k m s0 : Nat) (src inv : List Nat) : Nat → Nat → Nat → SolveState → SolveState
  | 0, _, _, x => x
  | n + 1, t, o, x =>
    let x := x.set (10 - k) (b * (m / 2) + t) (o - 2 * t)
    let a := src.getD o 0
    let x := x.set k (b * (m / 2) + a / 2) (a % 2)
    let o2 := inv.getD (Nat.xor a 1) 0
    let t2 := o2 / 2
    let x := { x with done := x.done.set t true, up := x.up.set t (a / 2), lo := x.lo.set t2 (a / 2) }
    if t2 = s0 then x else solveLoop b k m s0 src inv n (o2 / 2) (Nat.xor o2 1) x

/-- The inverse of a list of block-local sources. -/
def inverse (src : List Nat) : List Nat :=
  (List.range src.length).foldl (fun inv o => inv.set (src.getD o 0) o)
    (List.replicate src.length 0)

/-- The switches that solve(b, k, src) sets to 1; n is the levels left. -/
def solveBits : Nat → Nat → Nat → List Nat → List Nat
  | 0, _, _, _ => []
  | n + 1, b, k, src =>
    let m := src.length
    if m ≤ 2 then (if src.getD 0 0 = 1 then [32 * 5 + b] else [])
    else
      let inv := inverse src
      let x := (List.range (m / 2)).foldl (fun x s0 =>
        if x.done.getD s0 true then x
        else solveLoop b k m s0 src inv (m / 2) s0 (2 * s0) x)
        { ones := [], up := List.replicate (m / 2) 0, lo := List.replicate (m / 2) 0,
          done := List.replicate (m / 2) false }
      x.ones ++ solveBits n (2 * b) (k + 1) x.up ++ solveBits n (2 * b + 1) (k + 1) x.lo

/-- The settings of a permutation of 64. -/
def solvePerm (p : List Nat) : BitVec 384 :=
  BitVec.ofNat 384 ((solveBits 6 0 0 p).foldl (fun v i => v + 2 ^ i) 0)

/-! ### Index vectors (07 R223) -/

/-- The first index that breaks a bijection: i, v[i], and 1 for out of range or 0 for a
duplicate. -/
def checkVector : Nat → List Nat → List Nat → Option (Nat × Nat × Nat)
  | _, _, [] => none
  | i, seen, v :: r =>
    if 63 < v then some (i, v, 1)
    else if seen.contains v then some (i, v, 0)
    else checkVector (i + 1) (v :: seen) r

/-! ### Cycle structure (07 R228) -/

/-- The elements of the cycle through i after i itself, at most n. -/
def cycleFrom (p : List Nat) (i : Nat) : Nat → Nat → List Nat
  | 0, _ => []
  | n + 1, j => if j = i then [] else j :: cycleFrom p i n (p.getD j 0)

/-- The lengths of the cycles of a permutation: each counted at its lowest element. -/
def cycleLengths (p : List Nat) : List Nat :=
  (List.range p.length).filterMap fun i =>
    let l := cycleFrom p i p.length (p.getD i 0)
    if l.any fun j => decide (j < i) then none else some (l.length + 1)

/-- The word of `qcyc`. -/
def cycleWord (p : List Nat) : Word :=
  let l := cycleLengths p
  BitVec.ofNat 64 (l.length + (l.filter fun n => n == 1).length * 2 ^ 7
    + l.foldl max 0 * 2 ^ 14 + (64 - l.length) % 2 * 2 ^ 21 + l.foldl Nat.lcm 1 * 2 ^ 22)

/-! ### Random permutations (07 R225) -/

/-- A draw below lim; a draw at or above it is made again. The generator's period passes every
value, so the bound on the draws is never reached. -/
def drawBelow (lim : Nat) : Nat → BitVec 32 → Nat × BitVec 32
  | 0, g => (0, g)
  | n + 1, g =>
    let x := srgDraw g
    if x.1 < lim then x else drawBelow lim n x.2

/-- Two elements exchanged. -/
def exchange (p : List Nat) (i j : Nat) : List Nat :=
  (p.set i (p.getD j 0)).set j (p.getD i 0)

/-- The steps of the draw from i = n down to 1. -/
def randomFrom : Nat → List Nat → BitVec 32 → List Nat × BitVec 32
  | 0, p, g => (p, g)
  | i + 1, p, g =>
    let n := i + 2
    let (x, g) := drawBelow (0x10000 - 0x10000 % n) 4096 g
    randomFrom i (exchange p (i + 1) (x % n)) g

/-- The permutation that `qrnd` draws, and the generator after it. -/
def randomPerm (g : BitVec 32) : List Nat × BitVec 32 := randomFrom 63 (List.range 64) g

end Sys2Proof.Machine
end

