-- ==== Sys2Proof/Machine/Footprint.lean ====
section
/-!
DEFINITION. The operand placement of the engine operations and their footprints (07 R199,
R203-R210, R227).
-/

namespace Sys2Proof.Machine

/-! ### Format classes (07 R205) -/

/-- K of a format's class: 64, 128, 256 or, for binary64, 16. -/
def gemmK (fmt : Nat) (e : Elem) : Option Nat :=
  if fmt = 0x10 ∨ fmt = 0x11 then some 64
  else if fmt = 0x01 ∨ fmt = 0x02 then some 128
  else if fmt = 0x30 ∨ fmt = 0x31 then some 256
  else if fmt = 0x13 then some 16
  else if 0x20 ≤ fmt ∧ fmt ≤ 0x27 then
    (if 5 ≤ e.bits then some 128 else if 3 ≤ e.bits then some 256 else none)
  else none

/-- The bytes of a C tile: binary64 or binary32. -/
def tileBytes (wide : Bool) : Nat := if wide then 0x8000 else 0x4000

/-! ### The unfolding configuration (07 R201-R203) -/

/-- A field of a kernel or output word, as the value it stands for. -/
def plusOne (w : Word) (hi lo : Nat) : Nat := field w hi lo + 1

/-- The extent of dimension d of a record, 1 above its rank. -/
def Tlr.dim (t : Tlr) (d : Nat) : Nat := if d < t.rank then nth t.dims d else 1

/-- The rows of A_full. -/
def Munf.rows (m : Munf) : Nat := plusOne m.gc 15 0 * plusOne m.gc 31 16 * plusOne m.gc 47 32

/-- The columns of A_full. -/
def Munf.cols (m : Munf) (t : Tlr) : Nat := t.dim 0 * plusOne m.gb 3 0 * plusOne m.gb 7 4

/-- The bytes from BASE to the end of a tensor, without the bank permutation. -/
def Tlr.span (t : Tlr) : Nat :=
  (fromTo 1 (t.rank - 1)).foldl (fun o d => o + (nth t.dims d - 1) * nth t.strs d)
    (if t.elem.sub then 16 * ((t.eoff + nth t.dims 0 - 1) / t.elem.perGroup) + 16
     else nth t.dims 0 * t.elem.size)

/-! ### Drain descriptors and tiles (07 R209, R227) -/

/-- OFFSET of a descriptor. -/
def descOffset (w : Word) : Nat := field w 16 0
/-- SPACE of a descriptor. -/
def descSpace (w : Word) : Nat := field w 19 17
/-- PITCH of a descriptor. -/
def descPitch (w : Word) : Nat := field w 40 24
/-- FMT of a drain descriptor. -/
def descFmt (w : Word) : Nat := field w 55 48
/-- ROWB of a tile descriptor. -/
def descRowb (w : Word) : Nat := field w 60 48

/-- The typed buffer of a space code 2 to 4. -/
def bufferOf (n : Nat) : Space := if n = 2 then .wb else if n = 3 then .ab else .cb

/-- The bytes of a row of 64 elements. -/
def rowBytes (e : Elem) : Nat := if e.sub then 8 * e.cont else 64 * e.size

/-! ### Footprints (07 R199) -/

/-- The format of a code under an operation's copied NF registers; n8 where there is none, which
acceptance rules out. -/
def MatOp.elem (o : MatOp) (fmt : Nat) : Elem :=
  match recordElem o.nf fmt with
  | some (.ok e) => e
  | _ => intElem false 8

/-- The record of an operation's unfolding configuration. -/
def MatOp.tensor (o : MatOp) : Tlr :=
  match o.munf with
  | some m => tlrOf m.tlr (o.elem (tf m.tlr 1 7 0))
  | none => tlrOf [] (intElem false 8)

/-- The B format's code. -/
def MatOp.bCode (o : MatOp) : Nat :=
  match o.munf with
  | some m => field m.gc 55 48
  | none => 0

/-- Whether an operation's tile holds binary64 elements. -/
def MatOp.wide (o : MatOp) : Bool :=
  match o.kind with
  | .mma | .mmac => o.bCode == 0x13
  | .mmz => bitAt o.xop 0
  | .mmd => bitAt o.xop 1
  | .qtile => false

/-- The bytes of AB in which the element at an inside coordinate lies: the first, and their count. -/
def Tlr.cell (t : Tlr) (co : List Nat) : Nat × Nat :=
  (t.base + (t.locate co).1, if t.elem.sub then 1 else t.elem.size)

/-- The bytes of every element of a tensor in AB. -/
def Tlr.cells (t : Tlr) : List (Space × Nat × Nat) :=
  let dims := t.dims.take t.rank
  (List.range (windowCount dims t.rank)).map fun i => (.ab, t.cell (windowCoord dims i))

/-- The bytes that an operation reads or writes: space, first byte, count. Of the A tensor it is
the bytes of its elements. -/
def MatOp.footprint (o : MatOp) : List (Space × Nat × Nat) :=
  let tile := (Space.cb, field o.ga 15 0, tileBytes o.wide)
  let rows (n : Nat) : List (Space × Nat × Nat) := (List.range 64).map fun i =>
    (bufferOf (descSpace o.gb), descOffset o.gb + i * descPitch o.gb, n)
  let gemm (half : Nat) : List (Space × Nat × Nat) :=
    [(.wb, field o.gb 16 0, 8192 / half), tile] ++ o.tensor.cells
    ++ (if bitAt o.xop 1 then [(bufferOf (descSpace o.sca), descOffset o.sca, 256)] else [])
    ++ (if bitAt o.xop 0 then [(bufferOf (descSpace o.scb), descOffset o.scb, 256 / half)] else [])
  match o.kind with
  | .mma => gemm 1
  | .mmac => gemm 2
  | .mmz => [tile]
  | .mmd => tile :: rows (rowBytes (o.elem (descFmt o.gb)))
  | .qtile => rows (descRowb o.gb)

/-- Whether two byte ranges of the same space meet. -/
def meets (a b : Space × Nat × Nat) : Bool :=
  a.1 == b.1 && decide (a.2.1 < b.2.1 + b.2.2) && decide (b.2.1 < a.2.1 + a.2.2)

/-- Whether some of the given bytes lie in the footprint of an unretired operation of the issuing
thread: its bundle then does not issue (07 R199). -/
def Env.busy (e : Env) (l : List (Space × Nat × Nat)) : Bool :=
  e.core.matq.any fun o => o.slot == e.sl && o.tid == e.slot.tid
    && o.footprint.any fun f => l.any (meets f)

/-- A word that waits for the footprints that its accesses meet. -/
def Env.unlessBusy (e : Env) (l : List (Space × Nat × Nat)) (k : Issue) : Issue :=
  match k with
  | .trap a b c => .trap a b c
  | .trapWith l a b c => .trapWith l a b c
  | k => if e.busy l then .stall [] none else k

end Sys2Proof.Machine
end

