-- ==== Sys2Proof/Machine/Memory.lean ====
section
/-!
DEFINITION. Loads, stores, full/empty words and atomics as they issue (06 R163-R181).
-/

namespace Sys2Proof.Machine

/-! ### Addresses -/

/-- The space of a code 0 to 4. -/
def spaceCode (s : BitVec 3) : Space :=
  match s.toNat with
  | 0 => .gl
  | 1 => .wm
  | 2 => .wb
  | 3 => .ab
  | _ => .cb

/-- The effective address ga + sext(off, n) × size (02 R52). -/
def Env.ea {n : Nat} (e : Env) (a : Reg) (o : BitVec n) (size : Nat) : Word :=
  e.g a + immS o * BitVec.ofNat 64 size

/-- Whether an access is asynchronous when it loads: GL, or the WM of a peer rank (06 R163). -/
def Env.remote (e : Env) (sp : Space) (a : Nat) : Bool :=
  match sp with
  | .gl => true
  | .wm => ! ownRank e.c a
  | _ => false

/-- n bytes of a core's own memories as the slot's thread loads them (06 R166). -/
def Env.ownBytes (e : Env) (sp : Space) (a n : Nat) : List Byte :=
  e.slot.overlaid e.slot.seq sp a
    (readBytes e.s.mem (localKey e.c sp (if sp = .wm then a % 2 ^ 17 else a)) n)

/-- The 0x63 of a destination t0 to t3 (02 R53). -/
def Env.streamDst (e : Env) (d : Reg) (k : Issue) : Issue :=
  if 24 ≤ d.toNat then .trap 0x63 (BitVec.ofNat 64 e.word.toNat) (BitVec.ofNat 32 d.toNat) else k

/-! ### Loads -/

/-- A load of `size` bytes at a, into a destination, with the bits of `keep` delivered. -/
def Env.load (e : Env) (dst : Dst) (sp : Space) (a : Word) (size sext : Nat) (keep : Vec) :
    Issue :=
  checked sp a size (e.unlessBusy [(sp, a.toNat, size)]
    (if e.remote sp a.toNat then
      Issue.effs [e.async dst (.load sp [⟨a.toNat, size, 0⟩] sext keep)]
    else
      let v := loadValue (ofBytes (e.ownBytes sp a.toNat size)) sext &&& keep
      (match dst with
        | .none => Issue.ok {}
        | .g r => e.putG r (v.setWidth 64)
        | .v r => Issue.effs (e.setV r v)).afterLoadsIn sp e))

/-- A scalar load (06 R168). -/
def Env.scalarLoad (e : Env) (d a : Reg) (s : BitVec 3) (o : BitVec 9) (size sext : Nat) : Issue :=
  e.load (.g d) (spaceCode s) (e.ea a o size) size sext (BitVec.allOnes 128)

/-- The mask over the bits of a 128-bit value that a byte-lane mask selects. -/
def laneBits (m : BitVec 16) : Vec :=
  vecOf ((List.range 16).map fun i => if m.getLsbD i then 0xFF else 0)

/-! ### Stores -/

/-- A store's accesses: through the store buffer, or at issue (06 R166). -/
def Env.store (e : Env) (sp : Space) (k : SbKind) : Issue :=
  match sp with
  | .gl | .wm => if e.sbFree then Issue.effs [e.entry k] else .stall [] none
  | _ => match k.parts with
    | some (_, l) => e.unlessBusy (l.map fun p => (sp, p.1, p.2.length))
        (Issue.effs (l.map fun p => .mem (localKey e.c sp p.1) p.2))
    | none => .ok {}

/-- A scalar store (06 R168). -/
def Env.scalarStore (e : Env) (d a : Reg) (s : BitVec 3) (o : BitVec 9) (size : Nat) : Issue :=
  let sp := spaceCode s
  let ea := e.ea a o size
  checked sp ea size (e.store sp (.store sp [(ea.toNat, toBytes size (e.g d).toNat)]))

/-! ### Gather and scatter (06 R171) -/

/-- The lanes of width 2^z bytes: the address of each, none for a null lane. -/
def Env.gatherLanes (e : Env) (a b : Reg) (z : BitVec 2) : List (Option Word) :=
  let w := 2 ^ z.toNat
  (lanes w (e.v b)).map fun o =>
    if o = 2 ^ (8 * w) - 1 then none else some (e.g a + BitVec.ofNat 64 o)

/-- The first lane whose address fails its check: cause, address, lane. -/
def laneFault (sp : Space) (w : Nat) : Nat → List (Option Word) → Option (BitVec 8 × Word × Nat)
  | _, [] => none
  | k, l :: r =>
    match l.bind fun a => (addrFault sp a w).map fun c => (c, a, k) with
    | some x => some x
    | none => laneFault sp w (k + 1) r

/-- A word that goes on only with good lane addresses. -/
def laneChecked (sp : Space) (w : Nat) (l : List (Option Word)) (k : Issue) : Issue :=
  match laneFault sp w 0 l with
  | some (c, a, i) => .trap c a (BitVec.ofNat 32 i)
  | none => k

/-! ### Full/empty and atomic operations (06 R173-R181) -/

/-- Whether the slot's buffer holds an entry for the 8-byte word at an address (06 R176). -/
def Env.wordBuffered (e : Env) (sp : Space) (a : Nat) : Bool :=
  e.slot.sb.any fun x =>
    match x.kind with
    | .store sp' l => sp' == sp && l.any fun p =>
        decide (p.1 < a / 8 * 8 + 8) && decide (a / 8 * 8 < p.1 + p.2.length)
    | .masked sp' b _ m => sp' == sp
        && (((b / 8 == a / 8) && field m 7 0 != 0) || ((b / 8 + 1 == a / 8) && field m 15 8 != 0))
    | .stfe sp' b _ | .stff sp' b _ | .feset sp' b _ => sp' == sp && b / 8 == a / 8
    | .marker => false

/-- `ldfe`, `ldfx` and `fepoll`. -/
def Env.feLoad (e : Env) (k : FeKind) (d a : Reg) (s : BitVec 3) (o : BitVec 9) : Issue :=
  let sp := spaceCode s
  let ea := e.ea a o 8
  checked sp ea 8
    (if e.wordBuffered sp ea.toNat then .stall [] none
    else Issue.effs [e.async (.g d) (.fe k sp ea.toNat 0)])

/-- `stfe`, `stff` and `feset`. -/
def Env.feStore (e : Env) (a : Reg) (s : BitVec 3) (o : BitVec 9)
    (k : Space → Nat → SbKind) : Issue :=
  let sp := spaceCode s
  let ea := e.ea a o 8
  checked sp ea 8
    (if e.sbFree then Issue.effs [e.entry (k sp ea.toNat)] else .stall [] none)

/-- R168: Load a byte, sign-extended. -/
def semLdB (d a : BitVec 5) (s : BitVec 3) (o : BitVec 9) (e : Env) : Issue :=
  e.scalarLoad d a s o 1 8

/-- The step `LD_B`. -/
def execLdB (d a : BitVec 5) (s : BitVec 3) (o : BitVec 9) (s' : State) : Host.Outcome State Fault Refusal :=
  runLone (.ldB d a s o) (semLdB d a s o) s'

/-- R168: Load a byte, zero-extended. -/
def semLdBu (d a : BitVec 5) (s : BitVec 3) (o : BitVec 9) (e : Env) : Issue :=
  e.scalarLoad d a s o 1 0

/-- The step `LD_BU`. -/
def execLdBu (d a : BitVec 5) (s : BitVec 3) (o : BitVec 9) (s' : State) : Host.Outcome State Fault Refusal :=
  runLone (.ldBu d a s o) (semLdBu d a s o) s'

/-- R168: Load a half-word, sign-extended. -/
def semLdH (d a : BitVec 5) (s : BitVec 3) (o : BitVec 9) (e : Env) : Issue :=
  e.scalarLoad d a s o 2 16

/-- The step `LD_H`. -/
def execLdH (d a : BitVec 5) (s : BitVec 3) (o : BitVec 9) (s' : State) : Host.Outcome State Fault Refusal :=
  runLone (.ldH d a s o) (semLdH d a s o) s'

/-- R168: Load a half-word, zero-extended. -/
def semLdHu (d a : BitVec 5) (s : BitVec 3) (o : BitVec 9) (e : Env) : Issue :=
  e.scalarLoad d a s o 2 0

/-- The step `LD_HU`. -/
def execLdHu (d a : BitVec 5) (s : BitVec 3) (o : BitVec 9) (s' : State) : Host.Outcome State Fault Refusal :=
  runLone (.ldHu d a s o) (semLdHu d a s o) s'

/-- R168: Load a word, sign-extended. -/
def semLdW (d a : BitVec 5) (s : BitVec 3) (o : BitVec 9) (e : Env) : Issue :=
  e.scalarLoad d a s o 4 32

/-- The step `LD_W`. -/
def execLdW (d a : BitVec 5) (s : BitVec 3) (o : BitVec 9) (s' : State) : Host.Outcome State Fault Refusal :=
  runLone (.ldW d a s o) (semLdW d a s o) s'

/-- R168: Load a word, zero-extended. -/
def semLdWu (d a : BitVec 5) (s : BitVec 3) (o : BitVec 9) (e : Env) : Issue :=
  e.scalarLoad d a s o 4 0

/-- The step `LD_WU`. -/
def execLdWu (d a : BitVec 5) (s : BitVec 3) (o : BitVec 9) (s' : State) : Host.Outcome State Fault Refusal :=
  runLone (.ldWu d a s o) (semLdWu d a s o) s'

/-- R168: Load a dword. -/
def semLdD (d a : BitVec 5) (s : BitVec 3) (o : BitVec 9) (e : Env) : Issue :=
  e.scalarLoad d a s o 8 0

/-- The step `LD_D`. -/
def execLdD (d a : BitVec 5) (s : BitVec 3) (o : BitVec 9) (s' : State) : Host.Outcome State Fault Refusal :=
  runLone (.ldD d a s o) (semLdD d a s o) s'

/-- R168: Store a byte. -/
def semStB (d a : BitVec 5) (s : BitVec 3) (o : BitVec 9) (e : Env) : Issue :=
  e.scalarStore d a s o 1

/-- The step `ST_B`. -/
def execStB (d a : BitVec 5) (s : BitVec 3) (o : BitVec 9) (s' : State) : Host.Outcome State Fault Refusal :=
  runLone (.stB d a s o) (semStB d a s o) s'

/-- R168: Store a half-word. -/
def semStH (d a : BitVec 5) (s : BitVec 3) (o : BitVec 9) (e : Env) : Issue :=
  e.scalarStore d a s o 2

/-- The step `ST_H`. -/
def execStH (d a : BitVec 5) (s : BitVec 3) (o : BitVec 9) (s' : State) : Host.Outcome State Fault Refusal :=
  runLone (.stH d a s o) (semStH d a s o) s'

/-- R168: Store a word. -/
def semStW (d a : BitVec 5) (s : BitVec 3) (o : BitVec 9) (e : Env) : Issue :=
  e.scalarStore d a s o 4

/-- The step `ST_W`. -/
def execStW (d a : BitVec 5) (s : BitVec 3) (o : BitVec 9) (s' : State) : Host.Outcome State Fault Refusal :=
  runLone (.stW d a s o) (semStW d a s o) s'

/-- R168: Store a dword. -/
def semStD (d a : BitVec 5) (s : BitVec 3) (o : BitVec 9) (e : Env) : Issue :=
  e.scalarStore d a s o 8

/-- The step `ST_D`. -/
def execStD (d a : BitVec 5) (s : BitVec 3) (o : BitVec 9) (s' : State) : Host.Outcome State Fault Refusal :=
  runLone (.stD d a s o) (semStD d a s o) s'

/-- R169: Load 128 bits into a vector register as one access. -/
def semVld (d a : BitVec 5) (s : BitVec 3) (o : BitVec 9) (e : Env) : Issue :=
  e.streamDst d (e.load (.v d) (spaceCode s) (e.ea a o 16) 16 0 (BitVec.allOnes 128))

/-- The step `VLD`. -/
def execVld (d a : BitVec 5) (s : BitVec 3) (o : BitVec 9) (s' : State) : Host.Outcome State Fault Refusal :=
  runLone (.vld d a s o) (semVld d a s o) s'

/-- R169: Store 128 bits from a vector register or port as one access. -/
def semVst (d a : BitVec 5) (s : BitVec 3) (o : BitVec 9) (e : Env) : Issue :=
  let sp := spaceCode s
  let ea := e.ea a o 16
  checked sp ea 16 (e.store sp (.store sp [(ea.toNat, vecBytes (e.v d))]))

/-- The step `VST`. -/
def execVst (d a : BitVec 5) (s : BitVec 3) (o : BitVec 9) (s' : State) : Host.Outcome State Fault Refusal :=
  runLone (.vst d a s o) (semVst d a s o) s'

/-- R170: Load the byte lanes that a mask selects and write zero elsewhere. -/
def semVldm (d a : BitVec 5) (s m : BitVec 3) (o : BitVec 6) (e : Env) : Issue :=
  let sp := spaceCode s
  let ea := e.ea a o 16
  e.streamDst d (checked sp ea 16
    (if e.m (m.setWidth 5) = 0 then Issue.effs (e.setV d 0)
    else e.load (.v d) sp ea 16 0 (laneBits (e.m (m.setWidth 5)))))

/-- The step `VLDM`. -/
def execVldm (d a : BitVec 5) (s m : BitVec 3) (o : BitVec 6) (s' : State) : Host.Outcome State Fault Refusal :=
  runLone (.vldm d a s m o) (semVldm d a s m o) s'

/-- R170: Store the byte lanes that a mask selects. -/
def semVstm (d a : BitVec 5) (s m : BitVec 3) (o : BitVec 6) (e : Env) : Issue :=
  let sp := spaceCode s
  let ea := e.ea a o 16
  checked sp ea 16
    (if e.m (m.setWidth 5) = 0 then .ok {}
    else e.store sp (.masked sp ea.toNat (e.v d) (e.m (m.setWidth 5))))

/-- The step `VSTM`. -/
def execVstm (d a : BitVec 5) (s m : BitVec 3) (o : BitVec 6) (s' : State) : Host.Outcome State Fault Refusal :=
  runLone (.vstm d a s m o) (semVstm d a s m o) s'

/-- R171: Gather lanes from a base plus per-lane offsets. -/
def semVgat (d a b : BitVec 5) (z : BitVec 2) (s : BitVec 3) (e : Env) : Issue :=
  let sp := spaceCode s
  let w := 2 ^ z.toNat
  let l := e.gatherLanes a b z
  let at_ := (l.zipIdx).filterMap fun x => x.1.map fun y => (⟨y.toNat, w, w * x.2⟩ : Lane)
  e.streamDst d (laneChecked sp w l
    (if sp = .gl ∨ at_.any (fun x => e.remote sp x.addr) then
      Issue.effs [e.async (.v d) (.load sp at_ 0 (BitVec.allOnes 128))]
    else
      let v := (at_.map fun x => ofBytes (e.ownBytes sp x.addr w) * 2 ^ (8 * x.pos)).foldl (· + ·) 0
      e.unlessBusy (at_.map fun x => (sp, x.addr, w))
        ((Issue.effs (e.setV d (BitVec.ofNat 128 v))).afterLoadsIn sp e)))

/-- The step `VGAT`. -/
def execVgat (d a b : BitVec 5) (z : BitVec 2) (s : BitVec 3) (s' : State) : Host.Outcome State Fault Refusal :=
  runLone (.vgat d a b z s) (semVgat d a b z s) s'

/-- R171: Scatter lanes to a base plus per-lane offsets in ascending order. -/
def semVsca (d a b : BitVec 5) (z : BitVec 2) (s : BitVec 3) (e : Env) : Issue :=
  let sp := spaceCode s
  let w := 2 ^ z.toNat
  let l := e.gatherLanes a b z
  let parts := (l.zip (lanes w (e.v d))).map fun x =>
    match x.1 with
    | some y => (y.toNat, toBytes w x.2)
    | none => (0, [])
  laneChecked sp w l (e.store sp (.store sp parts))

/-- The step `VSCA`. -/
def execVsca (d a b : BitVec 5) (z : BitVec 2) (s : BitVec 3) (s' : State) : Host.Outcome State Fault Refusal :=
  runLone (.vsca d a b z s) (semVsca d a b z s) s'

/-- R172: Ask the station to bring a line into its memory-side cache. -/
def semPref (_a : BitVec 5) (_s : BitVec 3) (_o : BitVec 9) (_e : Env) : Issue :=
  .ok {}

/-- The step `PREF`. -/
def execPref (a : BitVec 5) (s : BitVec 3) (o : BitVec 9) (s' : State) : Host.Outcome State Fault Refusal :=
  runLone (.pref a s o) (semPref a s o) s'

/-- R174: Wait for a word to be full, read it and set it empty, with acquire. -/
def semLdfe (d a : BitVec 5) (s : BitVec 3) (o : BitVec 9) (e : Env) : Issue :=
  e.feLoad .ldfe d a s o

/-- The step `LDFE`. -/
def execLdfe (d a : BitVec 5) (s : BitVec 3) (o : BitVec 9) (s' : State) : Host.Outcome State Fault Refusal :=
  runLone (.ldfe d a s o) (semLdfe d a s o) s'

/-- R174: Wait for a word to be full and read it, leaving it full, with acquire. -/
def semLdfx (d a : BitVec 5) (s : BitVec 3) (o : BitVec 9) (e : Env) : Issue :=
  e.feLoad .ldfx d a s o

/-- The step `LDFX`. -/
def execLdfx (d a : BitVec 5) (s : BitVec 3) (o : BitVec 9) (s' : State) : Host.Outcome State Fault Refusal :=
  runLone (.ldfx d a s o) (semLdfx d a s o) s'

/-- R174: Read a word's full/empty tag. -/
def semFepoll (d a : BitVec 5) (s : BitVec 3) (o : BitVec 9) (e : Env) : Issue :=
  e.feLoad .fepoll d a s o

/-- The step `FEPOLL`. -/
def execFepoll (d a : BitVec 5) (s : BitVec 3) (o : BitVec 9) (s' : State) : Host.Outcome State Fault Refusal :=
  runLone (.fepoll d a s o) (semFepoll d a s o) s'

/-- R174: Wait for a word to be empty, write it and set it full, with release. -/
def semStfe (d a : BitVec 5) (s : BitVec 3) (o : BitVec 9) (e : Env) : Issue :=
  e.feStore a s o fun sp x => .stfe sp x (e.g d)

/-- The step `STFE`. -/
def execStfe (d a : BitVec 5) (s : BitVec 3) (o : BitVec 9) (s' : State) : Host.Outcome State Fault Refusal :=
  runLone (.stfe d a s o) (semStfe d a s o) s'

/-- R174: Write a word and set it full, with release. -/
def semStff (d a : BitVec 5) (s : BitVec 3) (o : BitVec 9) (e : Env) : Issue :=
  e.feStore a s o fun sp x => .stff sp x (e.g d)

/-- The step `STFF`. -/
def execStff (d a : BitVec 5) (s : BitVec 3) (o : BitVec 9) (s' : State) : Host.Outcome State Fault Refusal :=
  runLone (.stff d a s o) (semStff d a s o) s'

/-- R174: Set a word's tag empty, with release. -/
def semFesetE (a : BitVec 5) (s : BitVec 3) (o : BitVec 9) (e : Env) : Issue :=
  e.feStore a s o fun sp x => .feset sp x false

/-- The step `FESET_E`. -/
def execFesetE (a : BitVec 5) (s : BitVec 3) (o : BitVec 9) (s' : State) : Host.Outcome State Fault Refusal :=
  runLone (.fesetE a s o) (semFesetE a s o) s'

/-- R174: Set a word's tag full, with release. -/
def semFesetF (a : BitVec 5) (s : BitVec 3) (o : BitVec 9) (e : Env) : Issue :=
  e.feStore a s o fun sp x => .feset sp x true

/-- The step `FESET_F`. -/
def execFesetF (a : BitVec 5) (s : BitVec 3) (o : BitVec 9) (s' : State) : Host.Outcome State Fault Refusal :=
  runLone (.fesetF a s o) (semFesetF a s o) s'

/-- R179: Atomically replace a word with op(old, gb) and return the old value. -/
def semAmo (d a b : BitVec 5) (s : BitVec 2) (z : BitVec 1) (o : BitVec 4) (e : Env) : Issue :=
  let sp := spaceCode (s.setWidth 3)
  checked sp (e.g a) (if z = 1 then 8 else 4)
    (Issue.effs [e.async (.g d) (.amo o sp (e.g a).toNat (z == 1) (e.g b))])

/-- The step `AMO`. -/
def execAmo (d a b : BitVec 5) (s : BitVec 2) (z : BitVec 1) (o : BitVec 4) (s' : State) : Host.Outcome State Fault Refusal :=
  runLone (.amo d a b s z o) (semAmo d a b s z o) s'

/-- R180: Atomically compare a word and swap it, returning the old value. -/
def semCas (d a b c : BitVec 5) (s z : BitVec 1) (e : Env) : Issue :=
  let sp := spaceCode (s.setWidth 3)
  checked sp (e.g a) (if z = 1 then 8 else 4)
    (Issue.effs [e.async (.g d) (.cas sp (e.g a).toNat (z == 1) (e.g b) (e.g c))])

/-- The step `CAS`. -/
def execCas (d a b c : BitVec 5) (s z : BitVec 1) (s' : State) : Host.Outcome State Fault Refusal :=
  runLone (.cas d a b c s z) (semCas d a b c s z) s'

end Sys2Proof.Machine
end

