-- ==== Sys2Proof/Machine/Sync.lean ====
section
/-!
DEFINITION. Fences, barriers, channels, streams, the twin window, X-format engine commands and layer
instructions as they issue (06 R182-R195, 08 R236, R241, R242, R253-R266).
-/

namespace Sys2Proof.Machine

/-! ### Scopes (06 R182) -/

/-- A word that goes on with the scope that it names; a register scope that fails traps 0x60. -/
def Env.withScope (e : Env) (r : BitVec 1) (v : BitVec 3) (a : Reg) (k : ScopeName → Issue) :
    Issue :=
  if r = 0 then k (levelScope e.c e.sl v)
  else match resolveScope e.s e.c e.sl (e.g a) with
    | some n => k n
    | none => .trap 0x60 (e.g a) 0

/-- Whether a scope is the lane level. -/
def ScopeName.isLane (n : ScopeName) : Bool :=
  match n with
  | .level l _ => l == 6
  | _ => false

/-- A fence: whether it places a release marker, and how it parks (06 R183). A fence at lane
level has no effect. -/
def Env.fence (e : Env) (r : BitVec 1) (v : BitVec 3) (a : Reg) (mark : Bool)
    (park : ScopeName → Option ParkKind) : Issue :=
  e.withScope r v a fun n =>
    if n.isLane then .ok {}
    else if mark then
      if e.sbFree then .ok { effs := [e.entry .marker], park := park n } else .stall [] none
    else .ok { park := park n }

/-- An arrival at a barrier instance (06 R185, R186). -/
def Env.arrive (e : Env) (d a b : Reg) (v : BitVec 3) (r : BitVec 1) (n : BitVec 2)
    (park : Option ParkKind) : Issue :=
  e.withScope r v a fun sc =>
    let g := e.g b
    if g = 0 ∨ field g 63 32 ≠ 0 then .trap 0x62 g 0
    else
      let name : BarName := { pid := e.pid, scope := sc, regForm := r == 1, num := n }
      .ok { effs := [e.async (.g d) (.barrier name g.toNat) (if sc.isLane then .done 0 else .sent)],
            park := park }

/-! ### Channels (06 R188, R189) -/

/-- The oldest delivered message on a port for a process, and the others. -/
def takeMsg (pid : BitVec 20) (port : BitVec 6) : List Msg → Option (Msg × List Msg)
  | [] => none
  | m :: r =>
    if m.pid == pid && m.port == port then some (m, r)
    else (takeMsg pid port r).map fun x => (x.1, m :: x.2)

/-- A waiting `recv` of a core served when a message is there for it. -/
def Run.serveRecv (r : Run) (c : Nat) (w : Nat × Nat) : Run :=
  match (r.s.slot c w.1).findOp w.2 with
  | some o =>
    match o.kind with
    | .recv port =>
      match takeMsg (r.s.pidOf c) port (r.s.core c).rx with
      | some (m, rest) =>
        (r.modCore c fun y => { y with rx := rest, recvs := y.recvs.filter fun p => p ≠ w }).modSlot
          c w.1 fun x => x.setOp { o with st := .done m.data }
      | none => r
    | _ => r
  | none => r

/-- The waiting `recv`s of a core served in issue order. -/
def Run.serveRecvs (r : Run) (c : Nat) : Run :=
  (r.s.core c).recvs.foldl (fun r w => r.serveRecv c w) r

/-! ### The twin window (06 R193-R195) -/

/-- A core with the tag of entry i of its window set. -/
def CoreSt.tagTwin (x : CoreSt) (i : Nat) (full : Bool) : CoreSt :=
  let bit := BitVec.ofNat 16 (2 ^ i)
  { x with twinFull := if full then x.twinFull ||| bit else x.twinFull &&& ~~~ bit }

/-- An access to the twin's window: it traps 0x43 when the twin core holds no context of the
process. A `twput` does not issue while that context is pre-empted; a `twtest.twin` has no such
wait, so it reads the window until the save and traps once the twin is free (06 R195; log 66). -/
def Env.twinReach (e : Env) (put : Bool) (k : Issue) : Issue :=
  let t := twinOf e.c
  let none_ : Issue := .trap 0x43 (BitVec.ofNat 64 t) 0
  match peerReach e.s e.c t with
  | some true => k
  | some false =>
    if put then .stall [] none
    else if (e.s.core t).ctx.isSome && e.s.pidOf t == e.pid then k else none_
  | none => none_

/-- Whether a release marker of the slot is still in its buffer: a `twput` waits for it, so that
the reader sees the stores that the fence released (06 R195; log 66). -/
def Env.markerBuffered (e : Env) : Bool :=
  e.slot.sb.any fun x => match x.kind with
    | .marker => true
    | _ => false

/-- A window access that waits for its entry's tag (06 R194): the thread sleeps on an F/E word. -/
def Env.twinSleep (e : Env) : Issue := .stall [] (some (0, BitVec.ofNat 64 e.word.toNat))

/-! ### Records in local WM -/

/-- A word that goes on with the record at a local WM address, read as ordinary loads (06 R191, 08
R242, 14 R332). -/
def Env.withRecord (e : Env) (a : Word) (k : Except TlrErr Tlr → Issue) : Issue :=
  match localCheck e.c a 8 96 with
  | some cause => .trap cause a 0
  | none => (k (checkTlr e.core (readRecord e.s e.c e.slot a.toNat) true)).afterLoads e

/-- The bytes of a record's window, sub-byte data packed (06 R191). -/
def Tlr.windowBytes (t : Tlr) : Nat := ceilDiv (t.count * t.elem.cont) 8

/-! ### Engine commands of the X format (08 R236) -/

/-- The header that an X-format engine instruction builds. -/
def xHeader (xop : Nat) (ga gb gc : Word) : Vec :=
  BitVec.ofNat 128 (xop + field ga 18 0 * 2 ^ 24 + field gb 18 0 * 2 ^ 43 + gc.toNat * 2 ^ 64)

/-- The push of an X-format engine instruction. -/
def Env.xPush (e : Env) (eng xop : Nat) (a b c : Reg) : Issue :=
  if field (e.g a) 63 19 ≠ 0 then .trap 0x41 (e.g a) 0
  else if field (e.g b) 63 19 ≠ 0 then .trap 0x41 (e.g b) 0
  else e.push eng (xHeader xop (e.g a) (e.g b) (e.g c))

/-! ### Layer instructions as they issue (08 R253, R258) -/

/-- A layer instruction sent to the Lehr with its operands: ids are those among the operands that
must be below 4,096, and addresses those that must be aligned. -/
def Env.layer (e : Env) (op : BitVec 8) (xop : BitVec 7) (dst : Dst) (a b c : Word)
    (ids : List Word) (addrs : List (Word × Nat)) : Issue :=
  match e.ctx.bind Context.scene with
  | none => .trap 0x92 (BitVec.ofNat 64 e.word.toNat) 0
  | some _ =>
    match ids.find? fun i => field i 63 12 != 0 with
    | some i => .trap 0x90 i 0
    | none =>
      match addrs.find? fun x => x.1.toNat % x.2 != 0 with
      | some x => .trap 0x40 x.1 0
      | none => Issue.effs [e.async dst
          (.layer { op := op, xop := xop, a := a, b := b, c := c, word := e.word })]

/-- R183: Park as a park marker would, acquiring in the scope. -/
def semFenceAcq (a : BitVec 5) (v : BitVec 3) (r : BitVec 1) (e : Env) : Issue :=
  e.fence r v a false (fun _ => some .marker)

/-- The step `FENCE_ACQ`. -/
def execFenceAcq (a : BitVec 5) (v : BitVec 3) (r : BitVec 1) (s' : State) : Host.Outcome State Fault Refusal :=
  runLone (.fenceAcq a v r) (semFenceAcq a v r) s'

/-- R183: Place a release marker in the store buffer and continue. -/
def semFenceRel (a : BitVec 5) (v : BitVec 3) (r : BitVec 1) (e : Env) : Issue :=
  e.fence r v a true (fun _ => none)

/-- The step `FENCE_REL`. -/
def execFenceRel (a : BitVec 5) (v : BitVec 3) (r : BitVec 1) (s' : State) : Host.Outcome State Fault Refusal :=
  runLone (.fenceRel a v r) (semFenceRel a v r) s'

/-- R183: Place a release marker and park. -/
def semFenceAr (a : BitVec 5) (v : BitVec 3) (r : BitVec 1) (e : Env) : Issue :=
  e.fence r v a true (fun _ => some .marker)

/-- The step `FENCE_AR`. -/
def execFenceAr (a : BitVec 5) (v : BitVec 3) (r : BitVec 1) (s' : State) : Host.Outcome State Fault Refusal :=
  runLone (.fenceAr a v r) (semFenceAr a v r) s'

/-- R183: Park until every operation has returned and every store is visible throughout the scope. -/
def semFenceSc (a : BitVec 5) (v : BitVec 3) (r : BitVec 1) (e : Env) : Issue :=
  e.fence r v a false (fun n => some (.fenceSc n))

/-- The step `FENCE_SC`. -/
def execFenceSc (a : BitVec 5) (v : BitVec 3) (r : BitVec 1) (s' : State) : Host.Outcome State Fault Refusal :=
  runLone (.fenceSc a v r) (semFenceSc a v r) s'

/-- R185: Arrive at a barrier and park until its episode completes, receiving the arrival rank. -/
def semBar (d a b : BitVec 5) (v : BitVec 3) (r : BitVec 1) (n : BitVec 2) (e : Env) : Issue :=
  e.arrive d a b v r n (some .marker)

/-- The step `BAR`. -/
def execBar (d a b : BitVec 5) (v : BitVec 3) (r : BitVec 1) (n : BitVec 2) (s' : State) : Host.Outcome State Fault Refusal :=
  runLone (.bar d a b v r n) (semBar d a b v r n) s'

/-- R185: Arrive at a barrier without parking. -/
def semBarnb (d a b : BitVec 5) (v : BitVec 3) (r : BitVec 1) (n : BitVec 2) (e : Env) : Issue :=
  e.arrive d a b v r n none

/-- The step `BARNB`. -/
def execBarnb (d a b : BitVec 5) (v : BitVec 3) (r : BitVec 1) (n : BitVec 2) (s' : State) : Host.Outcome State Fault Refusal :=
  runLone (.barnb d a b v r n) (semBarnb d a b v r n) s'

/-- R188: Queue a 128-bit message for a port of a core in the package. -/
def semSend (a b : BitVec 5) (n : BitVec 6) (e : Env) : Issue :=
  let g := e.g a
  if field g 63 12 ≠ 0 then .trap 0x61 g 0
  else if 4 ≤ e.slot.outq.length then .stall [] none
  else
    let m : OutMsg :=
      { dest := g.toNat, seq := e.slot.seq, tid := e.slot.tid, held := false,
        msg := { pid := e.pid, port := n, data := e.v b, launch := e.slot.launch } }
    .ok { late := fun r => r.modSlot e.c e.sl fun x => { x with outq := x.outq ++ [m] } }

/-- The step `SEND`. -/
def execSend (a b : BitVec 5) (n : BitVec 6) (s' : State) : Host.Outcome State Fault Refusal :=
  runLone (.send a b n) (semSend a b n) s'

/-- R189: Take the oldest delivered message on a port, asynchronously. -/
def semRecv (d : BitVec 5) (n : BitVec 6) (e : Env) : Issue :=
  let w := (e.sl, e.slot.seq)
  e.streamDst d (.ok {
    effs := [e.async (.v d) (.recv n)],
    late := fun r => (r.modCore e.c fun y => { y with recvs := y.recvs ++ [w] }).serveRecvs e.c })

/-- The step `RECV`. -/
def execRecv (d : BitVec 5) (n : BitVec 6) (s' : State) : Host.Outcome State Fault Refusal :=
  runLone (.recv d n) (semRecv d n) s'

/-- R189: Count the unclaimed delivered messages on a port. -/
def semRprobe (d : BitVec 5) (n : BitVec 6) (e : Env) : Issue :=
  let l := e.core.rx.filter fun m => m.pid == e.pid && m.port == n
  e.putG d (BitVec.ofNat 64 l.length)

/-- The step `RPROBE`. -/
def execRprobe (d : BitVec 5) (n : BitVec 6) (s' : State) : Host.Outcome State Fault Refusal :=
  runLone (.rprobe d n) (semRprobe d n) s'

/-- R191: Bind a stream port to an e0 copy of a record's window. -/
def semSbind (d a : BitVec 5) (e : Env) : Issue :=
  e.withRecord (e.g a) fun t =>
    match t with
    | .error x => .trap x.cause x.aux x.aux2
    | .ok t =>
      let b : Stream :=
        { tlr := t.dws, total := ceilDiv t.windowBytes 16, fetched := 0, taken := 0, fifo := [],
          seq := e.slot.seq, tries := 0 }
      .ok { late := fun r => r.modSlot e.c e.sl fun x =>
        { x with streams := mapPut x.streams (d.toNat - 24) b } }

/-- The step `SBIND`. -/
def execSbind (d a : BitVec 5) (s' : State) : Host.Outcome State Fault Refusal :=
  runLone (.sbind d a) (semSbind d a) s'

/-- R192: Stop a stream's copy and discard unread elements. -/
def semSclose (d : BitVec 5) (e : Env) : Issue :=
  .ok { late := fun r => r.modSlot e.c e.sl fun x =>
    { x with streams := mapDel x.streams (d.toNat - 24) } }

/-- The step `SCLOSE`. -/
def execSclose (d : BitVec 5) (s' : State) : Host.Outcome State Fault Refusal :=
  runLone (.sclose d) (semSclose d) s'

/-- R194: Write an entry of the twin's window, waiting for empty with FE. -/
def semTwput (d : BitVec 5) (fe : BitVec 1) (i : BitVec 4) (e : Env) : Issue :=
  let t := twinOf e.c
  e.twinReach true
    (if e.markerBuffered then .stall [] none
    else if fe = 1 ∧ (e.s.core t).twinAt i.toNat then e.twinSleep
    else
      let v := e.v d
      .ok { late := fun r => r.modCore t fun y =>
        { y with twin := mapSet 0 y.twin i.toNat v }.tagTwin i.toNat true })

/-- The step `TWPUT`. -/
def execTwput (d : BitVec 5) (fe : BitVec 1) (i : BitVec 4) (s' : State) : Host.Outcome State Fault Refusal :=
  runLone (.twput d fe i) (semTwput d fe i) s'

/-- R194: Read an entry of the own window, waiting for full with FE. -/
def semTwget (d : BitVec 5) (fe : BitVec 1) (i : BitVec 4) (e : Env) : Issue :=
  e.streamDst d
    (if fe = 1 ∧ ! e.core.twinAt i.toNat then e.twinSleep
    else
      let l := e.setV d (mapGet 0 e.core.twin i.toNat)
      if fe = 1 then .ok { effs := l, late := fun r => r.modCore e.c fun y => y.tagTwin i.toNat false }
      else Issue.effs l)

/-- The step `TWGET`. -/
def execTwget (d : BitVec 5) (fe : BitVec 1) (i : BitVec 4) (s' : State) : Host.Outcome State Fault Refusal :=
  runLone (.twget d fe i) (semTwget d fe i) s'

/-- R193: Read the full bits of the own or the twin's window. -/
def semTwtest (d : BitVec 5) (w : BitVec 1) (e : Env) : Issue :=
  if w = 1 then e.twinReach false (e.putG d ((e.s.core (twinOf e.c)).twinFull.setWidth 64))
  else e.putG d (e.core.twinFull.setWidth 64)

/-- The step `TWTEST`. -/
def execTwtest (d : BitVec 5) (w : BitVec 1) (s' : State) : Host.Outcome State Fault Refusal :=
  runLone (.twtest d w) (semTwtest d w) s'

/-- R243: Push an e0 command that copies a source window into a destination window, optionally permuting rows. -/
def semXcopy (a b c : BitVec 5) (fe : BitVec 1) (q : BitVec 3) (e : Env) : Issue :=
  e.xPush 0 (fe.toNat * 64 + q.toNat * 8) a b c

/-- The step `XCOPY`. -/
def execXcopy (a b c : BitVec 5) (fe : BitVec 1) (q : BitVec 3) (s' : State) : Host.Outcome State Fault Refusal :=
  runLone (.xcopy a b c fe q) (semXcopy a b c fe q) s'

/-- R244: Push an e0 command that writes the destination record's fill value into its window. -/
def semXcopyFill (a b c : BitVec 5) (fe : BitVec 1) (q : BitVec 3) (e : Env) : Issue :=
  e.xPush 0 (fe.toNat * 64 + q.toNat * 8 + 1) a b c

/-- The step `XCOPY_FILL`. -/
def execXcopyFill (a b c : BitVec 5) (fe : BitVec 1) (q : BitVec 3) (s' : State) : Host.Outcome State Fault Refusal :=
  runLone (.xcopyFill a b c fe q) (semXcopyFill a b c fe q) s'

/-- R246: Push an e1 command that gathers rows by an index list. -/
def semXgat (a b c : BitVec 5) (e : Env) : Issue :=
  e.xPush 1 0 a b c

/-- The step `XGAT`. -/
def execXgat (a b c : BitVec 5) (s' : State) : Host.Outcome State Fault Refusal :=
  runLone (.xgat a b c) (semXgat a b c) s'

/-- R246: Push an e1 command that scatters rows by an index list. -/
def semXgatSca (a b c : BitVec 5) (e : Env) : Issue :=
  e.xPush 1 1 a b c

/-- The step `XGAT_SCA`. -/
def execXgatSca (a b c : BitVec 5) (s' : State) : Host.Outcome State Fault Refusal :=
  runLone (.xgatSca a b c) (semXgatSca a b c) s'

/-- R246: Push an e1 command that scatters and adds rows by an index list. -/
def semXgatScadd (a b c : BitVec 5) (e : Env) : Issue :=
  e.xPush 1 2 a b c

/-- The step `XGAT_SCADD`. -/
def execXgatScadd (a b c : BitVec 5) (s' : State) : Host.Outcome State Fault Refusal :=
  runLone (.xgatScadd a b c) (semXgatScadd a b c) s'

/-- R247: Push a Marver command that changes layout, transposes and converts a window. -/
def semXform (a b c : BitVec 5) (e : Env) : Issue :=
  e.xPush 2 0 a b c

/-- The step `XFORM`. -/
def execXform (a b c : BitVec 5) (s' : State) : Host.Outcome State Fault Refusal :=
  runLone (.xform a b c) (semXform a b c) s'

/-- R248: Push a Marver command that expands an interleaved rANS blob. -/
def semXformRans (a b c : BitVec 5) (e : Env) : Issue :=
  e.xPush 2 1 a b c

/-- The step `XFORM_RANS`. -/
def execXformRans (a b c : BitVec 5) (s' : State) : Host.Outcome State Fault Refusal :=
  runLone (.xformRans a b c) (semXformRans a b c) s'

/-- R252: Push an e3 command that joins a reduction collective over a scope. -/
def semXcoll (a b c : BitVec 5) (e : Env) : Issue :=
  e.xPush 3 0 a b c

/-- The step `XCOLL`. -/
def execXcoll (a b c : BitVec 5) (s' : State) : Host.Outcome State Fault Refusal :=
  runLone (.xcoll a b c) (semXcoll a b c) s'

/-- R252: Push an e3 command that joins a broadcast collective over a scope. -/
def semXcollBcast (a b c : BitVec 5) (e : Env) : Issue :=
  e.xPush 3 1 a b c

/-- The step `XCOLL_BCAST`. -/
def execXcollBcast (a b c : BitVec 5) (s' : State) : Host.Outcome State Fault Refusal :=
  runLone (.xcollBcast a b c) (semXcollBcast a b c) s'

/-- R241: Wait until a barrier object's COUNT reaches a target, acquiring the engine's writes. -/
def semXwait (d a : BitVec 5) (e : Env) : Issue :=
  checked .wm (e.g a) 8 (.ok {
    effs := [e.async (.g d) (.xwait (e.g a).toNat (field (e.g d) 62 0) false)],
    park := some .marker })

/-- The step `XWAIT`. -/
def execXwait (d a : BitVec 5) (s' : State) : Host.Outcome State Fault Refusal :=
  runLone (.xwait d a) (semXwait d a) s'

/-- R241: Read a barrier object without waiting, acquiring only if COUNT has reached the target. -/
def semXwaitPoll (d a : BitVec 5) (e : Env) : Issue :=
  checked .wm (e.g a) 8 (Issue.effs
    [e.async (.g d) (.xwait (e.g a).toNat (field (e.g d) 62 0) true)])

/-- The step `XWAIT_POLL`. -/
def execXwaitPoll (d a : BitVec 5) (s' : State) : Host.Outcome State Fault Refusal :=
  runLone (.xwaitPoll d a) (semXwaitPoll d a) s'

/-- R242: Check a tensor layout record and return the result without trapping on it. -/
def semTlrchk (a b : BitVec 5) (e : Env) : Issue :=
  e.withRecord (e.g a) fun t =>
    match t with
    | .ok _ => e.putG b 0
    | .error x => e.putG b (BitVec.ofNat 64
        (2 ^ 63 + x.bit * 2 ^ 16 + x.cause.toNat * 2 ^ 8 + x.dword))

/-- The step `TLRCHK`. -/
def execTlrchk (a b : BitVec 5) (s' : State) : Host.Outcome State Fault Refusal :=
  runLone (.tlrchk a b) (semTlrchk a b) s'

/-- R259: Allocate the lowest free layer id and initialise its entry. -/
def semLnew (a b c : BitVec 5) (e : Env) : Issue :=
  e.layer 0x3D 0 (.g b) (e.g a) 0 (e.g c) [] [(e.g a, 8)]

/-- The step `LNEW`. -/
def execLnew (a b c : BitVec 5) (s' : State) : Host.Outcome State Fault Refusal :=
  runLone (.lnew a b c) (semLnew a b c) s'

/-- R259: Free a layer and clear the caster fields that name it. -/
def semLfree (a : BitVec 5) (e : Env) : Issue :=
  e.layer 0x3E 0 .none (e.g a) 0 0 [e.g a] []

/-- The step `LFREE`. -/
def execLfree (a : BitVec 5) (s' : State) : Host.Outcome State Fault Refusal :=
  runLone (.lfree a) (semLfree a) s'

/-- R260: Copy a pose record into a layer's current pose and side entry. -/
def semLpose (a b : BitVec 5) (e : Env) : Issue :=
  e.layer 0x3F 0 .none (e.g a) (e.g b) 0 [e.g a] [(e.g b, 8)]

/-- The step `LPOSE`. -/
def execLpose (a b : BitVec 5) (s' : State) : Host.Outcome State Fault Refusal :=
  runLone (.lpose a b) (semLpose a b) s'

/-- R261: Publish a layer's surface and pose and mark its shadow receivers stale. -/
def semLcommit (a b : BitVec 5) (e : Env) : Issue :=
  e.layer 0x40 0 .none (e.g a) (e.g b) 0 [e.g a] [(e.g b, 8)]

/-- The step `LCOMMIT`. -/
def execLcommit (a b : BitVec 5) (s' : State) : Host.Outcome State Fault Refusal :=
  runLone (.lcommit a b) (semLcommit a b) s'

/-- R262: Move the selected pixels of a layer into a new child layer. -/
def semLsplit (a b c : BitVec 5) (e : Env) : Issue :=
  e.layer 0x41 0 (.g b) (e.g a) (e.g b) (e.g c) [e.g a] [(e.g b, 8), (e.g c, 8)]

/-- The step `LSPLIT`. -/
def execLsplit (a b c : BitVec 5) (s' : State) : Host.Outcome State Fault Refusal :=
  runLone (.lsplit a b c) (semLsplit a b c) s'

/-- R263: Fold an absorbed layer into a survivor and free it. -/
def semLmerge (a b c : BitVec 5) (e : Env) : Issue :=
  e.layer 0x42 0 .none (e.g a) (e.g b) (e.g c) [e.g a, e.g b] [(e.g c, 8)]

/-- The step `LMERGE`. -/
def execLmerge (a b c : BitVec 5) (s' : State) : Host.Outcome State Fault Refusal :=
  runLone (.lmerge a b c) (semLmerge a b c) s'

/-- R264: Return a layer's AGE and ERROR. -/
def semLerr (a b : BitVec 5) (e : Env) : Issue :=
  e.layer 0x43 0 (.g b) (e.g a) 0 0 [e.g a] []

/-- The step `LERR`. -/
def execLerr (a b : BitVec 5) (s' : State) : Host.Outcome State Fault Refusal :=
  runLone (.lerr a b) (semLerr a b) s'

/-- R264: Return a layer's header dword 0. -/
def semLerrHdr (a b : BitVec 5) (e : Env) : Issue :=
  e.layer 0x43 1 (.g b) (e.g a) 0 0 [e.g a] []

/-- The step `LERR_HDR`. -/
def execLerrHdr (a b : BitVec 5) (s' : State) : Host.Outcome State Fault Refusal :=
  runLone (.lerrHdr a b) (semLerrHdr a b) s'

/-- R264: Set a layer's price. -/
def semLprice (a b : BitVec 5) (e : Env) : Issue :=
  e.layer 0x44 0 .none (e.g a) (e.g b) 0 [e.g a] []

/-- The step `LPRICE`. -/
def execLprice (a b : BitVec 5) (s' : State) : Host.Outcome State Fault Refusal :=
  runLone (.lprice a b) (semLprice a b) s'

/-- R264: Set a layer's order key. -/
def semLorder (a b : BitVec 5) (e : Env) : Issue :=
  e.layer 0x45 0 .none (e.g a) (e.g b) 0 [e.g a] []

/-- The step `LORDER`. -/
def execLorder (a b : BitVec 5) (s' : State) : Host.Outcome State Fault Refusal :=
  runLone (.lorder a b) (semLorder a b) s'

/-- R264: Set a layer's light mask and light penalty. -/
def semLlight (a b c : BitVec 5) (e : Env) : Issue :=
  e.layer 0x46 0 .none (e.g a) (e.g b) (e.g c) [e.g a] []

/-- The step `LLIGHT`. -/
def execLlight (a b c : BitVec 5) (s' : State) : Host.Outcome State Fault Refusal :=
  runLone (.llight a b c) (semLlight a b c) s'

/-- R264: Advance a light slot and mark its subscribed layers light-stale. -/
def semLlightBump (a : BitVec 5) (e : Env) : Issue :=
  if e.ctx.bind Context.scene ≠ none ∧ 63 < (e.g a).toNat then .trap 0x90 (e.g a) 2
  else e.layer 0x46 1 .none (e.g a) 0 0 [] []

/-- The step `LLIGHT_BUMP`. -/
def execLlightBump (a : BitVec 5) (s' : State) : Host.Outcome State Fault Refusal :=
  runLone (.llightBump a) (semLlightBump a) s'

/-- R265: Set a layer's caster fields. -/
def semLshadow (a b : BitVec 5) (e : Env) : Issue :=
  if e.ctx.bind Context.scene ≠ none ∧ field (e.g a) 63 12 = 0 ∧ field (e.g b) 63 52 ≠ 0 then
    .trap 0x94 (e.g b) 4
  else e.layer 0x47 0 .none (e.g a) (e.g b) 0 [e.g a] []

/-- The step `LSHADOW`. -/
def execLshadow (a b : BitVec 5) (s' : State) : Host.Outcome State Fault Refusal :=
  runLone (.lshadow a b) (semLshadow a b) s'

/-- R266: Copy a 64-byte re-render template into a layer's side entry. -/
def semLreqTmpl (a b : BitVec 5) (e : Env) : Issue :=
  e.layer 0x48 0 .none (e.g a) (e.g b) 0 [e.g a] [(e.g b, 64)]

/-- The step `LREQ_TMPL`. -/
def execLreqTmpl (a b : BitVec 5) (s' : State) : Host.Outcome State Fault Refusal :=
  runLone (.lreqTmpl a b) (semLreqTmpl a b) s'

/-- R266: Push a layer's template into the render deque when REQ is 0. -/
def semLreqNow (a : BitVec 5) (e : Env) : Issue :=
  e.layer 0x48 1 .none (e.g a) 0 0 [e.g a] []

/-- The step `LREQ_NOW`. -/
def execLreqNow (a : BitVec 5) (s' : State) : Host.Outcome State Fault Refusal :=
  runLone (.lreqNow a) (semLreqNow a) s'

/-- R266: Clear a layer's REQ. -/
def semLreqClr (a : BitVec 5) (e : Env) : Issue :=
  e.layer 0x48 2 .none (e.g a) 0 0 [e.g a] []

/-- The step `LREQ_CLR`. -/
def execLreqClr (a : BitVec 5) (s' : State) : Host.Outcome State Fault Refusal :=
  runLone (.lreqClr a) (semLreqClr a) s'

end Sys2Proof.Machine
end

