-- ==== Sys2Proof/Machine/Io.lean ====
section
/-!
DEFINITION. Accesses to GL by an agent of a context: the Lehr, the Gaffer, an engine, a core. An
access of several lines is made line by line; a page that is missing is requested (16 R364).
-/

namespace Sys2Proof.Machine

/-- What a sequence of accesses comes to. -/
inductive Io (α : Type) where
  | ok (v : α) (r : Run)
  /-- An access waits for a page or for a link. -/
  | wait (r : Run)
  | fault (cause : BitVec 8) (addr : Nat) (aux2 : BitVec 32) (r : Run)

/-- What follows an access that succeeds. -/
def Io.bind {α β : Type} (x : Io α) (k : α → Run → Io β) : Io β :=
  match x with
  | .ok v r => k v r
  | .wait r => .wait r
  | .fault c a b r => .fault c a b r

/-- The process identifier of a context. -/
def ctxPid (x : Option Context) : BitVec 20 :=
  match x with
  | some x => x.pid
  | none => 0

/-- The pieces of n bytes at an address, each within one 128-byte line; k bounds their number. -/
def pieces (a n : Nat) : Nat → List (Nat × Nat)
  | 0 => []
  | k + 1 =>
    if n = 0 then []
    else
      let m := min n (128 - a % 128)
      (a, m) :: pieces (a + m) (n - m) k

/-- The lines that n bytes may touch. -/
def lineCount (n : Nat) : Nat := n / 128 + 2

/-- One piece read. -/
def Run.readPiece (r : Run) (x : Option Context) (a n : Nat) : Io (List Byte) :=
  match glRead r.s x a n .read with
  | .ok bs e => .ok bs (r.emits e)
  | .fault c b e => .fault c a b (r.emits e)
  | .wait => .wait r
  | .page =>
    if r.rejected (ctxPid x) a then .fault 0x44 a 0 r
    else .wait (r.emit (.pages (raisePage r.s (ctxPid x) a false [])))

/-- Pieces read in order. -/
def Run.readPieces (r : Run) (x : Option Context) : List (Nat × Nat) → Io (List Byte)
  | [] => .ok [] r
  | p :: l =>
    (r.readPiece x p.1 p.2).bind fun bs r =>
      (r.readPieces x l).bind fun cs r => .ok (bs ++ cs) r

/-- n bytes of GL read for a context. -/
def Run.gl (r : Run) (x : Option Context) (a n : Nat) : Io (List Byte) :=
  r.readPieces x (pieces a n (lineCount n))

/-- A dword of GL read for a context. -/
def Run.glDword (r : Run) (x : Option Context) (a : Nat) : Io Word :=
  (r.gl x a 8).bind fun bs r => .ok (wordOf bs) r

/-- One piece written. -/
def Run.writePiece (r : Run) (x : Option Context) (a : Nat) (bs : List Byte) (whole : Bool) :
    Io Unit :=
  match glWrite r.s x a bs .write whole with
  | .ok _ e => .ok () (r.emits e)
  | .fault c b e => .fault c a b (r.emits e)
  | .wait => .wait r
  | .page =>
    if r.rejected (ctxPid x) a then .fault 0x44 a 0 r
    else .wait (r.emit (.pages (raisePage r.s (ctxPid x) a true [])))

/-- Pieces of bytes written in order; `base` is the address of the first byte. -/
def Run.writePieces (r : Run) (x : Option Context) (base : Nat) (bs : List Byte) (whole : Bool) :
    List (Nat × Nat) → Io Unit
  | [] => .ok () r
  | p :: l =>
    (r.writePiece x p.1 ((bs.drop (p.1 - base)).take p.2) whole).bind fun _ r =>
      r.writePieces x base bs whole l

/-- Bytes of GL written for a context; `whole` for a write made of whole sectors (22 R411). -/
def Run.glSet (r : Run) (x : Option Context) (a : Nat) (bs : List Byte) (whole : Bool) : Io Unit :=
  r.writePieces x a bs whole (pieces a bs.length (lineCount bs.length))

/-- A dword of GL written for a context. -/
def Run.glSetDword (r : Run) (x : Option Context) (a : Nat) (v : Word) : Io Unit :=
  r.glSet x a (wordBytes v) false

/-! ### Physical accesses to HBM: the Gaffer's own tables -/

/-- n bytes of HBM read by physical address. -/
def Run.hbm (r : Run) (a n : Nat) : Io (List Byte) :=
  (pieces a n (lineCount n)).foldl (fun o p => o.bind fun bs r =>
    match physRead r.s .hbm p.1 p.2 false with
    | (e, .ok cs) => .ok (bs ++ cs) (r.emits e)
    | (e, .error f) => .fault f.cause p.1 f.aux2 (r.emits e)) (.ok [] r)

/-- Bytes of HBM written by physical address. -/
def Run.hbmSet (r : Run) (a : Nat) (bs : List Byte) : Io Unit :=
  (pieces a bs.length (lineCount bs.length)).foldl (fun o p => o.bind fun _ r =>
    match physWrite r.s .hbm p.1 ((bs.drop (p.1 - a)).take p.2) false true with
    | (e, .ok _) => .ok () (r.emits e)
    | (e, .error f) => .fault f.cause p.1 f.aux2 (r.emits e)) (.ok () r)

/-- The run that a sequence of accesses leaves. -/
def Io.run {α : Type} (x : Io α) : Run :=
  match x with
  | .ok _ r => r
  | .wait r => r
  | .fault _ _ _ r => r

/-- Bytes as dwords. -/
def dwordsOf (bs : List Byte) : List Word :=
  (List.range (bs.length / 8)).map fun i => wordOf ((bs.drop (8 * i)).take 8)

end Sys2Proof.Machine
end

