-- ==== Sys2Proof/Machine/Scene.lean ====
section
/-!
DEFINITION. A scene's descriptor, status block, layer table and render deque (17 R375-R378,
08 R255-R257).
-/

namespace Sys2Proof.Machine

/-! ### The descriptor (17 R375) -/

/-- Field [hi:lo] of dword i of a scene's descriptor. -/
def Scene.df (x : Scene) (i hi lo : Nat) : Nat := field (dw x.desc i) hi lo

/-- GL address of layer entry 0. -/
def Scene.table (x : Scene) : Nat := x.df 0 56 0
/-- GL address of side entry 0. -/
def Scene.side (x : Scene) : Nat := x.df 1 56 0
/-- Layer ids in use. -/
def Scene.lcount (x : Scene) : Nat := x.df 2 44 32
/-- Output height. -/
def Scene.oh (x : Scene) : Nat := x.df 2 31 16
/-- Output width. -/
def Scene.ow (x : Scene) : Nat := x.df 2 15 0
/-- GL address of the render deque. -/
def Scene.rdq (x : Scene) : Nat := x.df 3 56 0
/-- Records of the render deque. -/
def Scene.rdqSize (x : Scene) : Nat := 2 ^ x.df 4 4 0
/-- GL address of the status block. -/
def Scene.status (x : Scene) : Nat := x.df 10 56 0
/-- GL address of the output surface descriptor of frame n. -/
def Scene.out (x : Scene) (n : Nat) : Nat := x.df (11 + n % (x.df 15 1 0 + 1)) 56 0
/-- The number of the frame that has started last; all ones before frame 0. -/
def Scene.current (x : Scene) : BitVec 64 := x.frame - 1

/-- Whether a binary64 value is finite. -/
def finite64 (w : Word) : Bool := field w 62 52 != 0x7FF

/-- Whether a descriptor's dwords keep the limits of R375. -/
def sceneOk (d : List Word) : Bool :=
  let f (i hi lo : Nat) : Nat := field (dw d i) hi lo
  let inRange (v lo hi : Nat) : Bool := decide (lo ≤ v) && decide (v ≤ hi)
  f 0 63 57 == 0 && f 0 7 0 == 0 && f 1 63 57 == 0 && f 1 6 0 == 0 && f 2 63 45 == 0
    && inRange (f 2 44 32) 1 4096 && inRange (f 2 31 16) 1 16384 && inRange (f 2 15 0) 1 16384
    && f 3 63 57 == 0 && f 3 5 0 == 0 && f 4 63 5 == 0 && inRange (f 4 4 0) 4 16
    && (List.range 4).all (fun i => finite64 (dw d (5 + i)))
    && field (dw d 5) 62 0 != 0 && field (dw d 6) 62 0 != 0
    && f 10 63 57 == 0 && f 10 5 0 == 0
    && (List.range 4).all (fun i => field (dw d (11 + i)) 63 57 == 0)
    && f 15 63 2 == 0

/-- A scene right after its descriptor has been read. -/
def Scene.start (d : List Word) : Scene :=
  { desc := d, sched := [], frame := 0, run := none, queue := [], shpen := 0, placed := [], rejected := [],
    tries := [] }

/-- The reset values of the status block (17 R377). -/
def statusReset : List Byte :=
  List.replicate 16 (BitVec.allOnes 8) ++ List.replicate (0x140 - 16) 0

/-- A run that makes the Lehr's accesses for a scene: the pages that the host has rejected for them
fault (16 R364). -/
def Run.forScene (r : Run) (x : Context) (sc : Scene) : Run :=
  { r with rejects := sc.rejected.map fun p => (x.pid, p) }

/-- An access whose fault has no one to report to: it is dropped, but for what it leaves behind. -/
def Io.orDrop (x : Io Unit) (r : Run) : Io Unit :=
  match x with
  | .fault _ _ _ q => .ok () (r.spoiled q)
  | y => y

/-! ### The status block (17 R377) -/

/-- A field of the status block, as its offset, lowest bit and width, changed. -/
def Run.setStatus (r : Run) (x : Context) (sc : Scene) (off lo w : Nat) (f : Nat → Nat) :
    Io Unit :=
  (r.glDword (some x) (sc.status + off)).bind fun d r =>
    let v := d.toNat
    let old := v / 2 ^ lo % 2 ^ w
    r.glSetDword (some x) (sc.status + off) (BitVec.ofNat 64 (v - old * 2 ^ lo + f old % 2 ^ w * 2 ^ lo))

/-- RDQH and RDQT. -/
def Run.rdq (r : Run) (x : Context) (sc : Scene) : Io (Nat × Nat) :=
  (r.glDword (some x) (sc.status + 0x10)).bind fun d r => .ok (field d 63 32, field d 31 0) r

/-- A layer read fault recorded (17 R387): FCOUNT saturates. -/
def Run.readFault (r : Run) (x : Context) (sc : Scene) (id : Nat) (cause : BitVec 8) : Io Unit :=
  ((r.glDword (some x) (sc.status + 0x28)).bind fun d r =>
    let n := min (field d 27 8 + 1) (2 ^ 20 - 1)
    r.glSetDword (some x) (sc.status + 0x28)
      (BitVec.ofNat 64 (cause.toNat + n * 2 ^ 8 + id % 2 ^ 12 * 2 ^ 28 + field d 63 40 * 2 ^ 40))).orDrop r

/-! ### Layer entries (08 R255, R256) -/

/-- A 32- or 64-bit field of an entry: the bytes at an offset as a number. -/
def entryNat (e : List Byte) (off n : Nat) : Nat := ofBytes ((e.drop off).take n)

/-- An entry with n bytes at an offset replaced by a number. -/
def entrySet (e : List Byte) (off n v : Nat) : List Byte := overlay off (toBytes n v) e

/-- STATE of an entry. -/
def layerState (e : List Byte) : Nat := entryNat e 0 1
/-- ORDER. -/
def layerOrder (e : List Byte) : Nat := entryNat e 2 2
/-- AGE. -/
def layerAge (e : List Byte) : Nat := entryNat e 4 4
/-- ERROR. -/
def layerError (e : List Byte) : Nat := entryNat e 8 4
/-- PRICE. -/
def layerPrice (e : List Byte) : Nat := entryNat e 12 4
/-- LMASK. -/
def layerLmask (e : List Byte) : Nat := entryNat e 16 2
/-- LPEN. -/
def layerLpen (e : List Byte) : Nat := entryNat e 20 4
/-- CAST. -/
def layerCast (e : List Byte) : Nat := entryNat e 24 8 % 2 ^ 52
/-- SURF. -/
def layerSurf (e : List Byte) : Nat := entryNat e 0x28 8 % 2 ^ 57
/-- MASK. -/
def layerMask (e : List Byte) : Nat := entryNat e 0x30 8 % 2 ^ 57

/-- Flag bit k of the header's byte 1: 0 LIGHT_STALE, 1 SHADOW_STALE, 2 REQ. -/
def layerFlag (e : List Byte) (k : Nat) : Bool := (entryNat e 1 1).testBit k

/-- An entry with a flag of the header's byte 1 set. -/
def setLayerFlag (e : List Byte) (k : Nat) (v : Bool) : List Byte :=
  let b := entryNat e 1 1
  entrySet e 1 1 (b - natOf (b.testBit k) * 2 ^ k + natOf v * 2 ^ k)

/-- Number of LIGHT_STALE. -/
def flagLight : Nat := 0
/-- Number of SHADOW_STALE. -/
def flagShadow : Nat := 1
/-- Number of REQ. -/
def flagReq : Nat := 2

/-- Layer entry id read. -/
def Run.readLayer (r : Run) (x : Context) (sc : Scene) (id : Nat) : Io (List Byte) :=
  r.gl (some x) (sc.table + 256 * id) 256

/-- Layer entry id written. -/
def Run.writeLayer (r : Run) (x : Context) (sc : Scene) (id : Nat) (e : List Byte) : Io Unit :=
  r.glSet (some x) (sc.table + 256 * id) e false

/-- Side entry id read. -/
def Run.readSide (r : Run) (x : Context) (sc : Scene) (id : Nat) : Io (List Byte) :=
  r.gl (some x) (sc.side + 128 * id) 128

/-- Side entry id written. -/
def Run.writeSide (r : Run) (x : Context) (sc : Scene) (id : Nat) (e : List Byte) : Io Unit :=
  r.glSet (some x) (sc.side + 128 * id) e false

/-! ### The render deque (17 R378) -/

/-- The record that a push makes of a layer's template. -/
def renderRecord (side : List Byte) (id : Nat) (frame : BitVec 64) : List Byte :=
  let t := entrySet (side.take 64) 8 1 4
  entrySet (entrySet t 0x30 8 frame.toNat) 0x38 8 id

/-- A push of a layer's template by the Lehr; whether it was pushed. -/
def Run.renderPush (r : Run) (k : Nat) (x : Context) (sc : Scene) (id : Nat) : Io Bool :=
  (r.rdq x sc).bind fun (h, t) r =>
    if (t + 2 ^ 32 - h) % 2 ^ 32 = sc.rdqSize then
      (r.setStatus x sc 0x18 0 32 (· + 1)).bind fun _ r => .ok false r
    else
      (r.readSide x sc id).bind fun side r =>
        (r.glSet (some x) (sc.rdq + 64 * (t % sc.rdqSize)) (renderRecord side id sc.current)
          true).bind fun _ r =>
          (r.setStatus x sc 0x10 0 32 (· + 1)).bind fun _ r =>
            .ok true (r.modCtx k fun y => { y with
              scene := y.scene.map fun z => { z with placed := mapPut z.placed (t % sc.rdqSize) id } })

/-- A take of the oldest record of a context's render deque: the record, if there is one and it
can be read. A record whose read faults is discarded and reported. -/
def Run.renderTake (r : Run) (k : Nat) (x : Context) (sc : Scene) : Io (Option (List Byte)) :=
  (r.rdq x sc).bind fun (h, t) r =>
    if h = t then .ok none r
    else
      let n := h % sc.rdqSize
      let id := mapGet 0 sc.placed n
      let gone (r : Run) : Run := r.modCtx k fun y => { y with
        scene := y.scene.map fun z => { z with placed := mapDel z.placed n } }
      match r.gl (some x) (sc.rdq + 64 * n) 64 with
      | .ok rec_ r =>
        (r.setStatus x sc 0x10 32 32 (· + 1)).bind fun _ r => .ok (some rec_) (gone r)
      | .wait r => .wait r
      | .fault cause _ _ r =>
        (r.setStatus x sc 0x10 32 32 (· + 1)).bind fun _ r =>
          (r.readFault x sc id cause).bind fun _ r =>
            (((r.readLayer x sc id).bind fun e r =>
              r.writeLayer x sc id (setLayerFlag e flagReq false)).orDrop r).bind fun _ r =>
                .ok none (gone r)

end Sys2Proof.Machine
end

