-- ==== Sys2Proof/Machine/Seek.lean ====
section
/-!
DEFINITION. What an idle slot does at its turn: it seeks a continuation record and runs it (09
R270, R275-R277, 04 R111).
-/

namespace Sys2Proof.Machine

/-- Whether a reservation of a launch withholds a slot (15 R346). -/
def slotReserved (s : State) (c sl : Nat) : Bool :=
  s.gaffer.launches.any fun l => l.2.reserved.any fun x => x.1 == c && x.2.1 == sl

/-- Whether a user slot is idle (09 R277). -/
def slotIdle (s : State) (c sl : Nat) : Bool :=
  let x := s.slot c sl
  let y := s.core c
  decide (1 ≤ sl ∧ sl < 16) && ! x.wspV && ! x.stopped && ! slotOff s c sl && ! slotReserved s c sl
    && y.pre.isNone && y.pool.head?.isSome && (s.ctxOf c).isSome

/-- The lowest-numbered idle slot of a core, the only one that seeks. -/
def lowestIdle (s : State) (c : Nat) : Option Nat := (fromTo 1 15).find? (slotIdle s c)

/-- Whether a core's deque can be taken from by a core of the same process. -/
def stealable (s : State) (c v : Nat) : Bool :=
  let y := s.core v
  decide (0 < y.depth) && y.ctx.isSome && y.pre.isNone && s.pidOf v == s.pidOf c

/-- The other cores of a core's quad in the order in which it steals from them. -/
def quadOthers (c : Nat) : List Nat :=
  [1, 2, 3].map fun i => quadCore c ((coreRank c + i) % 4)

/-- The distance of two cores in mesh steps. -/
def meshSteps (a b : Nat) : Nat :=
  (max (coreX a) (coreX b) - min (coreX a) (coreX b))
    + (max (coreY a) (coreY b) - min (coreY a) (coreY b))

/-- The nearest core of a die that holds the same context and has a record: ties go to the lower
y, then the lower x. -/
def nearestVictim (s : State) (c : Nat) : Option Nat :=
  let l := s.cores.filterMap fun e =>
    if e.1 ≠ c ∧ coreDie e.1 = coreDie c ∧ stealable s c e.1 ∧ e.2.ctx = (s.core c).ctx then
      some e.1
    else none
  let rank (v : Nat) : Nat := meshSteps c v * 1024 + coreY v * 32 + coreX v
  l.foldl (fun o v => match o with
    | none => some v
    | some b => if rank v < rank b then some v else some b) none

/-- A record run in a slot of a core by a new thread (04 R111). -/
def Run.pickUp (r : Run) (c sl : Nat) (rec_ : List Byte) (launch : Option Nat) : Run :=
  match (r.s.core c).lowest with
  | some b => r.startThread c sl b (recSeeds rec_) launch
  | none => r

/-- The bottom record of a core's own deque run in a slot. -/
def Run.runBottom (r : Run) (c sl : Nat) : Run :=
  let x := r.s.core c
  let rec_ := dequeRec r.s c (x.dqTop + x.depth - 1)
  (r.takeBottom c).pickUp c sl rec_ ((x.dqLaunch.getLast?).getD none)

/-- The top record of another core's deque run in a slot. -/
def Run.runStolen (r : Run) (c sl v : Nat) : Run :=
  let x := r.s.core v
  (r.takeTop v).pickUp c sl (dequeRec r.s v x.dqTop) ((x.dqLaunch.head?).getD none)

/-- Whether a take of a record of the render deque may lie in a page. -/
def Scene.takes (sc : Scene) (page : Nat) : Bool :=
  page == (sc.status + 0x10) / 4096
    || decide (sc.rdq / 4096 ≤ page ∧ page ≤ (sc.rdq + 64 * sc.rdqSize - 1) / 4096)

/-- The oldest record of the render deque of the core's context run in a slot; a rejected page of the
record is its read fault 0x44 (17 R378). -/
def Run.runRender (r : Run) (c sl : Nat) : Run :=
  match (r.s.core c).ctx, r.s.ctxOf c with
  | some k, some x =>
    match x.scene with
    | none => r
    | some sc =>
      let settled (r : Run) : Run := if sc.rejected = [] then r else r.modCtx k fun y => { y with
        scene := y.scene.map fun z => { z with rejected := z.rejected.filter fun p => ! sc.takes p } }
      match (r.forScene x sc).renderTake k x sc with
      | .ok (some rec_) q => (settled { q with rejects := r.rejects }).pickUp c sl rec_ x.sceneLaunch
      | .ok none q => settled { q with rejects := r.rejects }
      | .wait q => r.emit (.pages q.s.pageReqs)
      | .fault _ _ _ q => settled (r.spoiled q)
  | _, _ => r

/-- The search of an idle slot at its turn, in the order of 09 R277. -/
def Run.seek (r : Run) (c sl : Nat) : Run :=
  if 0 < (r.s.core c).depth then r.runBottom c sl
  else match r.refill c sl with
    | (r, true) => r.runBottom c sl
    | (r, false) =>
      match (quadOthers c).find? (stealable r.s c) with
      | some v => r.runStolen c sl v
      | none =>
        match nearestVictim r.s c with
        | some v => r.runStolen c sl v
        | none => r.runRender c sl

/-- Whether a slot would find a record, the render deque left out. -/
def State.hasRecord (s : State) (c : Nat) : Bool :=
  decide (0 < (s.core c).depth)
    || (match s.ctxOf c with
      | some x => decide (32 ≤ x.ovfTop)
      | none => false)
    || (quadOthers c).any (stealable s c) || (nearestVictim s c).isSome

/-- The step `IDLE_SLOT_SEEK`: the slot whose turn it is on core `sel.core` is the lowest idle
slot, and seeks (09 R277). -/
def idleSlotSeekRun (s : State) : Option (List Eff) :=
  let c := s.sel.core
  let sl := turnSlot s c
  if lowestIdle s c = some sl then some (((Run.start s).seek c sl).tick c).done else none

/-- The step `IDLE_SLOT_SEEK`. -/
def execIdleSlotSeek (s : State) : Host.Outcome State Fault Refusal :=
  finish s (idleSlotSeekRun s)

/-- The step `SLOT_LEVEL_APPLY`: at the turn of slot 0, core `sel.core` applies the level of its
domain (20 R398, R399). The turn itself is taken by the step that follows. -/
def slotLevelApplyRun (s : State) : Option (List Eff) :=
  let c := s.sel.core
  if turnSlot s c = 0 ∧ setLevel s c ≠ (s.core c).level then
    some ((Run.start s).applyLevel c).done
  else none

/-- The step `SLOT_LEVEL_APPLY`. -/
def execSlotLevelApply (s : State) : Host.Outcome State Fault Refusal :=
  finish s (slotLevelApplyRun s)

end Sys2Proof.Machine
end

