-- ==== Sys2Proof/Machine/Sleep.lean ====
section
/-!
DEFINITION. On what a thread sleeps (09 R279), and the status word of a slot (04 R133).
-/

namespace Sys2Proof.Machine

/-! ### Sleeps (09 R279, R280) -/

/-- The scope value by which a wait table names a barrier instance (09 R280). -/
def ScopeName.value (n : ScopeName) : Word :=
  match n with
  | .rect v => v.setWidth 64
  | .level l _ => l.setWidth 64 <<< 24
  | .group i => i.setWidth 64

/-- Whether an `xwait` that waits is satisfied: COUNT has reached its target (08 R241). -/
def AsyncOp.reached (o : AsyncOp) (s : State) (c : Nat) (x : Slot) : Bool :=
  match o.kind with
  | .xwait a target _ => match memRead s c .wm a 8 with
    | .ok bs _ => decide (target ≤ field (wordOf (x.overlaid o.seq .wm a bs)) 62 0)
    | _ => false
  | _ => false

/-- The kind code and awaited address of an operation on which a parked thread of a slot of core c
sleeps: not once its event has happened, though its result is still to be written (log 78). -/
def AsyncOp.sleep (o : AsyncOp) (s : State) (c : Nat) (x : Slot) : Option (Nat × Word) :=
  match o.st with
  | .done _ => none
  | .paged => none
  | _ =>
    match o.kind with
    | .barrier n _ => some (1, n.scope.value)
    | .xwait a _ false => if o.reached s c x then none else some (1, BitVec.ofNat 64 a)
    | .join a => some (2, BitVec.ofNat 64 a)
    | .recv p => some (3, p.setWidth 64)
    | _ => none

/-- Whether an operation is a `join`'s. -/
def AsyncOp.joins (o : AsyncOp) : Bool :=
  match o.kind with
  | .join _ => true
  | _ => false

/-- On what the thread of a slot of core c sleeps: kind code and awaited address. A thread that waits
for several events is listed under its oldest F/E word, else its oldest operation (log 14); one that
`join` has parked without the park marker waits for its decrement alone. -/
def sleepOf (s : State) (c : Nat) (x : Slot) : Option (Nat × Word) :=
  match x.asleep, x.park with
  | some a, _ => if x.stillAsleep s c a then some (a.kind, a.addr) else none
  | none, none => none
  | none, some p =>
    let ops := x.own.filter fun o => p.underMarker || o.joins
    match if p.underMarker then oldest (x.feOps false) else none with
    | some (_, a) => some (0, BitVec.ofNat 64 a)
    | none => firstSome (fun o => o.sleep s c x) ops

/-! ### The status word (04 R133) -/

/-- STATE of a slot. It is 3 for every thread that is parked without a trap, by `fence.sc`, `susp` and a
`join` whose decrement has returned too, and for one that has ended with results outstanding
(log 78). -/
def slotState (s : State) (c : Nat) (x : Slot) : Nat :=
  if ! x.wspV then 0
  else match x.trap with
    | some t => if t.record.defer && ! t.queued then 5 else 4
    | none => if (sleepOf s c x).isSome then 2 else if x.park.isSome || x.dying then 3 else 1

/-- The active loop levels of a workspace. -/
def activeLoops (s : State) (c b : Nat) : Nat :=
  ((List.range 3).filter fun l => (loopState s c b l).active).length

/-- Bit p for each port with an open command. -/
def openPorts (x : Slot) : Nat :=
  ((List.range 4).map fun p => natOf (x.port p).opened.isSome * 2 ^ p).foldl (· + ·) 0

/-- The status word of a slot. -/
def slotStatus (s : State) (c sl : Nat) : Word :=
  let x := s.slot c sl
  let own := fun n => if x.wspV then n else 0
  BitVec.ofNat 64 (slotState s c x + openPorts x * 2 ^ 4 + own (natOf (strictOn s c x.block)) * 2 ^ 8
    + natOf (slotOff s c sl) * 2 ^ 9 + natOf (x.hold || x.stopped) * 2 ^ 10 + x.outstanding * 2 ^ 11
    + own (activeLoops s c x.block) * 2 ^ 16)

end Sys2Proof.Machine
end

