-- ==== Sys2Proof/Machine/Matrix.lean ====
section
/-!
DEFINITION. Matrix and permutation instructions as they issue (07 R196-R228), and the quad arbiter
(15 R353).
-/

namespace Sys2Proof.Machine

/-! ### The arbiter (15 R353) -/

/-- The weight of the core of rank r. -/
def quadWeight (s : State) (q r : Nat) : Nat :=
  match s.ctxOf (quadMember q r) with
  | some x => field x.qw (3 * r + 2) (3 * r) + 1
  | none => 1

/-- Whether the head of rank r's queue is waiting. -/
def headWaits (s : State) (q r : Nat) : Bool :=
  match (s.core (quadMember q r)).matq with
  | [] => false
  | o :: _ => ! o.kind.licensed || ((s.quad q).held && ! yieldPending s q)

/-- The waiting rank whose last grant is oldest, the lower on a tie. -/
def oldestGrant (x : Quad) (l : List Nat) : Nat :=
  (l.foldl (fun o r =>
    match o with
    | some b => if mapGet 0 x.last r < mapGet 0 x.last b then some r else some b
    | none => some r) none).getD 0

/-- The arbiter's choice: the next head is granted when the engine is free. -/
def Run.arbitrate (r : Run) (q : Nat) : Run :=
  let x := r.s.quad q
  let wait := (List.range 4).filter (headWaits r.s q)
  if x.exec.isSome ∨ wait = [] then r
  else
    let e := wait.filter fun c => decide (0 < mapGet 0 x.credits c)
    let fresh := (List.range 4).foldl (fun m c => mapSet 0 m c (quadWeight r.s q c)) []
    let x := if e = [] then { x with credits := fresh, ptr := oldestGrant x wait } else x
    let e := if e = [] then wait else e
    match ((List.range 4).map fun i => (x.ptr + i) % 4).find? e.contains with
    | none => r
    | some c => r.emit (.quad q { x with
        credits := mapSet 0 x.credits c (mapGet 0 x.credits c - 1), ptr := (c + 1) % 4,
        last := mapSet 0 x.last c (x.grants + 1), grants := x.grants + 1, exec := some c })

/-! ### Acceptance (07 R196-R199) -/

/-- An engine operation of the issuing thread, with its copies. -/
def Env.matOp (e : Env) (kind : MatKind) (xop : BitVec 7) (ga gb gc : Word) (q : BitVec 384) :
    MatOp :=
  { kind := kind, slot := e.sl, tid := e.slot.tid, pc := e.pc, pair := e.pair, xop := xop,
    ga := ga, gb := gb, gc := gc, sca := e.slot.sca, scb := e.slot.scb, nf := e.core.nf,
    munf := e.slot.munf, q := q.setWidth 352 }

/-- Cases 5 to 7 of R197, then acceptance. -/
def Env.submit (e : Env) (o : MatOp) (qr : Option (BitVec 3)) : Issue :=
  let q := quadOf e.c
  if (match qr with | some r => e.solving r | none => false) then .stall [] none
  else if 16 ≤ e.core.matq.length ∨ e.busy o.footprint then .stall [] none
  else if o.kind.licensed ∧ ! licenceReady e.s q then
    .stall (requestLicence e.s q) (some (5, 0))
  else .ok { effs := [.matrix e.c o], late := fun r => r.arbitrate q }

/-- The copied settings of a q operand. -/
def Env.qIf (e : Env) (use : BitVec 1) (q : BitVec 3) : BitVec 384 :=
  if use = 1 then e.q q else 0

/-- The q operand, when it is used. -/
def qUsed (use : BitVec 1) (q : BitVec 3) : Option (BitVec 3) := if use = 1 then some q else none

/-- A trap 0x70: register value, operand, reason. -/
def badPlace (v : Word) (operand reason : Nat) : Option (BitVec 8 × Word × BitVec 32) :=
  some (0x70, v, BitVec.ofNat 32 (operand + reason * 16))

/-- A word that goes on when no check fails. -/
def unlessFails (l : List (Option (BitVec 8 × Word × BitVec 32))) (k : Issue) : Issue :=
  match firstFail l with
  | some (a, b, c) => .trap a b c
  | none => k

/-- The check of a region: alignment, then range. -/
def regionCheck (v : Word) (operand off n size align : Nat) :
    Option (BitVec 8 × Word × BitVec 32) :=
  if off % align ≠ 0 then badPlace v operand 1
  else if size < off + n then badPlace v operand 0
  else none

/-- The check of reserved bits from bit `hi` up. -/
def reservedCheck (v : Word) (operand hi : Nat) : Option (BitVec 8 × Word × BitVec 32) :=
  if v.toNat / 2 ^ hi ≠ 0 then badPlace v operand 3 else none

/-- The check of a scale register. -/
def scaleCheck (v : Word) (operand n : Nat) : Option (BitVec 8 × Word × BitVec 32) :=
  if descSpace v ≠ 2 ∧ descSpace v ≠ 3 then badPlace v operand 0
  else regionCheck v operand (descOffset v) n (2 ^ 17) 4

/-- The check of the C operand. -/
def tileCheck (v : Word) (wide : Bool) : Option (BitVec 8 × Word × BitVec 32) :=
  regionCheck v 2 (field v 15 0) (tileBytes wide) (2 ^ 16) 64

/-- The format of a code with the check of R74: none for a code that is no format. -/
def Env.formatOf (e : Env) (code : Nat) : Except (BitVec 8 × Word × BitVec 32) (Option Elem) :=
  match recordElem e.core.nf code with
  | some (.ok f) => .ok (some f)
  | some (.error (v, k)) => .error (0x73, v, BitVec.ofNat 32 k)
  | none => .ok none

/-- The class of a format, if it has one. -/
def classK (code : Nat) (f : Option Elem) : Option Nat := f.bind (gemmK code)

/-- `mma` and `mmac` (07 R197, R204-R206). -/
def Env.gemm (e : Env) (complex : Bool) (ga gb gc : Word) (use : BitVec 1) (q : BitVec 3)
    (sa sb : BitVec 1) : Issue :=
  match e.slot.munf with
  | none => .trap 0x74 0 5
  | some m =>
    let a := tf m.tlr 1 7 0
    let b := field m.gc 55 48
    match e.formatOf a, e.formatOf b with
    | .error (x, y, z), _ => .trap x y z
    | _, .error (x, y, z) => .trap x y z
    | .ok fa, .ok fb =>
      let k := classK a fa
      if k = none ∨ k ≠ classK b fb ∨ (complex ∧ k = some 16) then
        .trap 0x72 (BitVec.ofNat 64 (a + b * 2 ^ 8)) (bit01 complex)
      else
        let half := if complex then 2 else 1
        let y := e.slot
        unlessFails
          [reservedCheck ga 2 16, reservedCheck gb 1 17, reservedCheck gc 0 56,
           reservedCheck y.sca 3 20, reservedCheck y.scb 4 20,
           tileCheck ga (k == some 16), regionCheck gb 1 (field gb 16 0) (8192 / half) (2 ^ 17) 64,
           if sa = 1 then scaleCheck y.sca 3 256 else none,
           if sb = 1 then scaleCheck y.scb 4 (256 / half) else none]
          (e.submit (e.matOp (if complex then .mmac else .mma)
            (use ++ q ++ (0#1) ++ sa ++ sb) ga gb gc (e.qIf use q)) (qUsed use q))

/-- The formats that a binary32 tile drains into (07 R210). -/
def drainFmt (wide : Bool) (code : Nat) (f : Option Elem) : Bool :=
  match f with
  | none => false
  | some f =>
    if wide then code == 0x12 || code == 0x13
    else decide (code ≤ 6) || code == 0x10 || code == 0x11 || code == 0x12 || code == 0x30
      || code == 0x31 || (decide (0x20 ≤ code ∧ code ≤ 0x27) && decide (3 ≤ f.bits))

/-- The bytes of the rows of a descriptor. -/
def rowRanges (w : Word) (n : Nat) : List (Space × Nat × Nat) := (List.range 64).map fun i =>
  (bufferOf (descSpace w), descOffset w + i * descPitch w, n)

/-- Whether the rows of a descriptor leave their buffer. -/
def rowsOutside (w : Word) (n : Nat) : Bool :=
  decide (spaceBytes (bufferOf (descSpace w)) < descOffset w + 63 * descPitch w + n)

/-- Whether a descriptor's space is no typed buffer. -/
def noBuffer (w : Word) : Bool := decide (descSpace w < 2) || decide (4 < descSpace w)

/-- `mmd` (07 R209, R210). -/
def Env.drain (e : Env) (ga gb : Word) (use : BitVec 1) (q : BitVec 3) (clr wide : BitVec 1) :
    Issue :=
  let code := descFmt gb
  match e.formatOf code with
  | .error (x, y, z) => .trap x y z
  | .ok f =>
    if ! drainFmt (wide == 1) code f then .trap 0x72 (BitVec.ofNat 64 (code * 2 ^ 8)) 2
    else
      let el := f.getD (intElem false 8)
      let unit := if el.sub then 16 else el.size
      let n := rowBytes el
      let tile := (Space.cb, field ga 15 0, tileBytes (wide == 1))
      unlessFails
        [reservedCheck ga 2 16,
         if field gb 63 56 ≠ 0 ∨ field gb 47 41 ≠ 0 ∨ field gb 23 20 ≠ 0 then badPlace gb 5 3
         else none,
         tileCheck ga (wide == 1),
         if descOffset gb % unit ≠ 0 ∨ descPitch gb % unit ≠ 0 then badPlace gb 5 1 else none,
         if noBuffer gb then badPlace gb 5 0 else none,
         if rowsOutside gb n then badPlace gb 5 0 else none,
         if descPitch gb < n then badPlace gb 5 2 else none,
         if (rowRanges gb n).any (meets tile) then badPlace gb 5 2 else none]
        (e.submit (e.matOp .mmd (use ++ q ++ clr ++ wide ++ (0#1)) ga gb 0 (e.qIf use q))
          (qUsed use q))

/-- `qtile` (07 R227). -/
def Env.tile (e : Env) (q : BitVec 3) (gb : Word) : Issue :=
  let n := descRowb gb
  unlessFails
    [if field gb 63 61 ≠ 0 ∨ field gb 47 41 ≠ 0 ∨ field gb 23 20 ≠ 0 then badPlace gb 6 3 else none,
     if noBuffer gb then badPlace gb 6 0 else none,
     if n = 0 ∨ 4096 < n then badPlace gb 6 0 else none,
     if descPitch gb < n then badPlace gb 6 2 else none,
     if rowsOutside gb n then badPlace gb 6 0 else none]
    (e.submit (e.matOp .qtile 0 0 gb 0 (e.q q)) (some q))

/-! ### munf (07 R201, R202) -/

/-- The trap of an invalid configuration. -/
def badUnfold (v : Word) (reason : Nat) : Option (BitVec 8 × Word × BitVec 32) :=
  some (0x74, v, BitVec.ofNat 32 reason)

/-- The trap 0x82 of a dword and bit of a record. -/
def badOrigin (d : List Word) (i b : Nat) : Option (BitVec 8 × Word × BitVec 32) :=
  some (0x82, dw d i, BitVec.ofNat 32 (i + b * 2 ^ 8))

/-- Whether some tap of some output position leaves [0, n) in one direction. -/
def tapsLeave (org : Int) (positions stride taps dilation n : Nat) : Bool :=
  decide (org < 0)
    || decide (((n : Nat) : Int)
        ≤ org + (((positions - 1) * stride + (taps - 1) * dilation : Nat) : Int))

/-- The checks 2 to 8 of `munf`. -/
def unfoldChecks (t : Tlr) (ga gb gc : Word) : List (Option (BitVec 8 × Word × BitVec 32)) :=
  let m : Munf := { tlr := t.dws, gb := gb, gc := gc }
  let code := field gc 55 48
  let isFmt := (fmtElem code).isSome || decide (0x20 ≤ code ∧ code ≤ 0x27)
  let org (d : Nat) : Int := t.orgs.getD d 0
  [if t.space ≠ 3 then badUnfold (dw t.dws 0) 0 else none,
   if 4 < t.rank then badUnfold (dw t.dws 1) 1 else none,
   if field gb 63 24 ≠ 0 then badUnfold gb 2 else none,
   if field gc 63 56 ≠ 0 then badUnfold gc 2 else none,
   if ! isFmt then badUnfold gc 3 else none,
   if 2 ^ 24 < m.cols t then badUnfold gb 4 else none,
   if 2 ^ 32 < m.rows then badUnfold gc 4 else none,
   if spaceBytes .ab < t.base + t.span then badPlace ga 0 0 else none,
   if t.fillm = 3 ∧ tapsLeave (org 1) (plusOne gc 15 0) (plusOne gb 11 8) (plusOne gb 3 0)
       (plusOne gb 19 16) (t.dim 1) then badOrigin t.dws 10 40 else none,
   if t.fillm = 3 ∧ tapsLeave (org 2) (plusOne gc 31 16) (plusOne gb 15 12) (plusOne gb 7 4)
       (plusOne gb 23 20) (t.dim 2) then badOrigin t.dws 11 0 else none,
   if t.fillm = 3 ∧ t.dim 3 < plusOne gc 47 32 then badOrigin t.dws 3 24 else none]

/-- `munf`. -/
def Env.unfold (e : Env) (ga gb gc : Word) : Issue :=
  match localCheck e.c ga 8 96 with
  | some cause => .trap cause ga 0
  | none =>
    Issue.afterLoads (match checkTlr e.core (readRecord e.s e.c e.slot ga.toNat) false with
      | .error x => .trap x.cause x.aux x.aux2
      | .ok t => unlessFails (unfoldChecks t ga gb gc)
          (Issue.effs [.munf e.c e.sl { tlr := t.dws, gb := gb, gc := gc }])) e

/-! ### Permutation instructions (07 R222-R226) -/

/-- A word that waits while one of some q registers is being solved (07 R221). -/
def Env.unlessSolving (e : Env) (l : List (BitVec 3)) (k : Issue) : Issue :=
  if l.any e.solving then .stall [] none else k

/-- A permutation handed to the route-solving unit. -/
def Env.solve (e : Env) (d : BitVec 3) (p : List Nat) : Issue :=
  Issue.effs [.solve e.c e.sl { q := d, block := e.b, value := solvePerm p }]

/-- A word that goes on with the 64 bytes of an index vector (07 R223). -/
def Env.withVector (e : Env) (g : Reg) (s : BitVec 3) (k : Nat → Space → Issue) : Issue :=
  let sp := spaceCode s
  let ga := e.g g
  checked sp ga 64
    (if sp = .wm ∧ ! ownRank e.c ga.toNat then .trap 0x41 ga 0
    else if e.busy [(sp, ga.toNat, 64)] then .stall [] none else k ga.toNat sp)

/-- The index vector at an address as the slot's thread loads it. -/
def Env.vector (e : Env) (sp : Space) (a : Nat) : List Nat :=
  (e.ownBytes sp a 64).map BitVec.toNat

/-- R207: Place a matrix multiply-accumulate into the dispatch queue. -/
def semMma (a b c : BitVec 5) (fe : BitVec 1) (q : BitVec 3) (x y : BitVec 1) (e : Env) : Issue :=
  e.gemm false (e.g a) (e.g b) (e.g c) fe q x y

/-- The step `MMA`. -/
def execMma (a b c : BitVec 5) (fe : BitVec 1) (q : BitVec 3) (x y : BitVec 1) (s' : State) : Host.Outcome State Fault Refusal :=
  runLone (.mma a b c fe q x y) (semMma a b c fe q x y) s'

/-- R207: Place a complex matrix multiply-accumulate into the dispatch queue. -/
def semMmac (a b c : BitVec 5) (fe : BitVec 1) (q : BitVec 3) (x y : BitVec 1) (e : Env) : Issue :=
  e.gemm true (e.g a) (e.g b) (e.g c) fe q x y

/-- The step `MMAC`. -/
def execMmac (a b c : BitVec 5) (fe : BitVec 1) (q : BitVec 3) (x y : BitVec 1) (s' : State) : Host.Outcome State Fault Refusal :=
  runLone (.mmac a b c fe q x y) (semMmac a b c fe q x y) s'

/-- R208: Zero a C tile. -/
def semMmz (a : BitVec 5) (w : BitVec 1) (e : Env) : Issue :=
  unlessFails [reservedCheck (e.g a) 2 16, tileCheck (e.g a) (w == 1)]
    (e.submit (e.matOp .mmz (w.setWidth 7) (e.g a) 0 0 0) none)

/-- The step `MMZ`. -/
def execMmz (a : BitVec 5) (w : BitVec 1) (s' : State) : Host.Outcome State Fault Refusal :=
  runLone (.mmz a w) (semMmz a w) s'

/-- R211: Drain a C tile into rows of a typed buffer, optionally permuted and cleared. -/
def semMmd (a b : BitVec 5) (fe : BitVec 1) (q : BitVec 3) (k w : BitVec 1) (e : Env) : Issue :=
  e.drain (e.g a) (e.g b) fe q k w

/-- The step `MMD`. -/
def execMmd (a b : BitVec 5) (fe : BitVec 1) (q : BitVec 3) (k w : BitVec 1) (s' : State) : Host.Outcome State Fault Refusal :=
  runLone (.mmd a b fe q k w) (semMmd a b fe q k w) s'

/-- R201: Write the slot's unfolding configuration. -/
def semMunf (a b c : BitVec 5) (e : Env) : Issue :=
  e.unfold (e.g a) (e.g b) (e.g c)

/-- The step `MUNF`. -/
def execMunf (a b c : BitVec 5) (s' : State) : Host.Outcome State Fault Refusal :=
  runLone (.munf a b c) (semMunf a b c) s'

/-- R223: Check an index vector and solve it into a q register. -/
def semQld (d : BitVec 3) (g : BitVec 5) (s : BitVec 3) (e : Env) : Issue :=
  e.withVector g s fun a sp =>
    let v := e.vector sp a
    Issue.afterLoadsIn (match checkVector 0 [] v with
      | some (i, x, reason) => .trap 0x71 (BitVec.ofNat 64 (i + x * 2 ^ 8)) (BitVec.ofNat 32 reason)
      | none => e.unlessSolving [d] (e.solve d v)) sp e

/-- The step `QLD`. -/
def execQld (d : BitVec 3) (g : BitVec 5) (s : BitVec 3) (s' : State) : Host.Outcome State Fault Refusal :=
  runLone (.qld d g s) (semQld d g s) s'

/-- R223: Store the permutation of a q register as 64 bytes. -/
def semQst (a : BitVec 3) (g : BitVec 5) (s : BitVec 3) (e : Env) : Issue :=
  e.withVector g s fun x sp =>
    e.unlessSolving [a] (e.store sp (.store sp [(x, (permOf (e.q a)).map (BitVec.ofNat 8))]))

/-- The step `QST`. -/
def execQst (a : BitVec 3) (g : BitVec 5) (s : BitVec 3) (s' : State) : Host.Outcome State Fault Refusal :=
  runLone (.qst a g s) (semQst a g s) s'

/-- R224: Solve the composition of two permutations. -/
def semQcomp (d a b : BitVec 3) (e : Env) : Issue :=
  e.unlessSolving [a, b, d]
    (e.solve d ((permOf (e.q a)).map fun i => (permOf (e.q b)).getD i 0))

/-- The step `QCOMP`. -/
def execQcomp (d a b : BitVec 3) (s' : State) : Host.Outcome State Fault Refusal :=
  runLone (.qcomp d a b) (semQcomp d a b) s'

/-- R224: Solve the inverse of a permutation. -/
def semQinv (d a : BitVec 3) (e : Env) : Issue :=
  e.unlessSolving [a, d] (e.solve d (inverse (permOf (e.q a))))

/-- The step `QINV`. -/
def execQinv (d a : BitVec 3) (s' : State) : Host.Outcome State Fault Refusal :=
  runLone (.qinv d a) (semQinv d a) s'

/-- R225: Draw a random permutation and solve it. SRG is written as the bundle issues, qd when its solve
completes (log 83). -/
def semQrnd (d : BitVec 3) (e : Env) : Issue :=
  let (p, g) := randomPerm (srgOf e.s e.c e.b)
  e.unlessSolving [d] (.ok {
    effs := [.solve e.c e.sl { q := d, block := e.b, value := solvePerm p }], srg := some g })

/-- The step `QRND`. -/
def execQrnd (d : BitVec 3) (s' : State) : Host.Outcome State Fault Refusal :=
  runLone (.qrnd d) (semQrnd d) s'

/-- R224: Write identity settings at once. -/
def semQid (d : BitVec 3) (e : Env) : Issue :=
  e.unlessSolving [d] (Issue.effs (setQ e.c e.b d 0))

/-- The step `QID`. -/
def execQid (d : BitVec 3) (s' : State) : Host.Outcome State Fault Refusal :=
  runLone (.qid d) (semQid d) s'

/-- R226: Apply a permutation to the bytes of a vector. -/
def semQapp (a : BitVec 3) (g v : BitVec 5) (e : Env) : Issue :=
  let p := permOf (e.q a)
  let x := e.v v
  e.unlessSolving [a] (e.putV g (ofLanes fun i =>
    let j := p.getD i 0
    if j < 16 then byteOf x j else 0))

/-- The step `QAPP`. -/
def execQapp (a : BitVec 3) (g v : BitVec 5) (s' : State) : Host.Outcome State Fault Refusal :=
  runLone (.qapp a g v) (semQapp a g v) s'

/-- R227: Place an in-place row permutation of a buffer tile into the dispatch queue. -/
def semQtile (a : BitVec 3) (g : BitVec 5) (e : Env) : Issue :=
  e.tile a (e.g g)

/-- The step `QTILE`. -/
def execQtile (a : BitVec 3) (g : BitVec 5) (s' : State) : Host.Outcome State Fault Refusal :=
  runLone (.qtile a g) (semQtile a g) s'

/-- R228: Return the cycle structure of a permutation. -/
def semQcyc (a : BitVec 3) (g : BitVec 5) (e : Env) : Issue :=
  e.unlessSolving [a] (e.putG g (cycleWord (permOf (e.q a))))

/-- The step `QCYC`. -/
def execQcyc (a : BitVec 3) (g : BitVec 5) (s' : State) : Host.Outcome State Fault Refusal :=
  runLone (.qcyc a g) (semQcyc a g) s'

/-- R223: Check an index vector without trapping. -/
def semQchk (g d : BitVec 5) (s : BitVec 3) (e : Env) : Issue :=
  e.withVector g s fun a sp =>
    (match checkVector 0 [] (e.vector sp a) with
    | some (i, x, reason) =>
      e.putG d (BitVec.ofNat 64 (2 ^ 63 + reason * 2 ^ 16 + x * 2 ^ 8 + i))
    | none => e.putG d 0).afterLoadsIn sp e

/-- The step `QCHK`. -/
def execQchk (g d : BitVec 5) (s : BitVec 3) (s' : State) : Host.Outcome State Fault Refusal :=
  runLone (.qchk g d s) (semQchk g d s) s'

end Sys2Proof.Machine
end

