-- ==== Sys2Proof/Machine/System.lean ====
section
/-!
DEFINITION. Control registers and the supervisor's instructions (04 R118-R134), and the licence (07 R216).
-/

namespace Sys2Proof.Machine

/-! ### Control registers (04 R118-R125) -/

/-- `WSP` of a slot (04 R121). -/
def wspWord (x : Slot) : Word := BitVec.ofNat 64 (natOf x.wspV + x.block * 2 ^ 11)

/-- `CORE` of a core (04 R120). -/
def coreWord (s : State) (c : Nat) : Word :=
  BitVec.ofNat 64 (coreX c + coreY c * 2 ^ 5 + coreDie c * 2 ^ 10 + coreRank c * 2 ^ 12
    + colClass (coreX c / 2) * 2 ^ 14 + s.link.device.toNat * 2 ^ 16)

/-- The value of a control register for the thread of a slot; its reserved bits read as zero
(00 R9). -/
def ctlRead (s : State) (c sl b num : Nat) : Word :=
  let x := s.slot c sl
  let y := s.core c
  match num with
  | 0x000 => wspWord x
  | 0x001 => BitVec.ofNat 64 sl
  | 0x002 => coreWord s c
  | 0x003 => BitVec.ofNat 64 (field (threadDword s c b) 63 32)
  | 0x004 => BitVec.ofNat 64 (field (threadDword s c b) 31 16)
  | 0x008 => licenceWord s (quadOf c)
  | 0x018 => x.sca &&& 0xFFFFF
  | 0x019 => x.scb &&& 0xFFFFF
  | 0x020 => BitVec.ofNat 64 (rmMode s c b)
  | 0x021 => (fflagsOf s c b).setWidth 64 &&& 0x3F1F
  | 0x022 => (srgOf s c b).setWidth 64
  | 0x030 => BitVec.ofNat 64 (wlimOf s c b)
  | 0x031 => bit01 (strictOn s c b)
  | 0x032 => y.sgm &&& 1
  | 0x040 => s.time
  | 0x050 => y.shpen &&& 0xFFFFFFFF
  | n => y.nfReg (n - 0x010) &&& 0x7FF7F

/-- The write of a thread's control register, into its workspace: reserved bits are stored as given,
as far as the image of 04 R122 has room for them (04 R124; log 15). -/
def threadWrite (c b num : Nat) (v : Word) : List Eff :=
  match num with
  | 0x020 => [wspWrite c b 0x2F2 (toBytes 2 (field v 15 0))]
  | 0x021 => [wspWrite c b 0x2F0 (toBytes 2 (field v 15 0))]
  | 0x022 => [wspWrite c b 0x2F8 (wordBytes v)]
  | 0x030 => [wspWrite c b 0x2F4 (toBytes 4 (field v 31 0))]
  | 0x031 => [wspWrite c b 0x2E8 (toBytes 2 (field v 15 0))]
  | _ => []

/-- The write of a control register of the slot or the context. -/
def sharedWrite (c sl num : Nat) (v : Word) (r : Run) : Run :=
  match num with
  | 0x018 => r.modSlot c sl fun x => { x with sca := v }
  | 0x019 => r.modSlot c sl fun x => { x with scb := v }
  | 0x032 => r.modCore c fun x => { x with sgm := v }
  | 0x050 => r.modCore c fun x => { x with shpen := v }
  | n => r.modCore c fun x => { x with nf := mapSet 0 x.nf (n - 0x010) v }

/-- Whether a control register lives in the workspace. -/
def isThreadReg (num : Nat) : Bool := decide (0x020 ≤ num) && decide (num ≤ 0x031)

/-- A write of a control register (04 R123, R125): SHPEN also goes to the Lehr, and traps 0x92 in a
context without a scene (04 R119). -/
def Env.ctlWrite (e : Env) (num : Nat) (v : Word) (effs : List Eff) : Issue :=
  if isThreadReg num then
    .ok { effs := threadWrite e.c e.b num v ++ effs, ownsSrg := num == 0x022 }
  else
    let late := sharedWrite e.c e.sl num v
    if num = 0x050 then
      match e.ctx.bind Context.scene with
      | none => .trap 0x92 (BitVec.ofNat 64 e.word.toNat) 0
      | some _ => .ok { late := late, effs := effs ++ [e.async .none (.layer
          { op := 0x80, xop := 0, a := v, b := 0, c := 0, word := e.word })] }
    else .ok { effs := effs, late := late }

/-! ### The supervisor's operations on slots -/

/-- The queue with its head kept current after the named thread has changed (12 R318). -/
def Run.refreshHead (r : Run) (c : Nat) : Run :=
  let x := r.s.core c
  let l := freshHead r.s c x.trapq
  if l = x.trapq then r else r.emits (putQueue c { x with trapq := l })

/-- The slot that a register names: its low 4 bits. -/
def slotArg (v : Word) : Nat := field v 3 0

/-- The check of a workspace offset (04 R129). -/
def wspCheck (v : Word) (k : Issue) : Issue :=
  if field v 2 0 ≠ 0 then .trap 0x40 v 0 else if 0x800 ≤ v.toNat then .trap 0x41 v 0 else k

/-- Whether an operation waits on another agent's event, so that `slotctl.kill` withdraws it
(04 R132): F/E operations, unserved receives, unsatisfied waits on objects, counted arrivals, and the push
of a fork that faulted. -/
def AsyncOp.awaitsEvent (o : AsyncOp) : Bool :=
  match o.kind, o.st with
  | _, .done _ => false
  | .fe .fepoll _ _ _, _ => false
  | .fe _ _ _ _, _ => true
  | .recv _, _ => true
  | .xwait _ _ poll, _ => ! poll
  | .barrier _ _, .waiting => true
  | .fork _ _, .withdrawn => true
  | _, _ => false

/-- Operations and buffered `stfe`s of a slot taken out of it, and off the wait lists that they stand on. -/
def Run.withdrawOps (r : Run) (c sl : Nat) (ops : List AsyncOp) (sts : List SbEntry) : Run :=
  let gone (q : Nat) : Bool := ops.any (fun o => o.seq == q) || sts.any fun e => e.seq == q
  let r := r.emit (.waits (r.s.feWaits.filter fun w => ! (w.core == c && w.slot == sl && gone w.seq)))
  let r := r.modCore c fun y => { y with
    recvs := y.recvs.filter fun p => ! (p.1 == sl && ops.any fun o => o.seq == p.2) }
  r.modSlot c sl fun x => { x with
    async := x.async.filter fun o => ! ops.any fun q => q.seq == o.seq && q.tid == o.tid,
    sb := x.sb.filter fun e => ! sts.any fun q => q.seq == e.seq }

/-- The waits of a slot's thread withdrawn (04 R132, 06 R177). -/
def Run.withdrawWaits (r : Run) (c sl : Nat) : Run :=
  let x := r.s.slot c sl
  r.withdrawOps c sl (x.own.filter AsyncOp.awaitsEvent)
    (x.sb.head?.toList.filter fun e => e.tid == x.tid &&
      r.s.feWaits.any fun w => w.core == c && w.slot == sl && w.seq == e.seq)

/-- An arrival of a killed thread that is not counted yet: it stays to be counted, and its rank is
discarded (04 R132). -/
def AsyncOp.discardRank (o : AsyncOp) : AsyncOp :=
  match o.kind, o.st with
  | .barrier _ _, .sent => { o with st := .withdrawn }
  | _, _ => o

/-- `slotctl.kill` of a user slot (04 R132): its thread, if it holds one, ends, or is ending already;
the head record that names the slot leaves the queue whether or not it holds one. -/
def Run.kill (r : Run) (c sl : Nat) : Run :=
  let y := r.s.slot c sl
  let r := if y.wspV then
      let r := (r.withdrawWaits c sl).modSlot c sl fun x => { x with
        async := x.async.map fun o => if o.tid = x.tid then o.discardRank else o }
      if y.dying then r.reap c sl else r.retire c sl
    else r
  let x := r.s.core c
  match x.trapq with
  | t :: _ => if t.slot.toNat = sl then r.emits (putQueue c (dropHead r.s c x)) else r.refreshHead c
  | [] => r

/-- Whether an operation is a wait that `wspx` cancels with the bundle that sleeps on it (04 R131): it has not
been performed. -/
def AsyncOp.cancels (o : AsyncOp) : Bool :=
  match o.kind, o.st with
  | _, .done _ => false
  | .fe .fepoll _ _ _, _ => false
  | .fe _ _ _ _, _ => true
  | .recv _, _ => true
  | .xwait _ _ poll, _ => ! poll
  | .barrier _ _, _ => true
  | .join _, _ => true
  | _, _ => false

/-- Whether `wspx` of a slot waits for its thread's bundle boundary (04 R131): a solve has not finished (07
R221), or the thread stands parked by a bundle on which it does not sleep (log 68). -/
def wspxWaits (s : State) (c : Nat) (x : Slot) : Bool :=
  ! x.solves.isEmpty || (x.wspV && (match x.park with
    | some p => x.trap.isNone && (sleepOf s c x).isNone && ! parkOver s c x p
    | none => false))

/-- Arrivals taken out of their episodes; one that had no other arrival is open no more. -/
def withoutArrivals (l : List Episode) (c sl : Nat) (ops : List AsyncOp) : List Episode :=
  l.filterMap fun e =>
    let a := e.arrivals.filter fun y => ! (y.1 == c && y.2.1 == sl && ops.any fun o => o.seq == y.2.2)
    if a = [] ∧ e.arrivals ≠ [] then none else some { e with arrivals := a }

/-- The bundle by which a thread sleeps parked given up as not completed: its waits are cancelled, and it is
the next unissued one (04 R131; log 68). A bundle with an operation that was performed, or that is no
wait, has completed. -/
def Run.leaveBundle (r : Run) (c sl : Nat) : Run :=
  let x := r.s.slot c sl
  match sleepOf r.s c x, x.park with
  | some _, some p =>
    let ops := x.own.filter fun o => decide (p.first ≤ o.seq) && o.cancels
    let sts := x.ownStfe.filter fun e => decide (p.first ≤ e.seq)
    if ops.length + sts.length = x.seq - p.first then
      ((r.withdrawOps c sl ops sts).emit (.episodes (withoutArrivals r.s.episodes c sl ops))).emit
        (setPc c x.block p.pc)
    else r
  | _, _ => r

/-- A core whose slot's thread, which has not ended, is displaced. -/
def CoreSt.displaced (y : CoreSt) (sl : Nat) (x : Slot) : CoreSt :=
  if x.wspV && ! x.dying then { y with
    left := { slot := sl, block := x.block, tid := x.tid, launch := x.launch, counted := x.counted,
              synced := x.synced, covered := x.covered, fenced := x.fenced }
      :: y.left.filter fun e => e.block ≠ x.block }
  else y

/-- The displaced thread that a value of `WSP` puts back into a slot: that of its block. -/
def CoreSt.putBack (y : CoreSt) (v : Word) : Option LeftThread :=
  if bitAt v 0 then y.left.find? fun e => e.block == field v 16 11 else none

/-- A slot with its workspace replaced by `wspx`: the displaced thread's bindings close and its open commands
are discarded (06 R192, 08 R234). A thread that is put back is the same thread, of the same launch, and in
the slot that it had its operations are still its own; a workspace that the supervisor has made is a thread
of no launch (04 R131, 12 R321; log 68). -/
def Slot.swapped (x : Slot) (sl : Nat) (v : Word) (back : Option LeftThread) : Slot :=
  let x := { x with
    wspV := bitAt v 0, block := field v 16 11, streams := [], async := x.async.map retryFork,
    ports := closePorts x.ports, park := none, asleep := none, faults := [], trap := none,
    dying := false, hungOn := none, launch := back.bind LeftThread.launch,
    counted := (back.map LeftThread.counted).getD false }
  let x := match back with
    | some e => { x with synced := e.synced, covered := e.covered, fenced := e.fenced }
    | none => { x with synced := [], covered := [], fenced := none }
  match back.filter fun e => e.slot == sl with
  | some e => { x with tid := e.tid }
  | none => { x with tid := x.last + 1, last := x.last + 1 }

/-- The workspace of a slot replaced (04 R131). -/
def Run.swapWsp (r : Run) (c sl : Nat) (v : Word) : Run :=
  let r := r.leaveBundle c sl
  let r := (r.modCore c fun y => y.displaced sl (r.s.slot c sl))
  let back := (r.s.core c).putBack v
  let r := r.modCore c fun y => { y with left := y.left.filter fun e => some e ≠ back }
  (r.modSlot c sl fun x => x.swapped sl v back).refreshHead c

/-- Whether a register holds a value in the layout of `WSP` (04 R121). -/
def wspOk (v : Word) : Bool := field v 63 17 == 0 && field v 10 1 == 0

/-- Whether some slot's `WSP` names a block. -/
def blockNamed (s : State) (c b : Nat) : Bool :=
  (List.range 16).any fun sl => (s.slot c sl).wspV && (s.slot c sl).block == b

/-- The stored bytes of `wwr` that are not discarded: in block 0 the head window stays (12 R319). -/
def wwrEffs (c b off : Nat) (v : Word) : List Eff := wmStore c (b * 2048 + off) (wordBytes v)

/-- R123: Read a control register. -/
def semCrd (d : BitVec 5) (r : BitVec 12) (e : Env) : Issue :=
  e.putG d (ctlRead e.s e.c e.sl e.b r.toNat)

/-- The step `CRD`. -/
def execCrd (d : BitVec 5) (r : BitVec 12) (s' : State) : Host.Outcome State Fault Refusal :=
  runLone (.crd d r) (semCrd d r) s'

/-- R123: Write a control register. -/
def semCwr (a : BitVec 5) (r : BitVec 12) (e : Env) : Issue :=
  e.ctlWrite r.toNat (e.g a) []

/-- The step `CWR`. -/
def execCwr (a : BitVec 5) (r : BitVec 12) (s' : State) : Host.Outcome State Fault Refusal :=
  runLone (.cwr a r) (semCwr a r) s'

/-- R123: Exchange a control register indivisibly. -/
def semCrx (d a : BitVec 5) (r : BitVec 12) (e : Env) : Issue :=
  e.ctlWrite r.toNat (e.g a) (e.setG d (ctlRead e.s e.c e.sl e.b r.toNat))

/-- The step `CRX`. -/
def execCrx (d a : BitVec 5) (r : BitVec 12) (s' : State) : Host.Outcome State Fault Refusal :=
  runLone (.crx d a r) (semCrx d a r) s'

/-- R127: Trap the thread with cause 0xE0 + n. -/
def semTrap (a : BitVec 5) (n : BitVec 4) (e : Env) : Issue :=
  .trap (0xE0 + n.setWidth 8) (e.g a) 0

/-- The step `TRAP`. -/
def execTrap (a : BitVec 5) (n : BitVec 4) (s' : State) : Host.Outcome State Fault Refusal :=
  runLone (.trap a n) (semTrap a n) s'

/-- R128: Remove the head trap record and resume the slot it names. -/
def semRte (e : Env) : Issue :=
  .ok { late := fun r => r.emits (returnFromTrap r.s e.c) }

/-- The step `RTE`. -/
def execRte (s' : State) : Host.Outcome State Fault Refusal :=
  runLone (.rte) (semRte) s'

/-- R129: Read a dword of a slot's workspace. -/
def semWrd (d a b : BitVec 5) (e : Env) : Issue :=
  let x := e.s.slot e.c (slotArg (e.g a))
  wspCheck (e.g b) (e.putG d (if x.wspV then wspDword e.s e.c x.block (e.g b).toNat else 0))

/-- The step `WRD`. -/
def execWrd (d a b : BitVec 5) (s' : State) : Host.Outcome State Fault Refusal :=
  runLone (.wrd d a b) (semWrd d a b) s'

/-- R129: Write a dword of a slot's workspace. -/
def semWwr (d a b : BitVec 5) (e : Env) : Issue :=
  let x := e.s.slot e.c (slotArg (e.g a))
  let t := slotArg (e.g a)
  wspCheck (e.g b) (if x.wspV then .ok {
      effs := wwrEffs e.c x.block (e.g b).toNat (e.g d),
      late := fun r => if field (e.g b) 10 5 = 0x16 then
          r.modCore e.c fun y => y.bitsWritten e.s r.s e.c t x.block else r }
    else .ok {})

/-- The step `WWR`. -/
def execWwr (d a b : BitVec 5) (s' : State) : Host.Outcome State Fault Refusal :=
  runLone (.wwr d a b) (semWwr d a b) s'

/-- R130: Take the lowest free workspace block from the pool, clean. -/
def semWalloc (d : BitVec 5) (e : Env) : Issue :=
  match e.core.lowest with
  | some n => .ok {
      effs := e.setG d (BitVec.ofNat 64 (n * 2 ^ 11 + 1)),
      late := fun r => (r.modCore e.c fun y => { y with pool := setPut y.pool n false }).emit
        (.clean e.c (32 * n) 32) }
  | none => e.putG d 0

/-- The step `WALLOC`. -/
def execWalloc (d : BitVec 5) (s' : State) : Host.Outcome State Fault Refusal :=
  runLone (.walloc d) (semWalloc d) s'

/-- R130: Return a workspace block to the pool. -/
def semWallocRel (a : BitVec 5) (e : Env) : Issue :=
  let n := field (e.g a) 16 11
  if reservedBlock n ∨ blockNamed e.s e.c n then .trap 0x41 (e.g a) 0
  else if e.core.pool.contains n then .ok {}
  else .ok {
    late := fun r => (r.modCore e.c fun y => y.release n).emit (.clean e.c (32 * n) 32) }

/-- The step `WALLOC_REL`. -/
def execWallocRel (a : BitVec 5) (s' : State) : Host.Outcome State Fault Refusal :=
  runLone (.wallocRel a) (semWallocRel a) s'

/-- R132: End a slot's thread, withdrawing its waits and removing its head record. -/
def semSlotctlKill (d a : BitVec 5) (e : Env) : Issue :=
  let t := slotArg (e.g a)
  let x := e.s.slot e.c t
  if t = 0 then e.putG d 0
  else .ok { effs := e.setG d (bit01 (x.wspV && ! x.dying)), late := fun r => r.kill e.c t }

/-- The step `SLOTCTL_KILL`. -/
def execSlotctlKill (d a : BitVec 5) (s' : State) : Host.Outcome State Fault Refusal :=
  runLone (.slotctlKill d a) (semSlotctlKill d a) s'

/-- R133: Return a slot's status word. -/
def semSlotctlStat (d a : BitVec 5) (e : Env) : Issue :=
  e.putG d (slotStatus e.s e.c (slotArg (e.g a)))

/-- The step `SLOTCTL_STAT`. -/
def execSlotctlStat (d a : BitVec 5) (s' : State) : Host.Outcome State Fault Refusal :=
  runLone (.slotctlStat d a) (semSlotctlStat d a) s'

/-- R132: Hold a slot's thread at its next bundle boundary. -/
def semSlotctlStop (d a : BitVec 5) (e : Env) : Issue :=
  let t := slotArg (e.g a)
  if t = 0 then e.putG d 0
  else .ok { effs := e.setG d (slotStatus e.s e.c t),
             late := fun r => if (r.s.slot e.c t).wspV then
                 r.modSlot e.c t fun x => { x with hold := true } else r }

/-- The step `SLOTCTL_STOP`. -/
def execSlotctlStop (d a : BitVec 5) (s' : State) : Host.Outcome State Fault Refusal :=
  runLone (.slotctlStop d a) (semSlotctlStop d a) s'

/-- R132: Release a slot's hold. -/
def semSlotctlGo (d a : BitVec 5) (e : Env) : Issue :=
  let t := slotArg (e.g a)
  if t = 0 then e.putG d 0
  else .ok { effs := e.setG d (slotStatus e.s e.c t),
             late := fun r => r.modSlot e.c t fun x => { x with hold := false, stopped := false } }

/-- The step `SLOTCTL_GO`. -/
def execSlotctlGo (d a : BitVec 5) (s' : State) : Host.Outcome State Fault Refusal :=
  runLone (.slotctlGo d a) (semSlotctlGo d a) s'

/-- R134: Read TIME or the core's cycle count. -/
def semTsc (d : BitVec 5) (i : BitVec 12) (e : Env) : Issue :=
  e.putG d (if i = 0 then e.s.time else e.core.cycle)

/-- The step `TSC`. -/
def execTsc (d : BitVec 5) (i : BitVec 12) (s' : State) : Host.Outcome State Fault Refusal :=
  runLone (.tsc d i) (semTsc d i) s'

/-- R131: Replace a slot's workspace and return the old WSP. -/
def semWspx (d a b : BitVec 5) (e : Env) : Issue :=
  let t := slotArg (e.g a)
  if ! wspOk (e.g b) then .trap 0x41 (e.g b) 0
  else if wspxWaits e.s e.c (e.s.slot e.c t) then .stall [] none
  else .ok { effs := e.setG d (wspWord (e.s.slot e.c t)),
             late := fun r => r.swapWsp e.c t (e.g b) }

/-- The step `WSPX`. -/
def execWspx (d a b : BitVec 5) (s' : State) : Host.Outcome State Fault Refusal :=
  runLone (.wspx d a b) (semWspx d a b) s'

/-- R216: Read the quad's LICENCE register. -/
def semMlicQ (d : BitVec 5) (e : Env) : Issue :=
  e.putG d (licenceWord e.s (quadOf e.c))

/-- The step `MLIC_Q`. -/
def execMlicQ (d : BitVec 5) (s' : State) : Host.Outcome State Fault Refusal :=
  runLone (.mlicQ d) (semMlicQ d) s'

/-- R216: Set the core's explicit licence hold once the quad holds the licence. -/
def semMlicAcq (d : BitVec 5) (e : Env) : Issue :=
  let q := quadOf e.c
  let y := e.s.quad q
  if licenceReady e.s (quadOf e.c) then
    let held := { y with hold := y.hold ||| (1#4 <<< coreRank e.c) }
    .ok { effs := e.setG d (licenceWord (e.s.setQuad q held) q),
          late := fun r => r.modQuad q fun z => { z with hold := z.hold ||| (1#4 <<< coreRank e.c) } }
  else .stall (requestLicence e.s q) (some (5, 0))

/-- The step `MLIC_ACQ`. -/
def execMlicAcq (d : BitVec 5) (s' : State) : Host.Outcome State Fault Refusal :=
  runLone (.mlicAcq d) (semMlicAcq d) s'

/-- R216: Clear the core's explicit licence hold. -/
def semMlicRel (d : BitVec 5) (e : Env) : Issue :=
  let q := quadOf e.c
  .ok { effs := e.setG d (licenceWord e.s q),
        late := fun r => r.modQuad q fun z =>
          { z with hold := z.hold &&& ~~~ (1#4 <<< coreRank e.c) } }

/-- The step `MLIC_REL`. -/
def execMlicRel (d : BitVec 5) (s' : State) : Host.Outcome State Fault Refusal :=
  runLone (.mlicRel d) (semMlicRel d) s'

end Sys2Proof.Machine
end

