-- ==== Sys2Proof/Machine/Sem.lean ====
section
/-!
DEFINITION. The meaning of an instruction as a word of a bundle.
-/

namespace Sys2Proof.Machine

/-- The meaning of an instruction as a word of a bundle; a step that has no word has none. -/
def semOf (i : Instr) (e : Env) : Issue :=
  match i with
  | .nop => semNop e
  | .j o => semJ o e
  | .jal o => semJal o e
  | .jr a im => semJr a im e
  | .jalr d a im => semJalr d a im e
  | .bEq a b o => semBEq a b o e
  | .bNe a b o => semBNe a b o e
  | .bLt a b o => semBLt a b o e
  | .bGe a b o => semBGe a b o e
  | .bLtu a b o => semBLtu a b o e
  | .bGeu a b o => semBGeu a b o e
  | .loop v c n => semLoop v c n e
  | .lbrk v => semLbrk v e
  | .lbrkStay v => semLbrkStay v e
  | .fork a b o => semFork a b o e
  | .join d a im => semJoin d a im e
  | .susp a im => semSusp a im e
  | .yield => semYield e
  | .halt => semHalt e
  | .ldB d a s o => semLdB d a s o e
  | .ldBu d a s o => semLdBu d a s o e
  | .ldH d a s o => semLdH d a s o e
  | .ldHu d a s o => semLdHu d a s o e
  | .ldW d a s o => semLdW d a s o e
  | .ldWu d a s o => semLdWu d a s o e
  | .ldD d a s o => semLdD d a s o e
  | .stB d a s o => semStB d a s o e
  | .stH d a s o => semStH d a s o e
  | .stW d a s o => semStW d a s o e
  | .stD d a s o => semStD d a s o e
  | .vld d a s o => semVld d a s o e
  | .vst d a s o => semVst d a s o e
  | .vldm d a s m o => semVldm d a s m o e
  | .vstm d a s m o => semVstm d a s m o e
  | .vgat d a b z s => semVgat d a b z s e
  | .vsca d a b z s => semVsca d a b z s e
  | .pref a s o => semPref a s o e
  | .ldfe d a s o => semLdfe d a s o e
  | .ldfx d a s o => semLdfx d a s o e
  | .stfe d a s o => semStfe d a s o e
  | .stff d a s o => semStff d a s o e
  | .fepoll d a s o => semFepoll d a s o e
  | .fesetE a s o => semFesetE a s o e
  | .fesetF a s o => semFesetF a s o e
  | .amo d a b s z o => semAmo d a b s z o e
  | .cas d a b c s z => semCas d a b c s z e
  | .fenceAcq a v r => semFenceAcq a v r e
  | .fenceRel a v r => semFenceRel a v r e
  | .fenceAr a v r => semFenceAr a v r e
  | .fenceSc a v r => semFenceSc a v r e
  | .bar d a b v r n => semBar d a b v r n e
  | .barnb d a b v r n => semBarnb d a b v r n e
  | .send a b n => semSend a b n e
  | .recv d n => semRecv d n e
  | .rprobe d n => semRprobe d n e
  | .sbind d a => semSbind d a e
  | .sclose d => semSclose d e
  | .xcopy a b c fe q => semXcopy a b c fe q e
  | .xcopyFill a b c fe q => semXcopyFill a b c fe q e
  | .xgat a b c => semXgat a b c e
  | .xgatSca a b c => semXgatSca a b c e
  | .xgatScadd a b c => semXgatScadd a b c e
  | .xform a b c => semXform a b c e
  | .xformRans a b c => semXformRans a b c e
  | .xcoll a b c => semXcoll a b c e
  | .xcollBcast a b c => semXcollBcast a b c e
  | .xwait d a => semXwait d a e
  | .xwaitPoll d a => semXwaitPoll d a e
  | .tlrchk a b => semTlrchk a b e
  | .lnew a b c => semLnew a b c e
  | .lfree a => semLfree a e
  | .lpose a b => semLpose a b e
  | .lcommit a b => semLcommit a b e
  | .lsplit a b c => semLsplit a b c e
  | .lmerge a b c => semLmerge a b c e
  | .lerr a b => semLerr a b e
  | .lerrHdr a b => semLerrHdr a b e
  | .lprice a b => semLprice a b e
  | .lorder a b => semLorder a b e
  | .llight a b c => semLlight a b c e
  | .llightBump a => semLlightBump a e
  | .lshadow a b => semLshadow a b e
  | .lreqTmpl a b => semLreqTmpl a b e
  | .lreqNow a => semLreqNow a e
  | .lreqClr a => semLreqClr a e
  | .twput d fe im => semTwput d fe im e
  | .twget d fe im => semTwget d fe im e
  | .twtest d w => semTwtest d w e
  | .crd d r => semCrd d r e
  | .cwr a r => semCwr a r e
  | .crx d a r => semCrx d a r e
  | .trap a n => semTrap a n e
  | .rte => semRte e
  | .wrd d a b => semWrd d a b e
  | .wwr d a b => semWwr d a b e
  | .walloc d => semWalloc d e
  | .wallocRel a => semWallocRel a e
  | .slotctlKill d a => semSlotctlKill d a e
  | .slotctlStat d a => semSlotctlStat d a e
  | .slotctlStop d a => semSlotctlStop d a e
  | .slotctlGo d a => semSlotctlGo d a e
  | .tsc d im => semTsc d im e
  | .wspx d a b => semWspx d a b e
  | .mlicQ d => semMlicQ d e
  | .mlicAcq d => semMlicAcq d e
  | .mlicRel d => semMlicRel d e
  | .add d a b => semAdd d a b e
  | .sub d a b => semSub d a b e
  | .and d a b => semAnd d a b e
  | .or d a b => semOr d a b e
  | .xor d a b => semXor d a b e
  | .shl d a b => semShl d a b e
  | .shr d a b => semShr d a b e
  | .sra d a b => semSra d a b e
  | .mul d a b => semMul d a b e
  | .mulh d a b => semMulh d a b e
  | .mulhu d a b => semMulhu d a b e
  | .div d a b => semDiv d a b e
  | .divu d a b => semDivu d a b e
  | .rem d a b => semRem d a b e
  | .remu d a b => semRemu d a b e
  | .min d a b => semMin d a b e
  | .max d a b => semMax d a b e
  | .minu d a b => semMinu d a b e
  | .maxu d a b => semMaxu d a b e
  | .slt d a b => semSlt d a b e
  | .sltu d a b => semSltu d a b e
  | .clz d a => semClz d a e
  | .ctz d a => semCtz d a e
  | .popc d a => semPopc d a e
  | .revB d a => semRevB d a e
  | .revBit d a => semRevBit d a e
  | .ext d a u n => semExt d a u n e
  | .ins d a u n => semIns d a u n e
  | .sel d a b c => semSel d a b c e
  | .addi d a im => semAddi d a im e
  | .andi d a im => semAndi d a im e
  | .ori d a im => semOri d a im e
  | .xori d a im => semXori d a im e
  | .shli d a n => semShli d a n e
  | .shri d a n => semShri d a n e
  | .srai d a n => semSrai d a n e
  | .slti d a im => semSlti d a im e
  | .kon d im => semKon d im e
  | .konh d im => semKonh d im e
  | .sltiu d a im => semSltiu d a im e
  | .vadd d a b s r t => semVadd d a b s r t e
  | .vsub d a b s r t => semVsub d a b s r t e
  | .vmul d a b s r t => semVmul d a b s r t e
  | .vmulh d a b s r t => semVmulh d a b s r t e
  | .vfma d a b s r t => semVfma d a b s r t e
  | .vfms d a b s r t => semVfms d a b s r t e
  | .vfnma d a b s r t => semVfnma d a b s r t e
  | .vdiv d a b s r t => semVdiv d a b s r t e
  | .vsqrt d a s r t => semVsqrt d a s r t e
  | .vmin d a b s r t => semVmin d a b s r t e
  | .vmax d a b s r t => semVmax d a b s r t e
  | .vminn d a b s r t => semVminn d a b s r t e
  | .vmaxn d a b s r t => semVmaxn d a b s r t e
  | .vabs d a s r t => semVabs d a s r t e
  | .vneg d a s r t => semVneg d a s r t e
  | .vand d a b => semVand d a b e
  | .vor d a b => semVor d a b e
  | .vxor d a b => semVxor d a b e
  | .vnot d a => semVnot d a e
  | .vshl d a b s r t => semVshl d a b s r t e
  | .vshr d a b s r t => semVshr d a b s r t e
  | .vsra d a b s r t => semVsra d a b s r t e
  | .vcmp d a b c u t => semVcmp d a b c u t e
  | .vsel d a b c => semVsel d a b c e
  | .vsplat d a u t => semVsplat d a u t e
  | .vins d a b u t => semVins d a b u t e
  | .vext d a b u t => semVext d a b u t e
  | .vshuf d a b => semVshuf d a b e
  | .vzip d a b h u t => semVzip d a b h u t e
  | .vunzip d a b h u t => semVunzip d a b h u t e
  | .vred d a o s r t => semVred d a o s r t e
  | .vdot d a b s r t => semVdot d a b s r t e
  | .vsad d a b s r t => semVsad d a b s r t e
  | .vcvt d a s r t => semVcvt d a s r t e
  | .vpack d a n s c => semVpack d a n s c e
  | .vunpack d a n c => semVunpack d a n c e
  | .vrcp d a s r t => semVrcp d a s r t e
  | .vrsq d a s r t => semVrsq d a s r t e
  | .vexp2 d a s r t => semVexp2 d a s r t e
  | .vlog2 d a s r t => semVlog2 d a s r t e
  | .vsin d a s r t => semVsin d a s r t e
  | .vcos d a s r t => semVcos d a s r t e
  | .vclass d a t => semVclass d a t e
  | .vmov d a => semVmov d a e
  | .mand d a b => semMand d a b e
  | .mandNot d a b => semMandNot d a b e
  | .mor d a b => semMor d a b e
  | .morG d a b => semMorG d a b e
  | .mxor d a b => semMxor d a b e
  | .mnot d a => semMnot d a e
  | .mcnt d a => semMcnt d a e
  | .mcntRaw d a => semMcntRaw d a e
  | .mfirst d a => semMfirst d a e
  | .bbind a b => semBbind a b e
  | .bget d im => semBget d im e
  | .bgetv d a => semBgetv d a e
  | .bpeek d im => semBpeek d im e
  | .bskip a im => semBskip a im e
  | .bpos d => semBpos d e
  | .bposLeft d => semBposLeft d e
  | .bposState d => semBposState d e
  | .ansd d a b => semAnsd d a b e
  | .mma a b c fe q x y => semMma a b c fe q x y e
  | .mmac a b c fe q x y => semMmac a b c fe q x y e
  | .mmz a w => semMmz a w e
  | .mmd a b fe q k w => semMmd a b fe q k w e
  | .munf a b c => semMunf a b c e
  | .qld d g s => semQld d g s e
  | .qst a g s => semQst a g s e
  | .qcomp d a b => semQcomp d a b e
  | .qinv d a => semQinv d a e
  | .qrnd d => semQrnd d e
  | .qid d => semQid d e
  | .qapp a g v => semQapp a g v e
  | .qtile a g => semQtile a g e
  | .qcyc a g => semQcyc a g e
  | .qchk g d s => semQchk g d s e
  | .barrelTurn => .ok {}
  | .asyncResultWrite => .ok {}
  | .deferredTrap => .ok {}
  | .trapRecordEnqueue => .ok {}
  | .storeBufferDrain => .ok {}
  | .stationWrite => .ok {}
  | .homeAtomic => .ok {}
  | .feHomeOperation => .ok {}
  | .waitLimitTrap => .ok {}
  | .twinWaitLimitTrap => .ok {}
  | .barrierArrival => .ok {}
  | .channelDelivery => .ok {}
  | .streamElementArrival => .ok {}
  | .engineCommandStart => .ok {}
  | .engineCommandComplete => .ok {}
  | .collectiveComplete => .ok {}
  | .matrixOperationRetire => .ok {}
  | .routeSolveComplete => .ok {}
  | .licenceService => .ok {}
  | .licenceQuantumExpiry => .ok {}
  | .licencePass => .ok {}
  | .forkRecordPush => .ok {}
  | .idleSlotSeek => .ok {}
  | .hangDetected => .ok {}
  | .slotLevelApply => .ok {}
  | .boostIntervalBoundary => .ok {}
  | .widxUpdate => .ok {}
  | .gafferServiceStep => .ok {}
  | .launch => .ok {}
  | .wait => .ok {}
  | .signal => .ok {}
  | .barrierAnd => .ok {}
  | .sceneFrame => .ok {}
  | .cohortWrite => .ok {}
  | .signalReread => .ok {}
  | .launchComplete => .ok {}
  | .dieReport => .ok {}
  | .qholdExpiry => .ok {}
  | .pageRequestReply => .ok {}
  | .pageRequestTimeout => .ok {}
  | .preemptionInterrupt => .ok {}
  | .preemptionSave => .ok {}
  | .contextResume => .ok {}
  | .messageForward => .ok {}
  | .layerInstructionPerform => .ok {}
  | .frameStart => .ok {}
  | .frameEnd => .ok {}
  | .status => .ok {}
  | .qreg => .ok {}
  | .qunreg => .ok {}
  | .part => .ok {}
  | .savereg => .ok {}
  | .inval => .ok {}
  | .lmeta => .ok {}
  | .scrub => .ok {}
  | .errcnt => .ok {}
  | .staging => .ok {}
  | .stage => .ok {}
  | .horead => .ok {}
  | .registerWrite => .ok {}
  | .quiesceSafePoint => .ok {}
  | .quiesceTimeout => .ok {}
  | .heartbeat => .ok {}
  | .probationDeadline => .ok {}
  | .fallback => .ok {}
  | .keyDerivationComplete => .ok {}
  | .powerGood => .ok {}
  | .memoryTrained => .ok {}
  | .getVersion => .ok {}
  | .getCapabilities => .ok {}
  | .negotiateAlgorithms => .ok {}
  | .getDigests => .ok {}
  | .getCertificate => .ok {}
  | .challenge => .ok {}
  | .getMeasurements => .ok {}
  | .linkTraining => .ok {}
  | .hostDeviceMemoryAccess => .ok {}
  | .linkDown => .ok {}
  | .linkDownTimeout => .ok {}
  | .kenlinkTraining => .ok {}
  | .peerGlAccess => .ok {}
  | .peerDeviceFailed => .ok {}
  | .thermalLevelEnter => .ok {}
  | .thermalLevelLeave => .ok {}
  | .hardTrip => .ok {}
  | .standbyRailLoss => .ok {}

end Sys2Proof.Machine
end

