-- ==== Sys2Proof/Machine/Turn.lean ====
section
/-!
DEFINITION. The turn of a core: its slot issues the bundle at its thread's PC, or seeks a record,
or the cycle is a bubble (02 R37-R50, R53-R58).
-/

namespace Sys2Proof.Machine

/-- What the two words at a PC decode to, with what the fetch leaves at the stations. -/
inductive Fetched where
  | words (l : List (BitVec 32)) (effs : List Eff)
  | trap (pair : Bool) (cause : BitVec 8) (aux : Word) (aux2 : BitVec 32) (effs : List Eff)
  /-- The fetch waits for a page: the address. -/
  | page (va : Nat)
  | wait

/-- The bundle fetched at a PC, after the checks of 0x03 (02 R45, R48). -/
def fetchBundle (s : State) (c sl pc : Nat) : Fetched :=
  match fetchWord s c sl pc with
  | .fault cause a e => .trap false cause (BitVec.ofNat 64 pc) a e
  | .page => .page pc
  | .wait => .wait
  | .ok w l =>
    if w.getLsbD 31 then .words [w] l
    else if pc % 8 ≠ 0 then .trap false 0x03 (w.setWidth 64) 0 l
    else match fetchWord (applyAll s l) c sl (pc + 4) with
      | .fault cause a e => .trap true cause (BitVec.ofNat 64 (pc + 4)) a (l ++ e)
      | .page => .page (pc + 4)
      | .wait => .wait
      | .ok w2 e =>
        if w.getLsbD 30 || ! w2.getLsbD 30 || w2.getLsbD 31 then
          .trap true 0x03 (w.setWidth 64 ||| w2.setWidth 64 <<< 32) 1 (l ++ e)
        else .words [w, w2] (l ++ e)

/-- A word of a pair or a lone word decoded; P in the second word is a reserved field. -/
def decodeAt (w : BitVec 32) (idx : Nat) : Except DecodeErr Instr :=
  match decodeWord w with
  | .ok i => if idx = 1 && w.getLsbD 29 then .error .reservedField else .ok i
  | .error x => .error x

/-- The first word that fails decode in a given way. -/
def firstErr (x : DecodeErr) : Nat → List (BitVec 32) → Option (BitVec 32 × Nat)
  | _, [] => none
  | i, w :: r =>
    match decodeAt w i with
    | .error y => if y = x then some (w, i) else firstErr x (i + 1) r
    | .ok _ => firstErr x (i + 1) r

/-- A word as it issues. A word of an engine's opcode with an operation that the engine reserves
pushes its header, which the engine turns away (08 R235, R236). -/
def wordIssuing (w : BitVec 32) (idx : Nat) : Issuing :=
  match decodeWord w with
  | .ok i => issuing i w idx (semOf i)
  | .error _ =>
    let eng := (w.extractLsb' 22 7).toNat - 0x37
    let a := w.extractLsb' 17 5
    let b := w.extractLsb' 12 5
    let c := w.extractLsb' 7 5
    { word := w, idx := idx, reads := [gc a, gc b, gc c],
      writes := [vc (BitVec.ofNat 5 (28 + eng))], priv := false, binds := false,
      sem := fun e => e.xPush eng (w.extractLsb' 0 7).toNat a b c }

/-- The words of a bundle numbered. -/
def issuingFrom : Nat → List (BitVec 32) → List Issuing
  | _, [] => []
  | i, w :: r => wordIssuing w i :: issuingFrom (i + 1) r

/-- The bundle fetched at a thread's PC, decoded and issued. -/
def Run.fetchIssue (r : Run) (c sl : Nat) : Run :=
  let pc := fetchPc r.s c sl
  match fetchBundle r.s c sl pc with
  | .page va => r.emit (.pages (raisePage r.s (r.s.pidOf c) va false (r.s.slot c sl).launch.toList))
  | .wait => r
  | .trap pair cause aux aux2 e => (r.emits e).trapAt c sl pc (pc + 4) pair cause aux aux2
  | .words l e =>
    let r := r.emits e
    let pair := decide (1 < l.length)
    let npc := pc + 4 * l.length
    match firstErr .reservedOp 0 l, firstErr .reservedField 0 l with
    | some (w, i), _ => r.trapAt c sl pc npc pair 0x01 (w.setWidth 64) (BitVec.ofNat 32 i)
    | none, some (w, i) => r.trapAt c sl pc npc pair 0x02 (w.setWidth 64) (BitVec.ofNat 32 i)
    | none, none =>
      r.bundle c sl pc (issuingFrom 0 l) ((l.head?.map fun w => w.getLsbD 29).getD false)

/-- The turn of a core (02 R37): `k` is how many bytes the bit buffer of the slot's thread has
fetched ahead before it. -/
def Run.turn (r : Run) (c k : Nat) : Run :=
  let sl := turnSlot r.s c
  let r := (r.startTurn c sl).prefetch c sl k
  (if lowestIdle r.s c = some sl then r.seek c sl
  else match r.gate c sl with
    | .past r => r
    | .go q => q.fetchIssue c sl).tick c

/-- The step `BARREL_TURN` of core `sel.core`; `sel.num` is how many bytes the bit buffer of the
slot's thread has fetched ahead. -/
def barrelTurnRun (s : State) : Option (List Eff) :=
  some ((Run.start s).turn s.sel.core s.sel.num).done

/-- The step `BARREL_TURN`. -/
def execBarrelTurn (s : State) : Host.Outcome State Fault Refusal :=
  finish s (barrelTurnRun s)

end Sys2Proof.Machine
end

