-- ==== Sys2Proof/Machine/Async.lean ====
section
/-!
DEFINITION. What becomes of the operations that threads have started: results written, stores
leaving their buffers, operations at their homes, arrivals, messages, stream elements, solved
routes, and the enqueueing of trap records.
-/

namespace Sys2Proof.Machine

/-! ### Results (02 R41, R60-R62) -/

/-- The retirement of a thread at a `join` that does not continue, when it still stands in its
slot; a displaced thread has nothing left to end (04 R113, R117). -/
def Run.joinDone (r : Run) (c sl : Nat) (o : AsyncOp) (addr old : Nat) : Run :=
  let x := r.s.slot c sl
  if old = 0 then r.failOp c sl o 0x66 (BitVec.ofNat 64 addr) 0
  else if old = 1 then r.complete c sl o 1
  else if sl = 0 then r.complete c sl o 0
  else
    let r := r.modSlot c sl fun x => x.delOp o
    if x.holds o.tid then r.retire c sl else r.reap c sl

/-- The slot freed after the record of `susp` has been written; slot 0 goes on (04 R114, R117). -/
def Run.suspDone (r : Run) (c sl : Nat) (o : AsyncOp) : Run :=
  let x := r.s.slot c sl
  let r := r.modSlot c sl fun x => x.delOp o
  if sl ≠ 0 && x.holds o.tid then r.retire c sl else r.reap c sl

/-- The result of an `xwait` written, when it is due (08 R241). -/
def Run.xwaitRead (r : Run) (c sl : Nat) (o : AsyncOp) (addr : Nat) : Option Run :=
  match r.xwaitNow c sl o with
  | some (.ok v e) => some ((r.emits e).complete c sl o (v.setWidth 128))
  | some (.fault cause a e) => some ((r.emits e).failOp c sl o cause (BitVec.ofNat 64 addr) a)
  | _ => none

/-- The result of an operation written, or nothing when it is not due. -/
def Run.resultWrite (r : Run) (c sl seq : Nat) : Option Run :=
  match (r.s.slot c sl).findOp seq with
  | none => none
  | some o =>
    match o.kind, o.st with
    | .fork _ _, _ => none
    | .join a, .done v => some (r.joinDone c sl o a v.toNat)
    | .susp _ _, .done _ => some (r.suspDone c sl o)
    | .xwait a _ _, .sent => r.xwaitRead c sl o a
    | _, .done v => some (r.complete c sl o v)
    | .load _ _ _ _, .sent =>
      let q := r.satisfyBefore c sl o.tid o.seq
      let q := if (q.s.slot c sl).unreadBefore o.tid o.seq then q else q.satisfy c sl o
      if q.effs.length = r.effs.length then none
      else match (q.s.slot c sl).findOp seq with
        | some p =>
          match p.st with
          | .done v => some (q.complete c sl p v)
          | _ => some q
        | none => some q
    | _, _ => none

/-- The step `ASYNC_RESULT_WRITE` of operation `sel.num` of slot `sel.slot` of core `sel.core`
(02 R41, R60). -/
def asyncResultWriteRun (s : State) : Option (List Eff) :=
  ((Run.start s).resultWrite s.sel.core s.sel.slot s.sel.num).map Run.done

/-! ### Traps at a turn -/

/-- The turn of a core when a condition on its slot holds. -/
def turnWhen (s : State) (p : Nat → Nat → Bool) : Option (List Eff) :=
  let c := s.sel.core
  let sl := turnSlot s c
  if s.sel.slot = sl ∧ p c sl then some ((Run.start s).turn c 0).done else none

/-- The step `DEFERRED_TRAP`: the turn at which the thread of slot `sel.slot` takes a fault that
has arrived (02 R65). -/
def deferredTrapRun (s : State) : Option (List Eff) :=
  turnWhen s fun c sl => ! slotInert s c sl && ! (s.slot c sl).faults.isEmpty

/-- The step `WAIT_LIMIT_TRAP`: the turn at which a thread asleep on an F/E word has passed its
limit (06 R177). -/
def waitLimitTrapRun (s : State) : Option (List Eff) :=
  turnWhen s fun c sl =>
    let x := s.slot c sl
    ! slotInert s c sl && ! slotOff s c sl && x.faults.isEmpty
      && (match x.park with
        | some p => ! parkOver s c x p && (limitTrap s c sl x p).isSome
        | none => false)

/-- Whether a thread asleep on a twin-window entry has passed its limit (06 R194). -/
def twinLimit (s : State) (c : Nat) (x : Slot) : Bool :=
  match x.asleep with
  | some a =>
    let lim := wlimOf s c x.block
    a.kind == 0 && lim != 0 && decide (lim < (s.core c).cycle.toNat - a.cycle)
  | none => false

/-- The step `TWIN_WAIT_LIMIT_TRAP`: the turn at which a waiting `twput.fe` or `twget.fe` has
passed its limit (06 R194). -/
def twinWaitLimitTrapRun (s : State) : Option (List Eff) :=
  turnWhen s fun c sl =>
    let x := s.slot c sl
    ! slotBarred s c sl && x.faults.isEmpty && x.park.isNone && twinLimit s c x

/-! ### Trap records (12 R316-R323) -/

/-- The step `TRAP_RECORD_ENQUEUE` of slot `sel.slot` of core `sel.core`: records that are ready
together join in ascending slot order (12 R316). -/
def trapRecordEnqueueRun (s : State) : Option (List Eff) :=
  let c := s.sel.core
  let sl := s.sel.slot
  match (List.range sl).find? fun k => (readyRecord s c k).isSome, readyRecord s c sl with
  | none, some t => some ((Run.start s).enqueueTrap c sl t).done
  | _, _ => none

/-! ### Homes (06 R175, R179-R181) -/

/-- Whether a synchronising operation or store may be sent: the thread's earlier stores are
visible and its earlier loads have returned (06 R181). -/
def Slot.clearBefore (x : Slot) (tid seq : Nat) : Bool :=
  ! x.storeBefore tid seq && ! x.loadBefore tid seq

/-- The new value of an `amo`, in n bits (06 R179). -/
def amoValue (op : BitVec 4) (n : Nat) (old b : Word) : Word :=
  let o := zextLow old n
  let v := zextLow b n
  let so := sextLow old n
  let sv := sextLow b n
  zextLow (match op.toNat with
    | 0 => o + v
    | 1 => o &&& v
    | 2 => o ||| v
    | 3 => o ^^^ v
    | 4 => if so.slt sv then o else v
    | 5 => if so.slt sv then v else o
    | 6 => if o.ult v then o else v
    | 7 => if o.ult v then v else o
    | _ => v) n

/-- The old value as `amo` returns it: zero-extended for the unsigned orders. -/
def amoResult (op : BitVec 4) (n : Nat) (old : Word) : Word :=
  if op = 6 ∨ op = 7 then zextLow old n else sextLow old n

/-- A read and a write of one word at its home, as one access: the word's key, and the old bytes. -/
def updateHome (s : State) (c : Nat) (sp : Space) (addr n : Nat) (f : Word → Option Word) :
    Acc (Nat × List Byte) :=
  match homeOf s c sp addr false with
  | .fault cause a e => .fault cause a e
  | .page => .page
  | .wait => .wait
  | .ok key _ =>
    match memAtHome s c sp addr n with
    | .fault cause a e => .fault cause a e
    | .page => .page
    | .wait => .wait
    | .ok bs e =>
      match f (wordOf bs) with
      | none => .ok (key, bs) e
      | some v =>
        match memWrite s c sp addr (toBytes n v.toNat) .rw with
        | .ok _ e2 => .ok (key, bs) (e ++ e2)
        | .fault cause a e2 => .fault cause a (e ++ e2)
        | .page => .page
        | .wait => .wait

/-- What an operation at its home comes to; `res` is the value that the old word returns. -/
def Run.homeAnswer (r : Run) (c sl : Nat) (o : AsyncOp) (addr : Nat) (a : Acc (Nat × List Byte))
    (res : Word → Word) : Option Run :=
  match a with
  | .ok v e => some ((r.emits e).handBack c sl o v.1 addr v.2 fun bs =>
      (res (wordOf bs)).setWidth 128)
  | .fault cause a e => some ((r.emits e).failOp c sl o cause (BitVec.ofNat 64 addr) a)
  | .page => some (r.awaitPage c sl o addr true)
  | .wait => none

/-- `amo`, `cas`, and the accesses of `join`, `fork` and `susp`, performed (06 R179, R180, 04
R112-R114). -/
def Run.homeAtomic (r : Run) (c sl seq : Nat) : Option Run :=
  let x := r.s.slot c sl
  match x.findOp seq with
  | none => none
  | some o =>
    if o.st ≠ .sent ∨ ! x.clearBefore o.tid o.seq then none
    else match o.kind with
      | .amo op sp addr d b =>
        let n := if d then 64 else 32
        r.homeAnswer c sl o addr
          (updateHome r.s c sp addr (n / 8) fun v => some (amoValue op n v b)) (amoResult op n)
      | .cas sp addr d b c' =>
        let n := if d then 64 else 32
        r.homeAnswer c sl o addr
          (updateHome r.s c sp addr (n / 8) fun v =>
            if zextLow v n = zextLow b n then some c' else none) (fun v => sextLow v n)
      | .join addr =>
        r.homeAnswer c sl o addr
          (updateHome r.s c .gl addr 8 fun v => if v = 0 then none else some (v - 1)) id
      | .fork addr _ =>
        if addr = 0 then none
        else r.homeAnswer c sl o addr (updateHome r.s c .gl addr 8 fun v => some (v + 1)) id
      | .susp addr rec_ =>
        r.homeAnswer c sl o addr
          (match coreWrite r.s c addr rec_ .write true with
            | .ok _ e => .ok (0, []) e
            | .fault cause a e => .fault cause a e
            | .page => .page
            | .wait => .wait) id
      | _ => none

/-- The step `HOME_ATOMIC` of operation `sel.num` of slot `sel.slot` of core `sel.core`. -/
def homeAtomicRun (s : State) : Option (List Eff) :=
  ((Run.start s).homeAtomic s.sel.core s.sel.slot s.sel.num).map Run.done

/-- An F/E load sent to its home, once the thread's earlier reads are made (11 R303): performed, or
put on the word's wait list (06 R175, R176). `fepoll` orders nothing (06 R181). -/
def Run.feLoadHome (r : Run) (c sl : Nat) (o : AsyncOp) (k : FeKind) (sp : Space) (addr : Nat) :
    Option Run :=
  let r := if k = .fepoll then r else r.satisfyBefore c sl o.tid o.seq
  if k ≠ .fepoll ∧ (r.s.slot c sl).unreadBefore o.tid o.seq then none
  else match homeOf r.s c sp addr true with
  | .fault cause a e => some ((r.emits e).failOp c sl o cause (BitVec.ofNat 64 addr) a)
  | .page => some (r.awaitPage c sl o addr true)
  | .wait => none
  | .ok key _ =>
    match feTry r.s c k sp addr key 0 with
    | none => some ((r.emit (.waits (r.s.feWaits ++ [{ key, core := c, slot := sl, seq := o.seq }]))).modSlot
        c sl fun x => x.setOp { o with st := .waiting })
    | some (.ok v e) =>
      let r := r.emits e
      let r := if k = .fepoll then r.modSlot c sl fun x => x.setOp { o with st := .done (wordValue v.1) }
        else r.handBack c sl o key addr v.1 wordValue
      some (if v.2 then r.walk key else r)
    | some (.fault cause a e) => some ((r.emits e).failOp c sl o cause (BitVec.ofNat 64 addr) a)
    | some _ => none

/-- The head of a store buffer held until its page arrives. -/
def Run.holdHead (r : Run) (c sl : Nat) (e : SbEntry) (va : Nat) : Run :=
  (r.modSlot c sl fun x => { x with
    sb := x.sb.map fun y => if y = e then { y with held := true } else y }).emit
    (.pages (raisePage r.s (r.s.pidOf c) va true e.launch.toList))

/-- The head of a store buffer whose access has been answered. -/
def Run.headAnswer (r : Run) (c sl : Nat) (e : SbEntry) (addr lane : Nat) (a : Acc Unit) :
    Option Run :=
  match a with
  | .ok _ l => some ((r.emits l).popSb c sl)
  | .fault cause x l =>
    some (((r.emits l).storeFault c sl e cause (BitVec.ofNat 64 addr)
      (laneAux cause lane x)).popSb c sl)
  | .page => some (r.holdHead c sl e addr)
  | .wait => none

/-- `stff` and `feset` at the head of a buffer performed at the word's home: `data` is what
`stff` stores. -/
def Run.feSetHome (r : Run) (c sl : Nat) (e : SbEntry) (sp : Space) (addr : Nat) (full : Bool)
    (data : Option Word) : Option Run :=
  match homeOf r.s c sp addr true with
  | .fault cause a l => r.headAnswer c sl e addr 0 (.fault cause a l)
  | .page => r.headAnswer c sl e addr 0 .page
  | .wait => none
  | .ok key _ =>
    let changed := tagFull r.s key != full
    let acc : Acc Unit := match data with
      | none => .ok () []
      | some w => memWrite r.s c sp addr (wordBytes w) .rw
    match acc with
    | .ok _ l => (r.headAnswer c sl e addr 0 (.ok () (l ++ [.tag key full]))).map fun r =>
        if changed then r.walk key else r
    | a => r.headAnswer c sl e addr 0 a

/-- `stfe` at the head of a buffer sent to its home; it waits there for the word to be empty, and
stays at the head meanwhile (06 R176). -/
def Run.stfeHome (r : Run) (c sl : Nat) (e : SbEntry) (sp : Space) (addr : Nat) (data : Word) :
    Option Run :=
  if r.s.feWaits.any fun w => w.core == c && w.slot == sl && w.seq == e.seq then none
  else match homeOf r.s c sp addr true with
    | .fault cause a l => r.headAnswer c sl e addr 0 (.fault cause a l)
    | .page => r.headAnswer c sl e addr 0 .page
    | .wait => none
    | .ok key _ =>
      match feTry r.s c .stfe sp addr key data with
      | none => some (r.emit (.waits (r.s.feWaits ++ [{ key, core := c, slot := sl, seq := e.seq }])))
      | some (.ok _ l) => (r.headAnswer c sl e addr 0 (.ok () l)).map fun r => r.walk key
      | some (.fault cause a l) => r.headAnswer c sl e addr 0 (.fault cause a l)
      | some .page => r.headAnswer c sl e addr 0 .page
      | some .wait => none

/-- A full/empty entry at the head of a slot's store buffer sent to its home. -/
def Run.feHead (r : Run) (c sl : Nat) (e : SbEntry) : Option Run :=
  if ! (r.s.slot c sl).clearBefore e.tid e.seq then none
  else match e.kind with
    | .stfe sp addr data => r.stfeHome c sl e sp addr data
    | .stff sp addr data => r.feSetHome c sl e sp addr true (some data)
    | .feset sp addr full => r.feSetHome c sl e sp addr full none
    | _ => none

/-- The step `FE_HOME_OPERATION` of the operation, or of the buffer's head, with number `sel.num`
of slot `sel.slot` of core `sel.core` (06 R175). -/
def feHomeOperationRun (s : State) : Option (List Eff) :=
  let c := s.sel.core
  let sl := s.sel.slot
  let x := s.slot c sl
  let r := Run.start s
  (match x.findOp s.sel.num with
    | some o =>
      match o.kind, o.st with
      | .fe k sp addr _, .sent => r.feLoadHome c sl o k sp addr
      | _, _ => none
    | none =>
      match x.sb with
      | e :: _ => if e.seq = s.sel.num && ! e.held then r.feHead c sl e else none
      | [] => none).map Run.done

/-! ### The store buffer drains (06 R166, 11 R303) -/

/-- The accesses of a store performed in order, each with the number of its lane; the first that
does not succeed ends them. -/
def storeParts (s : State) (c : Nat) (sp : Space) : Nat → List (Nat × List Byte) → List Eff →
    Acc Unit × Nat × Nat
  | _, [], l => (.ok () l, 0, 0)
  | k, p :: rest, l =>
    if p.2 = [] then storeParts s c sp (k + 1) rest l
    else match memWrite s c sp p.1 p.2 .write with
      | .ok _ e => storeParts (applyAll s e) c sp (k + 1) rest (l ++ e)
      | .fault cause a e => (.fault cause a (l ++ e), p.1, k)
      | .page => (.page, p.1, k)
      | .wait => (.wait, p.1, k)

/-- A store performed: what it comes to, with the address and the lane of the access that did not succeed.
A masked store to GL is one access, which carries one check (22 R409, R418). -/
def SbKind.perform (s : State) (c : Nat) (k : SbKind) : Acc Unit × Nat × Nat :=
  match k with
  | .store sp parts => storeParts s c sp 0 parts []
  | .masked .gl a v m => (if m = 0 then .ok () [] else coreMerge s c a (maskedBytes v m) .write false, a, 0)
  | .masked sp a v m => ((storeParts s c sp 0 (maskedParts a v m) []).1, a, 0)
  | _ => (.wait, 0, 0)

/-- The oldest entry of a slot's store buffer leaves it and becomes visible. -/
def Run.drainHead (r : Run) (c sl : Nat) : Option Run :=
  match (r.s.slot c sl).sb with
  | [] => none
  | e :: _ =>
    if e.held then none
    else if e.kind.parts.isNone then
      match e.kind with
      | .marker => if (r.s.slot c sl).loadBefore e.tid e.seq then none else some (r.popSb c sl)
      | _ => r.feHead c sl e
    else
      let r := r.satisfyBefore c sl e.tid e.seq
      if (r.s.slot c sl).unreadBefore e.tid e.seq then none
      else
        let (a, addr, lane) := e.kind.perform r.s c
        r.headAnswer c sl e addr lane a

/-- The step `STORE_BUFFER_DRAIN` of slot `sel.slot` of core `sel.core`. -/
def storeBufferDrainRun (s : State) : Option (List Eff) :=
  ((Run.start s).drainHead s.sel.core s.sel.slot).map Run.done

/-- The step `STATION_WRITE`: the station performs a write of the bytes `sel.data` at physical
address `sel.num` of HBM, or of the second tier when `sel.yes`, with or without COMP as
`sel.write` says (22 R414). The bytes lie in one line. -/
def stationWriteRun (s : State) : Option (List Eff) :=
  let n := s.sel.data.length
  if n = 0 ∨ 128 < s.sel.num % 128 + n then none
  else some (physWrite s (if s.sel.yes then .tier2 else .hbm) s.sel.num s.sel.data s.sel.write
    true).1

/-! ### Barriers (06 R185-R187) -/

/-- The operation of a slot that has arrived at an instance and waits for its rank. -/
def Slot.arrived (x : Slot) (name : BarName) (seq : Nat) : Option AsyncOp :=
  match x.findOp seq with
  | some o =>
    match o.kind, o.st with
    | .barrier b _, .waiting => if b = name then some o else none
    | _, _ => none
  | none => none

/-- The rank of an arrival whose core is saved is held, and delivered at resumption (16 R367). -/
def Run.holdRank (r : Run) (name : BarName) (c sl seq k : Nat) : Run :=
  match r.s.gaffer.saves.find? fun e =>
      e.2.pos == c && ((mapGet Slot.reset e.2.slots sl).arrived name seq).isSome with
  | none => r
  | some (n, a) =>
    let x := mapGet Slot.reset a.slots sl
    match x.arrived name seq with
    | none => r
    | some o =>
      let a := { a with
        slots := mapSet Slot.reset a.slots sl (x.setOp { o with st := .done (BitVec.ofNat 128 k) }) }
      r.modGaffer fun g => { g with saves := mapPut g.saves n a }

/-- What stands for the core of an arrival that another package of the pod has sent. -/
def remoteCore : Nat := 4096

/-- The arrivals of a completed episode given their ranks in arrival order; that of another package
is answered over Kenlink (25 R446). -/
def Run.giveRanks (r : Run) (name : BarName) : Nat → List (Nat × Nat × Nat) → Run
  | _, [] => r
  | k, (c, sl, seq) :: rest =>
    let r := if c = remoteCore then r.replyPeer { bytes := toBytes 8 k }
      else match (r.s.slot c sl).arrived name seq with
        | some o => r.modSlot c sl fun x => x.setOp { o with st := .done (BitVec.ofNat 128 k) }
        | none => r.holdRank name c sl seq k
    r.giveRanks name (k + 1) rest

/-- An episode with one more arrival; complete when N have been counted. -/
def Run.countArrival (r : Run) (e : Episode) : Run :=
  let others := r.s.episodes.filter fun x => x.name ≠ e.name
  if e.arrivals.length = e.n then (r.giveRanks e.name 0 e.arrivals).emit (.episodes others)
  else r.emit (.episodes (others ++ [e]))

/-- The episode of an instance that is open, or one that an arrival with N = n opens. -/
def episodeOf (s : State) (name : BarName) (n : Nat) : Episode :=
  (s.episodes.find? fun e => e.name == name).getD { name := name, n := n, arrivals := [] }

/-- The count of an arrival that another package has sent at an instance of pod scope. -/
def Run.remoteArrival (r : Run) (name : BarName) (n : Nat) : Run :=
  let e := episodeOf r.s name n
  if e.n ≠ n then r.replyPeer { bytes := toBytes 8 e.n, failed := true }
  else r.countArrival { e with arrivals := e.arrivals ++ [(remoteCore, 0, 0)] }

/-- The count of an arrival at the barrier network. -/
def Run.arrival (r : Run) (c sl seq : Nat) : Option Run :=
  let x := r.s.slot c sl
  match x.findOp seq with
  | none => none
  | some o =>
    match o.kind with
    | .barrier name n =>
      if (o.st ≠ .sent ∧ o.st ≠ .withdrawn) ∨ ! x.clearBefore o.tid o.seq then none
      else
        let e := episodeOf r.s name n
        if e.n ≠ n then
          some (r.failOp c sl o 0x62 (BitVec.ofNat 64 n) (BitVec.ofNat 32 e.n))
        else
          let e := { e with arrivals := e.arrivals ++ [(c, sl, seq)] }
          let r := if o.st = .withdrawn then (r.modSlot c sl fun x => x.delOp o).reap c sl
            else r.modSlot c sl fun x => x.setOp { o with st := .waiting }
          some (r.countArrival e)
    | _ => none

/-- The instance that an arrival of another package names: process `sel.num`, number `sel.slot`, of
register form when `sel.yes`; the pod is one unit. -/
def remoteName (x : Sel) : BarName :=
  { pid := BitVec.ofNat 20 x.num, scope := .level 5 0, regForm := x.yes, num := BitVec.ofNat 2 x.slot }

/-- The step `BARRIER_ARRIVAL` of operation `sel.num` of slot `sel.slot` of core `sel.core`; or, when
`sel.core` is `remoteCore`, of an arrival with N = `sel.aux` that another package of the pod has
sent. -/
def barrierArrivalRun (s : State) : Option (List Eff) :=
  let x := s.sel
  if x.core = remoteCore then
    if s.link.trained ∧ 0 < x.aux ∧ x.aux < 2 ^ 32 then
      some ((Run.start s).remoteArrival (remoteName x) x.aux).done
    else none
  else ((Run.start s).arrival x.core x.slot x.num).map Run.done

/-! ### Channels (06 R188-R190, 16 R370) -/

/-- Whether a core takes messages for a process into its receive store. -/
def takesMessages (s : State) (d : Nat) (pid : BitVec 20) : Bool :=
  (s.core d).ctx.isSome && s.pidOf d == pid && (s.core d).pre.isNone
    && ! s.gaffer.saves.any fun e => e.2.pos == d && e.2.pid == pid && ! e.2.spill.isEmpty

/-- Whether a message for a core of a process is delivered straight to it: no earlier message for it
is still with the Gaffer (06 R190, 16 R370). -/
def takesDirect (s : State) (d : Nat) (pid : BitVec 20) : Bool :=
  takesMessages s d pid && ! s.gaffer.msgs.any fun e => e.1 == d && e.2.pid == pid

/-- The message at place i of an outbound queue delivered, or handed to the Gaffer. -/
def Run.deliver (r : Run) (c sl i : Nat) : Option Run :=
  let x := r.s.slot c sl
  match x.outq[i]? with
  | none => none
  | some m =>
    let behind := (x.outq.take i).any fun y => y.dest == m.dest && y.msg.port == m.msg.port
    if behind || m.held || ! x.clearBefore m.tid m.seq then none
    else
      let gone (r : Run) : Run := r.modSlot c sl fun x => { x with outq := x.outq.eraseIdx i }
      if takesDirect r.s m.dest m.msg.pid then
        if 64 ≤ (r.s.core m.dest).rx.length then none
        else some (((gone r).modCore m.dest fun y => { y with rx := y.rx ++ [m.msg] }).serveRecvs
          m.dest)
      else some ((gone r).modGaffer fun g => { g with msgs := g.msgs ++ [(m.dest, m.msg)] })

/-- The step `CHANNEL_DELIVERY` of the message at place `sel.num` of the outbound queue of slot
`sel.slot` of core `sel.core`. -/
def channelDeliveryRun (s : State) : Option (List Eff) :=
  ((Run.start s).deliver s.sel.core s.sel.slot s.sel.num).map Run.done

/-! ### Streams (06 R191, R192) -/

/-- The elements of a record's window that stream element k holds. -/
def streamRange (t : Tlr) (k : Nat) : List Nat :=
  let per := if t.elem.sub then t.elem.perGroup else 16 / t.elem.size
  fromTo (per * k) (min per (t.count - per * k))

/-- The place in a stream element of the i-th of its elements, as a bit number (03 R78). -/
def streamBit (t : Tlr) (i : Nat) : Nat :=
  if t.elem.sub then
    let j := i % t.elem.perGroup
    8 * (j % 16) + t.elem.cont * (j / 16)
  else 8 * (i * t.elem.size % 16)

/-- The elements of a stream element read in order, each after the effects of those before it. -/
def streamFetch (s : State) (c : Nat) (t : Tlr) : List Nat → Nat → List Eff → Elems Nat
  | [], v, e => .ok v e
  | i :: r, v, e =>
    match t.take s c (t.tensor (windowCoord (t.wins.take t.rank) i)) with
    | .ok x e2 => streamFetch (applyAll s e2) c t r (v + x * 2 ^ streamBit t i) (e ++ e2)
    | .fault cause a e2 => .fault cause a (e ++ e2)
    | .page a => .page a
    | .wait => .wait

/-- The record of a stream, read with the core's NF registers (10 R291). -/
def streamTlr (s : State) (c : Nat) (b : Stream) : Except Nat Tlr :=
  match recordElem (s.core c).nf (tf b.tlr 1 7 0) with
  | some (.ok e) => .ok (tlrOf b.tlr e)
  | _ => .error (tf b.tlr 0 56 0)

/-- What the fetch of a stream's next element gives. A format that has become invalid since `sbind` ends
the stream with 0x73 at the record's BASE and 0 (log 76). -/
def streamNext (s : State) (c : Nat) (b : Stream) : Elems Nat :=
  match streamTlr s c b with
  | .error a => .fault 0x73 a []
  | .ok t => streamFetch s c t (streamRange t b.fetched) 0 []

/-- The stream of a port with an element put at its end. -/
def Run.putStream (r : Run) (c sl t : Nat) (e : StreamElem) : Run :=
  r.modSlot c sl fun x => match mapFind x.streams t with
    | some b =>
      let b := { b with fifo := b.fifo ++ [e], fetched := b.fetched + 1 }
      { x with streams := mapPut x.streams t b }
    | none => x

/-- Whether a stream's copy has met a fault, which ends it. -/
def Stream.failed (b : Stream) : Bool :=
  b.fifo.any fun e => match e with
    | .fault _ _ => true
    | .value _ => false

/-- The next element of a bound stream fetched, at most four ahead of the reader. -/
def Run.streamArrive (r : Run) (c sl t : Nat) : Option Run :=
  let x := r.s.slot c sl
  match mapFind x.streams t with
  | none => none
  | some b =>
    if b.total ≤ b.fetched ∨ 4 ≤ b.fifo.length ∨ x.storeBefore x.tid b.seq
        ∨ (r.s.core c).pre.isSome ∨ b.failed then none
    else match streamNext r.s c b with
      | .ok v e => some ((r.emits e).putStream c sl t (.value (BitVec.ofNat 128 v)))
      | .fault cause a e => some ((r.emits e).putStream c sl t (.fault cause (BitVec.ofNat 64 a)))
      | .page a => some (r.emit (.pages (raisePage r.s (r.s.pidOf c) a false x.launch.toList)))
      | .wait => none

/-- The step `STREAM_ELEMENT_ARRIVAL` of port t`sel.num` of slot `sel.slot` of core `sel.core`. -/
def streamElementArrivalRun (s : State) : Option (List Eff) :=
  ((Run.start s).streamArrive s.sel.core s.sel.slot s.sel.num).map Run.done

/-! ### Routes (07 R221) -/

/-- The oldest solve of a slot finished: the settings are written. -/
def Run.solveDone (r : Run) (c sl : Nat) : Option Run :=
  match (r.s.slot c sl).solves with
  | [] => none
  | x :: rest =>
    some ((r.emits (setQ c x.block x.q x.value)).modSlot c sl fun y => { y with solves := rest })

/-- The step `ROUTE_SOLVE_COMPLETE` of slot `sel.slot` of core `sel.core`. -/
def routeSolveCompleteRun (s : State) : Option (List Eff) :=
  ((Run.start s).solveDone s.sel.core s.sel.slot).map Run.done

/-! ### Forks (04 R112, 09 R276) -/

/-- The record of a fork pushed onto the bottom of the core's deque, after its increment. -/
def Run.forkPush (r : Run) (c sl seq : Nat) : Option Run :=
  let x := r.s.slot c sl
  match x.findOp seq with
  | none => none
  | some o =>
    match o.kind with
    | .fork addr rec_ =>
      let ready := match o.st with
        | .done _ => true
        | .sent => addr == 0 && x.clearBefore o.tid o.seq
        | _ => false
      if ! ready then none
      else
        match r.pushBottom c rec_ o.launch with
        | .done r => some ((r.modSlot c sl fun x => x.delOp o).reap c sl)
        | .wait q => if q.effs.length = r.effs.length then none else some q
        | .fault cause aux a q =>
          if x.holds o.tid then
            some ((q.modSlot c sl fun x => x.setOp { o with st := .withdrawn }).addFault c sl o.tid
              { pc := o.pc, pair := o.pair, cause := cause, aux := aux, aux2 := a })
          else
            let q := (q.modSlot c sl fun x => x.delOp o).reap c sl
            some (if cause = 0xC0 then q.check c sl cause aux 5 0 else q)
    | _ => none

/-- The step `FORK_RECORD_PUSH` of operation `sel.num` of slot `sel.slot` of core `sel.core`. -/
def forkRecordPushRun (s : State) : Option (List Eff) :=
  ((Run.start s).forkPush s.sel.core s.sel.slot s.sel.num).map Run.done

/-! ### The steps -/

/-- The step `ASYNC_RESULT_WRITE`. -/
def execAsyncResultWrite (s : State) : Host.Outcome State Fault Refusal :=
  finish s (asyncResultWriteRun s)

/-- The step `DEFERRED_TRAP`. -/
def execDeferredTrap (s : State) : Host.Outcome State Fault Refusal :=
  finish s (deferredTrapRun s)

/-- The step `WAIT_LIMIT_TRAP`. -/
def execWaitLimitTrap (s : State) : Host.Outcome State Fault Refusal :=
  finish s (waitLimitTrapRun s)

/-- The step `TWIN_WAIT_LIMIT_TRAP`. -/
def execTwinWaitLimitTrap (s : State) : Host.Outcome State Fault Refusal :=
  finish s (twinWaitLimitTrapRun s)

/-- The step `TRAP_RECORD_ENQUEUE`. -/
def execTrapRecordEnqueue (s : State) : Host.Outcome State Fault Refusal :=
  finish s (trapRecordEnqueueRun s)

/-- The step `HOME_ATOMIC`. -/
def execHomeAtomic (s : State) : Host.Outcome State Fault Refusal :=
  finish s (homeAtomicRun s)

/-- The step `FE_HOME_OPERATION`. -/
def execFeHomeOperation (s : State) : Host.Outcome State Fault Refusal :=
  finish s (feHomeOperationRun s)

/-- The step `STORE_BUFFER_DRAIN`. -/
def execStoreBufferDrain (s : State) : Host.Outcome State Fault Refusal :=
  finish s (storeBufferDrainRun s)

/-- The step `STATION_WRITE`. -/
def execStationWrite (s : State) : Host.Outcome State Fault Refusal :=
  finish s (stationWriteRun s)

/-- The step `BARRIER_ARRIVAL`. -/
def execBarrierArrival (s : State) : Host.Outcome State Fault Refusal :=
  finish s (barrierArrivalRun s)

/-- The step `CHANNEL_DELIVERY`. -/
def execChannelDelivery (s : State) : Host.Outcome State Fault Refusal :=
  finish s (channelDeliveryRun s)

/-- The step `STREAM_ELEMENT_ARRIVAL`. -/
def execStreamElementArrival (s : State) : Host.Outcome State Fault Refusal :=
  finish s (streamElementArrivalRun s)

/-- The step `ROUTE_SOLVE_COMPLETE`. -/
def execRouteSolveComplete (s : State) : Host.Outcome State Fault Refusal :=
  finish s (routeSolveCompleteRun s)

/-- The step `FORK_RECORD_PUSH`. -/
def execForkRecordPush (s : State) : Host.Outcome State Fault Refusal :=
  finish s (forkRecordPushRun s)

end Sys2Proof.Machine
end

