-- ==== Sys2Proof/Machine/Execute.lean ====
section
/-!
DEFINITION. The matrix engine: what an accepted operation does as it executes and retires (03
R89-R92, 07 R198-R211, R227, 10 R298), and the matrix licence (07 R212-R217, 15 R355).
-/

namespace Sys2Proof.Machine

/-! ### Operands (07 R203, R205, 10 R298) -/

/-- The code of the element of a row of 64 packed or plain elements. -/
def rowCode (e : Elem) (row : List Byte) (j : Nat) : Nat :=
  if e.sub then
    let n := e.perGroup
    let b := (row.getD (16 * (j / n) + j % n % 16) 0).toNat
    b / 2 ^ (e.cont * (j % n / 16)) % 2 ^ e.bits
  else ofBytes ((row.drop (j * e.size)).take e.size) % 2 ^ e.bits

/-- A row of 64 codes packed or plain (03 R78). -/
def rowOfCodes (e : Elem) (codes : List Nat) : List Byte :=
  if e.sub then
    (List.range (rowBytes e)).map fun b =>
      BitVec.ofNat 8 (((List.range (8 / e.cont)).map fun s =>
        codes.getD (b / 16 * e.perGroup + 16 * s + b % 16) 0 % 2 ^ e.bits * 2 ^ (e.cont * s)).foldl
          (· + ·) 0)
  else (codes.map fun c => toBytes e.size (c % 2 ^ e.bits)).flatten

/-- The code at an inside coordinate of the A tensor. A coordinate that lies beyond AB, which
`munf` rules out for the width it checked, gives a free value (log 9). -/
def Tlr.abCode (t : Tlr) (s : State) (c seed : Nat) (co : List Nat) : Nat :=
  let slot := (t.locate co).2
  let (a, n) := t.cell co
  let v := if a + n ≤ spaceBytes .ab then ofBytes (readBytes s.mem (localKey c .ab a) n)
    else (Config.bits s.free seed).toNat
  (if t.elem.sub then v / 2 ^ (t.elem.cont * slot) else v) % 2 ^ t.elem.bits

/-- Where A_full(row, k) comes from: an element of the A tensor, the fill value, or zero. -/
inductive AFrom where
  | elem (co : List Nat)
  | fill
  | zero
deriving DecidableEq, Repr

/-- Where A_full(row, k) comes from (07 R203). -/
def MatOp.aFrom (o : MatOp) (row k : Nat) : AFrom :=
  match o.munf with
  | none => .zero
  | some m =>
    let t := o.tensor
    if m.rows ≤ row ∨ m.cols t ≤ k then .zero
    else
      let ow := plusOne m.gc 15 0
      let oh := plusOne m.gc 31 16
      let kw := plusOne m.gb 3 0
      let ch := t.dim 0
      let org (d : Nat) : Int := t.orgs.getD d 0
      let x := org 1 + ((row % ow * plusOne m.gb 11 8 + k / ch % kw * plusOne m.gb 19 16 : Nat) : Int)
      let y := org 2 + ((row / ow % oh * plusOne m.gb 15 12 + k / (ch * kw) * plusOne m.gb 23 20 : Nat) : Int)
      let n := row / (ow * oh)
      let inD (v : Int) (d : Nat) : Bool := decide (0 ≤ v) && decide (v < ((t.dim d : Nat) : Int))
      let clamp (v : Int) (d : Nat) : Nat := (max 0 (min v (((t.dim d : Nat) : Int) - 1))).toNat
      if inD x 1 && inD y 2 && decide (n < t.dim 3) then .elem [k % ch, x.toNat, y.toNat, n]
      else if t.fillm = 1 then .fill
      else if t.fillm = 2 then .elem [k % ch, clamp x 1, clamp y 2, min n (t.dim 3 - 1)]
      else .zero

/-- The code of A_full(row, k). -/
def MatOp.aCode (o : MatOp) (s : State) (c row k : Nat) : Nat :=
  match o.aFrom row k with
  | .elem co => o.tensor.abCode s c (row % 2 ^ 32 * 2 ^ 24 + k) co
  | .fill => o.tensor.fillBits
  | .zero => 0

/-! ### Uncorrectable errors in the buffers (07 R200, 12 R324) -/

/-- Whether some of n bytes of a buffer hold an uncorrectable error. -/
def badCell (s : State) (c : Nat) (r : Space × Nat × Nat) : Bool :=
  s.badBytes.any fun k => decide (localKey c r.1 r.2.1 ≤ k) && decide (k < localKey c r.1 r.2.1 + r.2.2)

/-- The cell of AB that A_full(row, k) is read from, if it is read. -/
def MatOp.aCell (o : MatOp) (row k : Nat) : List (Space × Nat × Nat) :=
  match o.aFrom row k with
  | .elem co => [(.ab, o.tensor.cell co)]
  | _ => []

/-- The permutation that an operation's q setting carries; the identity without one. -/
def MatOp.perm (o : MatOp) (used : Bool) : List Nat :=
  if used then permOf o.q else List.range 64

/-- n binary32 scales from a scale register's region, or 1.0. -/
def scalesAt (s : State) (c : Nat) (used : Bool) (w : Word) (n : Nat) : List Num :=
  (List.range n).map fun i =>
    if used then
      fmt32.decode (ofBytes (readBytes s.mem (localKey c (bufferOf (descSpace w)) (descOffset w + 4 * i)) 4))
    else .fin false 1 0

/-! ### One group (03 R89-R92) -/

/-- A product before its group's sum; integers have no signed zero (03 R79, R90). -/
def groupProduct (ints : Bool) (a b : Num) : Num :=
  let x := (mulNum a b).1
  if ints && x.isZero then .fin false 0 0 else x

/-- The update of an accumulator by one exact group sum. An infinite sum passes on with its sign XOR
the signs of the two scales (log 75). -/
def accumulate (f : Fmt) (sa sb : Num) (c : Nat) (terms : List Num) : Nat :=
  let sum := (sumNums modeRNE terms).1
  let t := (f.deliver modeRNE 0 ((mulNum (mulNum sum sa).1 sb).1, 0)).1
  (f.deliver modeRNE 0 ((sumNums modeRNE [f.decode c, f.decode t]).1, 0)).1

/-- The groups of n values of a list. -/
def groupsOf (n : Nat) (l : List Num) : List (List Num) :=
  (List.range (l.length / n)).map fun g => (l.drop (n * g)).take n

/-- An accumulator element after an `mma`: a row of A, a column of B. -/
def dotElement (f : Fmt) (ints : Bool) (sa sb : Num) (c : Nat) (a b : List Num) : Nat :=
  ((groupsOf 16 a).zip (groupsOf 16 b)).foldl (fun c g =>
    accumulate f sa sb c ((g.1.zip g.2).map fun p => groupProduct ints p.1 p.2)) c

/-- The even and the odd elements of a list. -/
def evens (l : List Num) : List Num := (List.range ((l.length + 1) / 2)).map fun i =>
  l.getD (2 * i) (.fin false 0 0)

/-- The odd elements of a list. -/
def odds (l : List Num) : List Num := (List.range (l.length / 2)).map fun i =>
  l.getD (2 * i + 1) (.fin false 0 0)

/-- The terms of a group of complex products. -/
def complexTerms (ints : Bool) (x y u v : List Num) (minus : Bool) : List Num :=
  ((x.zip y).zip (u.zip v)).flatMap fun p =>
    let q := groupProduct ints p.2.1 p.2.2
    [groupProduct ints p.1.1 p.1.2, if minus then q.negate else q]

/-- A complex accumulator after an `mmac`: a row of A, and the real and imaginary columns of B. -/
def dotComplex (ints : Bool) (sa sb : Num) (c : Nat × Nat) (a br bi : List Num) : Nat × Nat :=
  let ar := groupsOf 8 (evens a)
  let ai := groupsOf 8 (odds a)
  let br := groupsOf 8 br
  let bi := groupsOf 8 bi
  (List.range ar.length).foldl (fun c g =>
    let at' (l : List (List Num)) : List Num := l.getD g []
    (accumulate fmt32 sa sb c.1 (complexTerms ints (at' ar) (at' br) (at' ai) (at' bi) true),
     accumulate fmt32 sa sb c.2 (complexTerms ints (at' ar) (at' bi) (at' ai) (at' br) false))) c

/-- Whether a format has no signed zero. -/
def Elem.noSign (e : Elem) : Bool :=
  match e.kind with
  | .int _ => true
  | .float f => f.e == 0

/-! ### Execution -/

/-- The format of a tile's elements. -/
def tileFmt (wide : Bool) : Fmt := if wide then fmt64 else fmt32

/-- The codes of a C tile's row. -/
def tileRow (s : State) (c ga i : Nat) (wide : Bool) : List Nat :=
  let n := if wide then 8 else 4
  let row := readBytes s.mem (localKey c .cb (ga + i * 64 * n)) (64 * n)
  (List.range 64).map fun j => ofBytes ((row.drop (n * j)).take n)

/-- The rows that an operation writes, each at an offset of a buffer. -/
def writeRows (c : Nat) (sp : Space) (rows : List (Nat × List Byte)) : List Eff :=
  rows.map fun p => .mem (localKey c sp p.1) p.2

/-- The value of an element whose inputs have failed: the default NaN of its format, 0 for an integer
(07 R200). -/
def Elem.failed (e : Elem) : Nat :=
  match e.kind with
  | .int _ => 0
  | .float f => f.nan

/-- The cells that row p of A, or column j of B with its scale, is read from by an `mma` or `mmac`
of `big` values of k (`half` = 2 for the complex one). -/
def MatOp.rowCells (o : MatOp) (big p : Nat) : List (Space × Nat × Nat) :=
  ((List.range big).flatMap fun k => o.aCell (field o.gc 31 0 + p) (field o.gc 55 32 + k))
    ++ (if bitAt o.xop 1 then [(bufferOf (descSpace o.sca), descOffset o.sca + 4 * p, 4)] else [])

/-- The cells that column j of B is read from. -/
def MatOp.colCells (o : MatOp) (big half j : Nat) : List (Space × Nat × Nat) :=
  let fb := o.elem o.bCode
  ((List.range (big / half)).map fun k =>
    let row := field o.gb 16 0 + k * rowBytes fb
    if fb.sub then
      let n := fb.perGroup
      (.wb, row + 16 * (j / n) + j % n % 16, 1)
    else (.wb, row + j * fb.size, fb.size))
  ++ (if bitAt o.xop 0 then
      [(bufferOf (descSpace o.scb), descOffset o.scb + 4 * (j / half), 4)] else [])

/-- The elements of a row with those that depend on failed bytes replaced. -/
def spoilRow (fail : Nat) (hurt : Nat → Bool) (row : List Nat) : List Nat :=
  (List.range row.length).map fun j => if hurt j then fail else row.getD j 0

/-- `mma` and `mmac` (07 R207). -/
def MatOp.gemm (o : MatOp) (s : State) (c : Nat) : List Eff :=
  let ga := field o.ga 15 0
  let cplx := o.kind == .mmac
  let fa := o.tensor.elem
  let fb := o.elem o.bCode
  let wide := o.wide
  let big := (gemmK o.tensor.fmt fa).getD 0
  let rowsB := (List.range (if cplx then big / 2 else big)).map fun k =>
    let row := readBytes s.mem (localKey c .wb (field o.gb 16 0 + k * rowBytes fb)) (rowBytes fb)
    (List.range 64).map fun j => fb.decode (rowCode fb row j)
  let colB (j : Nat) : List Num := rowsB.map fun r => r.getD j (.fin false 0 0)
  let cols := (List.range 64).map colB
  let ints := fa.noSign && fb.noSign
  let pi := o.perm (bitAt o.xop 6)
  let sa := scalesAt s c (bitAt o.xop 1) o.sca 64
  let sb := scalesAt s c (bitAt o.xop 0) o.scb (if cplx then 32 else 64)
  let one : Num := .fin false 1 0
  let n := if wide then 8 else 4
  let half := if cplx then 2 else 1
  let sound := s.badBytes.isEmpty
  let hurtCols := if sound then [] else (List.range 64).map fun j =>
    (o.colCells big half j).any (badCell s c)
  writeRows c .cb ((List.range 64).map fun i =>
    let p := pi.getD i 0
    let hurtRow := ! sound && (o.rowCells big p).any (badCell s c)
    let hurt (j : Nat) : Bool := ! sound && (hurtRow || badCell s c (.cb, ga + (i * 64 + j) * n, n)
      || (fromTo (j / half * half) half).any fun k => hurtCols.getD k false)
    let a := (List.range big).map fun k =>
      fa.decode (o.aCode s c (field o.gc 31 0 + p) (field o.gc 55 32 + k))
    let old := tileRow s c ga i wide
    let new := if cplx then
        ((List.range 32).map fun j =>
          let r := dotComplex ints (sa.getD p one) (sb.getD j one)
            (old.getD (2 * j) 0, old.getD (2 * j + 1) 0) a (cols.getD (2 * j) [])
            (cols.getD (2 * j + 1) [])
          [r.1, r.2]).flatten
      else (List.range 64).map fun j =>
        dotElement (tileFmt wide) ints (sa.getD p one) (sb.getD j one) (old.getD j 0) a
          (cols.getD j [])
    let new := if sound then new else spoilRow (tileFmt wide).nan hurt new
    (ga + i * 64 * n, (new.map fun v => toBytes n v).flatten))

/-- The zeroes of a C tile. -/
def zeroTile (c ga : Nat) (wide : Bool) : Eff :=
  .zero (localKey c .cb ga) (tileBytes wide)

/-- `mmd` (07 R211). -/
def MatOp.drainTile (o : MatOp) (s : State) (c : Nat) : List Eff :=
  let ga := field o.ga 15 0
  let f := o.elem (descFmt o.gb)
  let pi := o.perm (bitAt o.xop 6)
  let n := if o.wide then 8 else 4
  writeRows c (bufferOf (descSpace o.gb)) ((List.range 64).map fun i =>
    let p := pi.getD i 0
    let codes := (tileRow s c ga p o.wide).map fun v =>
      (f.convert modeRNE 0 ((tileFmt o.wide).decode v)).1
    (descOffset o.gb + i * descPitch o.gb, rowOfCodes f (if s.badBytes.isEmpty then codes
      else spoilRow f.failed (fun j => badCell s c (.cb, ga + (p * 64 + j) * n, n)) codes)))
  ++ (if bitAt o.xop 2 then [zeroTile c ga o.wide] else [])

/-- `qtile` (07 R227): a byte that has failed arrives as 0 (log 82). -/
def MatOp.permuteTile (o : MatOp) (s : State) (c : Nat) : List Eff :=
  let sp := bufferOf (descSpace o.gb)
  let at' (i : Nat) : Nat := descOffset o.gb + i * descPitch o.gb
  let pi := o.perm true
  writeRows c sp ((List.range 64).map fun i =>
    let a := at' (pi.getD i 0)
    let row := readBytes s.mem (localKey c sp a) (descRowb o.gb)
    (at' i, if s.badBytes.isEmpty then row
      else (List.range row.length).map fun j =>
        if badCell s c (sp, a + j, 1) then 0 else row.getD j 0))

/-- What an engine operation of core c writes as it executes. -/
def MatOp.perform (o : MatOp) (s : State) (c : Nat) : List Eff :=
  match o.kind with
  | .mma => o.gemm s c ++ [.free]
  | .mmac => o.gemm s c ++ [.free]
  | .mmz => [zeroTile c (field o.ga 15 0) o.wide]
  | .mmd => o.drainTile s c
  | .qtile => o.permuteTile s c

/-- The cells that an operation reads as it executes. -/
def MatOp.reads (o : MatOp) : List (Space × Nat × Nat) :=
  let rows := (List.range 64).map fun i =>
    (bufferOf (descSpace o.gb), descOffset o.gb + i * descPitch o.gb, descRowb o.gb)
  let tile := (Space.cb, field o.ga 15 0, tileBytes o.wide)
  let gemm (half : Nat) : List (Space × Nat × Nat) :=
    let big := (gemmK o.tensor.fmt o.tensor.elem).getD 0
    (List.range 64).flatMap (fun i => o.rowCells big ((o.perm (bitAt o.xop 6)).getD i 0))
      ++ (List.range 64).flatMap (o.colCells big half) ++ [tile]
  match o.kind with
  | .mma => gemm 1
  | .mmac => gemm 2
  | .mmz => []
  | .mmd => [tile]
  | .qtile => rows

/-- The offset in its buffer of the first byte with an uncorrectable error in a cell. -/
def firstBadByte (s : State) (c : Nat) (r : Space × Nat × Nat) : Option Nat :=
  (fromTo r.2.1 r.2.2).find? fun a => s.badBytes.contains (localKey c r.1 a)

/-- The machine-check record of an operation that has met an uncorrectable error in a buffer, at the
offset in its buffer of the first byte that has failed (07 R200, 12 R324; log 36). -/
def Run.bufferCheck (r : Run) (c : Nat) (o : MatOp) : Run :=
  if r.s.badBytes.isEmpty then r
  else match firstSome (firstBadByte r.s c) o.reads with
    | none => r
    | some a =>
      let over_ := threadEnded r.s c o.slot o.tid
      r.check c o.slot 0xC0 (BitVec.ofNat 64 a) 4 (if over_ then 0 else o.pc) (! over_ && o.pair)

/-! ### The licence (07 R212-R215, 15 R355) -/

/-- The licence passes from a quad to its twin; the quad waits again when licensed operations of
it are still queued (07 R214, R215). -/
def Run.passLicence (r : Run) (q : Nat) : Run :=
  let t := twinQuad q
  let again := decide (0 < queuedLicensed r.s q)
  let now := r.s.time.toNat
  let r := r.modQuad q fun x => { x with
    held := false, yield := false, pre := false, hold := 0, grant := 0, wait := again }
  (r.modQuad t fun x => { x with held := true, wait := false, grant := now }).arbitrate t

/-- Whether a holder's licence passes to its twin now: the idle, quantum and pre-emption cases,
the quantum case when no operation is executing. -/
def passDue (s : State) (q : Nat) : Bool :=
  let x := s.quad q
  let queued := queuedLicensed s q
  ! s.paused && x.held && (s.quad (twinQuad q)).wait
    && ((queued == 0 && x.hold == 0) || (yieldPending s q && x.exec.isNone) || (x.pre && queued == 0))

/-- The step `MATRIX_OPERATION_RETIRE` of quad `sel.num`: the operation that the quad's engine
executes writes its results and leaves its core's queue; a licence whose quantum has run out then
passes, and the arbiter chooses the next head (07 R200, R215, 15 R353). -/
def matrixOperationRetireRun (s : State) : Option (List Eff) :=
  let q := s.sel.num
  match (s.quad q).exec with
  | none => none
  | some rank =>
    let c := quadMember q rank
    match (s.core c).matq with
    | [] => none
    | o :: _ =>
      let r := ((Run.start s).bufferCheck c o).emits (o.perform s c)
      let r := r.modCore c fun x => { x with matq := x.matq.drop 1 }
      let r := r.modQuad q fun x => { x with exec := none }
      let r := if ! s.paused && (r.s.quad q).held && yieldPending r.s q && (r.s.quad (twinQuad q)).wait then
        r.passLicence q else r
      some (r.arbitrate q).done

/-- The twin quad pairs by their lower die's quad, in the order of the service. -/
def quadPairs : List Nat := (List.range 512).map fun i => i / 256 * 512 + i % 256

/-- Whether a quad waits, as its die's latest report says (15 R348). -/
def reportedWait (s : State) (q : Nat) : Bool :=
  (s.quad q).wait && bitAt (mapGet (0 : Word) s.gaffer.quadReports q) 1

/-- The quad of a pair that a free licence is granted to (07 R214). -/
def licenceWinner (s : State) (q : Nat) : Option Nat :=
  let t := twinQuad q
  match reportedWait s q, reportedWait s t with
  | false, false => none
  | true, false => some q
  | false, true => some t
  | true, true => some (if colClass (quadCol q) < colClass (quadCol t) then t else q)

/-- One pair served. -/
def Run.grantPair (r : Run) (q : Nat) : Run :=
  if (r.s.quad q).held || (r.s.quad (twinQuad q)).held then r
  else match licenceWinner r.s q with
    | none => r
    | some w =>
      (r.modQuad w fun x => { x with held := true, wait := false, grant := r.s.time.toNat }).arbitrate w

/-- The start of the report interval that follows the current one. -/
def nextInterval (s : State) : Nat := (s.time.toNat / 1000 + 1) * 1000

/-- The step `LICENCE_SERVICE`, once in each report interval of 1 µs (15 R355). -/
def licenceServiceRun (s : State) : Option (List Eff) :=
  if s.time.toNat < s.gaffer.serviceAt ∨ s.paused then none
  else
    let r := (Run.start s).modGaffer fun g => { g with serviceAt := nextInterval s }
    some ((quadPairs.filter fun q => (s.quad q).wait || (s.quad (twinQuad q)).wait).foldl
      Run.grantPair r).done

/-- The step `LICENCE_QUANTUM_EXPIRY` of quad `sel.num` (07 R215). -/
def licenceQuantumExpiryRun (s : State) : Option (List Eff) :=
  let q := s.sel.num
  let x := s.quad q
  if x.held ∧ ! x.yield ∧ (s.quad (twinQuad q)).wait ∧ quantumLeft s q = 0 then
    some ((Run.start s).modQuad q fun x => { x with yield := true }).done
  else none

/-- The step `LICENCE_PASS` of quad `sel.num`; where only a pre-emption has drained and the twin
does not wait, the quad keeps the licence and PRE clears (07 R215). -/
def licencePassRun (s : State) : Option (List Eff) :=
  let q := s.sel.num
  let x := s.quad q
  if passDue s q then some (((Run.start s).passLicence q).arbitrate q).done
  else if x.held ∧ x.pre ∧ queuedLicensed s q = 0 ∧ ! (s.quad (twinQuad q)).wait then
    some ((Run.start s).modQuad q fun x => { x with pre := false }).done
  else none

/-! ### The steps -/

/-- The step `MATRIX_OPERATION_RETIRE`. -/
def execMatrixOperationRetire (s : State) : Host.Outcome State Fault Refusal :=
  finish s (matrixOperationRetireRun s)

/-- The step `LICENCE_SERVICE`. -/
def execLicenceService (s : State) : Host.Outcome State Fault Refusal :=
  finish s (licenceServiceRun s)

/-- The step `LICENCE_QUANTUM_EXPIRY`. -/
def execLicenceQuantumExpiry (s : State) : Host.Outcome State Fault Refusal :=
  finish s (licenceQuantumExpiryRun s)

/-- The step `LICENCE_PASS`. -/
def execLicencePass (s : State) : Host.Outcome State Fault Refusal :=
  finish s (licencePassRun s)

end Sys2Proof.Machine
end

