-- ==== Sys2Proof/Machine/Queue.lean ====
section
/-!
DEFINITION. The Gaffer's queues: hardware slots, the service step, packet checks, and the WAIT,
SIGNAL, BARRIER-AND and SCENE-FRAME packets (15 R337-R344, R349-R352, 17 R379).
-/

namespace Sys2Proof.Machine

/-! ### Queues -/

/-- A run with a queue's record changed. -/
def Run.modQueue (r : Run) (k : Nat) (f : Queue → Queue) : Run :=
  match mapFind r.s.gaffer.queues k with
  | some q => r.modGaffer fun g => { g with queues := mapPut g.queues k (f q) }
  | none => r

/-- The context that a queue feeds. -/
def State.queueCtx (s : State) (q : Queue) : Option Context := (s.ctxAt q.ctxAddr).map Prod.snd

/-- Whether a queue has a packet that has not started. -/
def Queue.pending (q : Queue) : Bool := q.ridx != q.widx

/-- Packet n of a queue's ring read (15 R338). -/
def Run.packet (r : Run) (q : Queue) (n : Nat) : Io (List Word) :=
  (r.gl (r.s.queueCtx q) (q.ring + 64 * (n % 2 ^ q.size)) 64).bind fun bs r => .ok (dwordsOf bs) r

/-- ORD of a packet's header. -/
def ordered (d : List Word) : Bool := bitAt (dw d 0) 8

/-- Whether the pending packet of a queue can start, a hardware slot left out (15 R341, R342). A
packet that cannot be read starts, and fails. -/
def packetStartable (s : State) (q : Queue) : Bool :=
  ! q.stopped && q.packet.isNone && q.pending
    && (match (Run.start s).packet q q.ridx.toNat with
      | .ok d _ => ! ordered d || q.running.isEmpty
      | .wait _ => false
      | .fault _ _ _ _ => true)

/-- Whether a queue is ready (15 R350, R351). -/
def queueReady (s : State) (q : Queue) : Bool := q.slot && packetStartable s q

/-! ### Hardware slots (15 R351, R352) -/

/-- The hardware slots. -/
def hwSlots : Nat := 256

/-- The waiting list of a level. -/
def waitList (s : State) (l : Nat) : List Nat := mapGet [] s.gaffer.hwWait l

/-- The queue that takes the next freed slot: the highest level first. -/
def nextListed (s : State) : Option (Nat × Nat) :=
  firstSome (fun l => (waitList s l).head?.map fun k => (l, k)) [3, 2, 1, 0]

/-- Free slots given to waiting queues; n bounds their number. -/
def Run.assignSlots (r : Run) : Nat → Run
  | 0 => r
  | n + 1 =>
    if hwSlots ≤ (r.s.gaffer.queues.filter fun e => e.2.slot).length then r
    else match nextListed r.s with
      | none => r
      | some (l, k) =>
        ((r.modGaffer fun g => { g with hwWait := mapSet [] g.hwWait l ((waitList r.s l).drop 1) }).modQueue
          k fun q => { q with slot := true, listed := false }).assignSlots n

/-- A queue taken from the waiting list of its level. -/
def Run.unlist (r : Run) (k : Nat) : Run :=
  match mapFind r.s.gaffer.queues k with
  | none => r
  | some q =>
    (r.modQueue k fun q => { q with listed := false }).modGaffer fun g =>
      { g with hwWait := mapSet [] g.hwWait q.level ((mapGet [] g.hwWait q.level).filter (· ≠ k)) }

/-- A queue's slot and place in a waiting list brought up to date. A stopped queue, from which nothing
starts any more, keeps them while the packet that it has started runs on (15 R338, R351; log 47). -/
def Run.settle (r : Run) (k : Nat) : Run :=
  match mapFind r.s.gaffer.queues k with
  | none => r.assignSlots hwSlots
  | some q =>
    let wants := ! q.slot && ! q.listed && ! q.parked && (q.packet.isSome || packetStartable r.s q)
    let r :=
      if q.packet.isNone && (! q.pending || q.stopped) then
        (if q.slot then r.modQueue k fun q => { q with slot := false }
          else if q.listed then r.unlist k else r)
      else if wants then
        (r.modQueue k fun q => { q with listed := true }).modGaffer fun g =>
          { g with hwWait := mapSet [] g.hwWait q.level (mapGet [] g.hwWait q.level ++ [k]) }
      else r
    r.assignSlots hwSlots

/-! ### Errors (15 R338) -/

/-- STATUS of a stopped queue written, when its page is there; the write then waits no more. -/
def Run.writeStatus (r : Run) (k : Nat) : Run :=
  match mapFind r.s.gaffer.queues k with
  | none => r
  | some q =>
    match q.status with
    | none => r
    | some v =>
      match r.glSetDword (r.s.queueCtx q) (q.ctl + 16) v with
      | .wait p => r.emit (.pages p.s.pageReqs)
      | y => y.run.modQueue k fun q => { q with status := none }

/-- A queue stopped with an error: STATUS is written, and nothing more starts from it. Of several
errors, the first stops it (log 47). -/
def Run.stopQueue (r : Run) (k : Nat) (code : Nat) (index : BitVec 64) : Run :=
  match mapFind r.s.gaffer.queues k with
  | none => r
  | some q =>
    let r := if q.stopped then r
      else (r.modQueue k fun q => { q with
        stopped := true, status := some (BitVec.ofNat 64 (code + index.toNat % 2 ^ 56 * 2 ^ 8)) }).writeStatus k
    r.settle k

/-- A queue stopped by an error of the packet that it has started, which ends. -/
def Run.failPacket (r : Run) (k : Nat) (code : Nat) (index : BitVec 64) : Run :=
  (r.modQueue k fun q => { q with
    packet := none, waiting := false, pageAt := none, parked := false }).stopQueue k code index

/-- The index of the packet that a queue has started last. -/
def Queue.index (q : Queue) : BitVec 64 := q.ridx - 1

/-! ### Packet checks (15 R341-R345) -/

/-- KIND of a packet. -/
def packetKind (d : List Word) : Nat := field (dw d 0) 7 0

/-- The address in bits [56:0] of a dword, with the check of its reserved bits. -/
def highSet (d : List Word) (i : Nat) : Bool := field (dw d i) 63 57 != 0

/-- The fields of a LAUNCH packet. -/
structure LaunchPacket where
  threads : Nat
  wmn     : Nat
  wmb     : Nat
  isRec   : Bool
  rect    : Bool
  cls     : Nat
  quota   : Nat
  prio    : Nat
  pc      : Nat
  supPc   : Nat
  arg     : Word
  word    : Word
  rectv   : Nat
  cohorts : Nat
  wsig    : Nat
  csig    : Nat
deriving DecidableEq, Repr

/-- A LAUNCH packet read from its dwords; a record is a cohort of one thread (15 R343, R347). -/
def launchPacket (d : List Word) : LaunchPacket :=
  let h := dw d 0
  let isRec := bitAt h 23
  { threads := if isRec then 1 else field h 59 44 + 1, wmn := field h 43 38, wmb := field h 37 32,
    isRec := isRec, rect := bitAt h 22, cls := field h 21 20, quota := field h 19 16,
    prio := field h 15 12, pc := field (dw d 1) 56 0, supPc := field (dw d 2) 56 0, arg := dw d 3,
    word := dw d 4, rectv := field (dw d 5) 58 32, cohorts := field (dw d 5) 31 0,
    wsig := field (dw d 6) 56 0, csig := field (dw d 7) 56 0 }

/-- The cores of a rectangle value, in ascending (die, y, x). -/
def rectCores (v : Nat) : List Nat :=
  let x0 := fieldN v 4 0
  let y0 := fieldN v 9 5
  ((List.range 4).filter fun d => v.testBit (20 + d)).flatMap fun d =>
    (fromTo y0 (fieldN v 19 15 + 1 - y0)).flatMap fun y =>
      (fromTo x0 (fieldN v 14 10 + 1 - x0)).map fun x => coreAt x y d

/-- Whether a value is a valid level-0 rectangle (06 R182). -/
def rectOk (v : Nat) : Bool :=
  decide (fieldN v 4 0 ≤ fieldN v 14 10) && decide (fieldN v 9 5 ≤ fieldN v 19 15)
    && fieldN v 23 20 != 0 && decide (v < 2 ^ 24)

/-- The most threads of a cohort that one core takes, among n cores. -/
def LaunchPacket.perCore (p : LaunchPacket) (n : Nat) : Nat := ceilDiv p.threads n

/-- The error of a LAUNCH packet's checks, the lowest code first. -/
def launchError (d : List Word) : Option Nat :=
  let h := dw d 0
  let p := launchPacket d
  let n := if p.rect then (rectCores p.rectv).length else 4
  if field h 63 60 ≠ 0 ∨ field h 31 24 ≠ 0 ∨ field h 11 9 ≠ 0 ∨ highSet d 1 ∨ highSet d 2
      ∨ field (dw d 5) 63 59 ≠ 0 ∨ highSet d 6 ∨ highSet d 7 ∨ (p.rect ∧ p.cls ≠ 0)
      ∨ (! p.rect ∧ p.rectv ≠ 0) ∨ (p.rect ∧ ! rectOk p.rectv) then some 2
  else if p.cohorts = 0 ∨ p.quota = 0 ∨ (p.isRec ∧ p.rect) then some 3
  else if n * p.quota < p.threads ∨ 61 < p.wmn + p.perCore n then some 4
  else if p.wsig % 8 ≠ 0 ∨ p.csig % 8 ≠ 0 ∨ (p.isRec ∧ p.arg.toNat % 64 ≠ 0) then some 6
  else if p.wmn ≠ 0 ∧ (p.wmb = 0 ∨ 62 < p.wmb + p.wmn) then some 7
  else none

/-- The signal addresses that a BARRIER-AND names. -/
def barrierSignals (d : List Word) : List Nat :=
  ((fromTo 1 5).map fun i => (dw d i).toNat).filter fun a => a ≠ 0

/-- Whether an address names the scene of a context: before the context has a core, whose scene has
still to be read, it is the descriptor's SCENE (17 R375, R379). -/
def namesScene (x : Option Context) (a : Nat) : Bool :=
  match x with
  | none => false
  | some x => a != 0 && a == x.sceneAddr && (! x.given || x.scene.isSome)

/-- The error of a packet's checks at its start, for a queue of a context. -/
def packetError (x : Option Context) (d : List Word) : Option Nat :=
  let h := dw d 0
  let zero (l : List Nat) : Bool := l.all fun i => dw d i == 0
  let kind := packetKind d
  if kind = 1 then launchError d
  else if kind = 2 then
    if field h 63 12 ≠ 0 ∨ 6 ≤ field h 11 9 ∨ highSet d 1 ∨ ! zero [3, 4, 5, 6, 7] then some 2
    else if (dw d 1).toNat % 8 ≠ 0 then some 6 else none
  else if kind = 3 then
    if field h 63 12 ≠ 0 ∨ 3 ≤ field h 11 9 ∨ highSet d 1 ∨ ! zero [3, 4, 5, 6, 7] then some 2
    else if (dw d 1).toNat % 8 ≠ 0 then some 6 else none
  else if kind = 4 then
    if field h 63 9 ≠ 0 ∨ (fromTo 1 5).any (highSet d) ∨ highSet d 7 ∨ ! zero [6] then some 2
    else if (barrierSignals d).any (fun a => a % 8 != 0) ∨ (dw d 7).toNat % 8 ≠ 0 then some 6
    else none
  else if kind = 5 then
    if field h 63 9 ≠ 0 ∨ highSet d 1 ∨ highSet d 7 ∨ ! zero [4, 5, 6]
        ∨ ! namesScene x (dw d 1).toNat then some 2
    else if (dw d 7).toNat % 8 ≠ 0 then some 6 else none
  else some 1

/-! ### The service step (15 R350) -/

/-- The numbers of the ready queues of a level. -/
def readyAt (s : State) (l : Nat) : List Nat :=
  (s.gaffer.queues.filter fun e => e.2.level == l && queueReady s e.2).map Prod.fst

/-- The level that the step serves, and whether it is served for its age. -/
def serviceLevel (s : State) : Option (Nat × Bool) :=
  match [0, 1, 2].find? fun l => (readyAt s l) ≠ [] ∧ 16 ≤ mapGet 0 s.gaffer.ages l with
  | some l => some (l, true)
  | none => ([3, 2, 1, 0].find? fun l => (readyAt s l) ≠ []).map fun l => (l, false)

/-- The next ready queue of a level after the last served. -/
def nextQueue (s : State) (l : Nat) : Option Nat :=
  let ready := readyAt s l
  match ready.find? fun k => decide (mapGet 0 s.gaffer.served l ≤ k) with
  | some k => some k
  | none => ready.head?

/-- The ages of the levels after a step. -/
def agesAfter (s : State) (l : Nat) (aged : Bool) : Map Nat :=
  if aged then mapSet 0 s.gaffer.ages l 0
  else (List.range l).foldl (fun m i =>
    if readyAt s i ≠ [] then mapSet 0 m i (mapGet 0 m i + 1) else m) s.gaffer.ages

/-- The page of a queue's pending packet requested, when it is missing (16 R364). -/
def Run.wantPacket (r : Run) (k : Nat) : Run :=
  match mapFind r.s.gaffer.queues k with
  | none => r
  | some q =>
    if q.stopped ∨ ! q.pending then r
    else match r.packet q q.ridx.toNat with
      | .wait p => r.emit (.pages p.s.pageReqs)
      | _ => r

/-- The pending packet of a queue started: RIDX is raised, or the queue stops. -/
def Run.startPacket (r : Run) (k : Nat) (q : Queue) : Run :=
  match r.packet q q.ridx.toNat with
  | .wait r => r
  | .fault _ _ _ r => r.stopQueue k 6 q.ridx
  | .ok d r =>
    match packetError (r.s.queueCtx q) d with
    | some code => r.stopQueue k code q.ridx
    | none =>
      match r.glSetDword (r.s.queueCtx q) (q.ctl + 8) (q.ridx + 1) with
      | .wait r => r
      | .fault _ _ _ r => r.stopQueue k 6 q.ridx
      | .ok _ r => (r.modQueue k fun q => { q with
          ridx := q.ridx + 1, packet := some d, waiting := false }).wantPacket k

/-- The step `GAFFER_SERVICE_STEP` (15 R350). -/
def gafferServiceStepRun (s : State) : Option (List Eff) :=
  if s.paused then none
  else match serviceLevel s with
    | none => none
    | some (l, aged) =>
      match nextQueue s l with
      | none => none
      | some k =>
        match mapFind s.gaffer.queues k with
        | none => none
        | some q =>
          let r := (Run.start s).modGaffer fun g => { g with
            ages := agesAfter s l aged, served := mapSet 0 g.served l (k + 1) }
          some (r.startPacket k q).done

/-- WIDX of queue k read by the Gaffer (15 R338). -/
def Run.learnWidx (r : Run) (k : Nat) (q : Queue) : Run :=
  match r.glDword (r.s.queueCtx q) q.ctl with
  | .wait r => r
  | .fault _ _ _ r => r.stopQueue k 6 q.ridx
  | .ok v r =>
    if 2 ^ q.size < (v - q.ridx).toNat then r.stopQueue k 5 q.ridx
    else ((r.modQueue k fun q => { q with widx := v }).settle k).wantPacket k

/-- The step `WIDX_UPDATE`: the Gaffer learns WIDX of queue `sel.num` (15 R338). -/
def widxUpdateRun (s : State) : Option (List Eff) :=
  match mapFind s.gaffer.queues s.sel.num with
  | none => none
  | some q => if q.stopped then none else some ((Run.start s).learnWidx s.sel.num q).done

/-! ### Signals (15 R344, R349) -/

/-- A signal changed by an atomic of the Gaffer at its home, where the old value stays. -/
def Run.amoSignal (r : Run) (x : Option Context) (a : Nat) (f : Word → Word) : Io Unit :=
  match translate r.s x a .rw with
  | .at .host _ _ => if r.s.link.cxl then go else .fault 0x43 a 0 r
  | _ => go
where
  go : Io Unit :=
    match glAtHome r.s x a 8 .rw with
    | .fault c b e => .fault c a b (r.emits e)
    | .wait => .wait r
    | .page =>
      if r.rejected (ctxPid x) a then .fault 0x44 a 0 r
      else .wait (r.emit (.pages (raisePage r.s (ctxPid x) a true [])))
    | .ok bs e =>
      let r := r.emits e
      match glWrite r.s x a (wordBytes (f (wordOf bs))) .rw false with
      | .ok _ e => .ok () (r.emits e)
      | .fault c b e => .fault c a b (r.emits e)
      | .wait => .wait r
      | .page => .wait (r.emit (.pages (raisePage r.s (ctxPid x) a true [])))

/-- A signal decremented by 1; address 0 names none. -/
def Run.decSignal (r : Run) (x : Option Context) (a : Nat) : Io Unit :=
  if a = 0 then .ok () r else r.amoSignal x a fun v => v - 1

/-- Signals read in order. -/
def Run.signals (r : Run) (x : Option Context) : List Nat → Io (List Word)
  | [] => .ok [] r
  | a :: l => (r.glDword x a).bind fun v r => (r.signals x l).bind fun vs r => .ok (v :: vs) r

/-- Whether a signal meets a WAIT's condition. -/
def waitHolds (cond : Nat) (v c : Word) : Bool :=
  if cond = 0 then v == c
  else if cond = 1 then v != c
  else if cond = 2 then v.ult c
  else if cond = 3 then ! v.ult c
  else if cond = 4 then v.slt c
  else ! v.slt c

/-- A queue whose packet waits: for its signal, or for the page of it (15 R352). -/
def Run.holdPacket (r : Run) (k : Nat) (page : Bool) : Run :=
  r.modQueue k fun q => { q with
    waiting := true,
    pageAt := if page then (match q.pageAt with
      | some t => some t
      | none => some r.s.time.toNat) else none }

/-- A queue whose packet no longer holds it. -/
def Run.releaseQueue (r : Run) (k : Nat) : Run :=
  (r.modQueue k fun q => { q with packet := none, waiting := false, pageAt := none }).settle k

/-- What follows reading a packet's signals: `none` when the condition does not hold yet. -/
def Run.afterSignals (r : Run) (k : Nat) (q : Queue) (x : Io (Option Run)) : Run :=
  match x with
  | .ok (some r) _ => r
  | .ok none r => r.holdPacket k false
  | .wait p => p.holdPacket k (decide (r.effs.length < p.effs.length))
  | .fault _ _ _ r => r.failPacket k 6 q.index

/-- The signal of a WAIT read. -/
def Run.tryWait (r : Run) (k : Nat) (q : Queue) (d : List Word) : Run :=
  r.afterSignals k q ((r.glDword (r.s.queueCtx q) (dw d 1).toNat).bind fun v r =>
    .ok (if waitHolds (field (dw d 0) 11 9) v (dw d 2) then some (r.releaseQueue k) else none) r)

/-- The signals of a BARRIER-AND read; when all are zero its own is decremented. -/
def Run.tryBarrier (r : Run) (k : Nat) (q : Queue) (d : List Word) : Run :=
  let x := r.s.queueCtx q
  r.afterSignals k q ((r.signals x (barrierSignals d)).bind fun vs r =>
    if vs.all (· == 0) then
      (r.decSignal x (dw d 7).toNat).bind fun _ r => .ok (some (r.releaseQueue k)) r
    else .ok none r)

/-- The addresses of the signals on which a packet holds its queue, in the order of their reads. -/
def packetSignals (d : List Word) : List Nat :=
  let kind := packetKind d
  (if kind = 1 then [(launchPacket d).wsig] else if kind = 2 then [(dw d 1).toNat]
    else if kind = 4 then barrierSignals d ++ [(dw d 7).toNat] else []).filter (· ≠ 0)

/-- The queue that `sel.num` names, when it holds a hardware slot and a packet of a kind that has
started; `again` for a packet whose signal has been read before. -/
def heldPacket (s : State) (kind : Nat) (again : Bool) : Option (Queue × List Word) :=
  match mapFind s.gaffer.queues s.sel.num with
  | none => none
  | some q =>
    match q.packet with
    | none => none
    | some d =>
      if q.slot ∧ packetKind d = kind ∧ q.waiting = again then some (q, d) else none

/-- The step `WAIT` of queue `sel.num` (15 R344). -/
def waitRun (s : State) : Option (List Eff) :=
  (heldPacket s 2 false).map fun x => ((Run.start s).tryWait s.sel.num x.1 x.2).done

/-- The step `BARRIER_AND` of queue `sel.num` (15 R344). -/
def barrierAndRun (s : State) : Option (List Eff) :=
  (heldPacket s 4 false).map fun x => ((Run.start s).tryBarrier s.sel.num x.1 x.2).done

/-- The step `SIGNAL` of queue `sel.num` (15 R344). -/
def signalRun (s : State) : Option (List Eff) :=
  (heldPacket s 3 false).map fun x =>
    let k := s.sel.num
    let v := dw x.2 2
    let op := field (dw x.2 0) 11 9
    let f (o : Word) : Word := if op = 0 then v else if op = 1 then o + v else o - v
    (match (Run.start s).amoSignal (s.queueCtx x.1) (dw x.2 1).toNat f with
      | .ok _ r => r.releaseQueue k
      | .wait r => r
      | .fault _ _ _ r => r.failPacket k 6 x.1.index).done

/-- The schedules of a scene with one armed: those before it end at its first frame (17 R379). -/
def arm (l : List Schedule) (x : Schedule) : List Schedule :=
  (l.map fun y => { y with cut := some (match y.cut with
    | some t => min t x.first
    | none => x.first) }) ++ [x]

/-- The step `SCENE_FRAME` of queue `sel.num` (15 R344, 17 R379). -/
def sceneFrameRun (s : State) : Option (List Eff) :=
  match heldPacket s 5 false with
  | none => none
  | some (q, d) =>
    match s.ctxAt q.ctxAddr with
    | none => none
    | some (n, _) =>
      let x : Schedule := { queue := some s.sel.num, index := q.index, first := (dw d 2).toNat, period := field (dw d 3) 31 0,
                            count := field (dw d 3) 63 32, signal := (dw d 7).toNat, next := 0,
                            cut := none }
      let r := (Run.start s).modCtx n fun y =>
        if y.given then { y with scene := y.scene.map fun z => { z with sched := arm z.sched x } }
        else { y with armed := arm y.armed x }
      some (r.releaseQueue s.sel.num).done

/-- The step `QHOLD_EXPIRY` of queue `sel.num`: it gives up its slot and is parked (15 R352). -/
def qholdExpiryRun (s : State) : Option (List Eff) :=
  match mapFind s.gaffer.queues s.sel.num with
  | none => none
  | some q =>
    match q.pageAt with
    | none => none
    | some t =>
      if q.slot ∧ t + (if q.qhold = 0 then 200 else q.qhold) * 1000 ≤ s.time.toNat then
        some (((Run.start s).modQueue s.sel.num fun q => { q with slot := false, parked := true }).assignSlots
          hwSlots).done
      else none

/-! ### The steps -/

/-- The step `WIDX_UPDATE`. -/
def execWidxUpdate (s : State) : Host.Outcome State Fault Refusal :=
  finish s (widxUpdateRun s)

/-- The step `GAFFER_SERVICE_STEP`. -/
def execGafferServiceStep (s : State) : Host.Outcome State Fault Refusal :=
  finish s (gafferServiceStepRun s)

/-- The step `WAIT`. -/
def execWait (s : State) : Host.Outcome State Fault Refusal :=
  finish s (waitRun s)

/-- The step `SIGNAL`. -/
def execSignal (s : State) : Host.Outcome State Fault Refusal :=
  finish s (signalRun s)

/-- The step `BARRIER_AND`. -/
def execBarrierAnd (s : State) : Host.Outcome State Fault Refusal :=
  finish s (barrierAndRun s)

/-- The step `SCENE_FRAME`. -/
def execSceneFrame (s : State) : Host.Outcome State Fault Refusal :=
  finish s (sceneFrameRun s)

/-- The step `QHOLD_EXPIRY`. -/
def execQholdExpiry (s : State) : Host.Outcome State Fault Refusal :=
  finish s (qholdExpiryRun s)

end Sys2Proof.Machine
end

