-- ==== Sys2Proof/Machine/Launch.lean ====
section
/-!
DEFINITION. Launches: contexts and their first core, reservation and placement of cohorts, the
reports of the dies, completion, and hang detection (15 R339, R340, R343-R349, 16 R357, 17 R375,
09 R268-R274, R281).
-/

namespace Sys2Proof.Machine

/-! ### Contexts (15 R339, R340) -/

/-- The bytes of HBM at a physical address, as zeros where they cannot be read. -/
def Run.hbmOrZero (r : Run) (a n : Nat) : Bool × List Byte × Run :=
  match r.hbm a n with
  | .ok bs r => (true, bs, r)
  | .wait r => (false, List.replicate n 0, r)
  | .fault _ _ _ r => (false, List.replicate n 0, r)

/-- A translation root as the stations take it (16 R357). -/
structure Root where
  bad  : Bool
  rtab : Nat
  rcnt : Nat
  pt0  : Nat
deriving DecidableEq, Repr

/-- The translation root that a descriptor's XLAT names, read: it is bad with a reserved bit set, with
RCNT above 64, where an address lacks its alignment, or when it cannot be read (16 R357, R360). -/
def Run.readRoot (r : Run) (xlat : Word) : Root × Run :=
  let a := field xlat 51 0
  let (ok, bs, r) := r.hbmOrZero a 64
  let t := dwordsOf bs
  let root : Root :=
    { bad := ! ok || field xlat 56 52 != 0 || a % 64 != 0 || field (dw t 0) 56 52 != 0
        || decide (64 < field (dw t 0) 63 57) || field (dw t 1) 63 52 != 0
        || field (dw t 0) 5 0 != 0 || field (dw t 1) 11 0 != 0
        || (fromTo 2 6).any fun i => dw t i != 0,
      rtab := field (dw t 0) 51 0, rcnt := field (dw t 0) 63 57, pt0 := field (dw t 1) 51 0 }
  (root, r)

/-- Whether a reserved bit of a context descriptor is set for which no check is stated: SGT and SCENE
[63:57], 0x08 [58:57], 0x20 [63:44] and [23:12], 0x28 to 0x3F (15 R339). -/
def contextOdd (d : List Word) : Bool :=
  field (dw d 1) 58 57 != 0 || field (dw d 2) 63 57 != 0 || field (dw d 3) 63 57 != 0
    || field (dw d 4) 63 44 != 0 || field (dw d 4) 23 12 != 0 || (fromTo 5 3).any fun i => dw d i != 0

/-- A context whose descriptor and translation root have just been read. With a reserved bit set, whose
check is not stated, what the descriptor says is free, but for PID and XLAT, by which the context would
reach another process's memory; its translations may be bad (00 R9; log 18). -/
def readContext (r : Run) (addr : Nat) (old : Option Context) : Context × Run :=
  let (_, bs, r) := r.hbmOrZero addr 64
  let d := dwordsOf bs
  let (root, r) := r.readRoot (dw d 0)
  let odd := contextOdd d
  let w (i : Nat) : Word := oddWord odd (dw d i)
  ({ addr := addr, pid := BitVec.ofNat 20 (field (dw d 4) 43 24), xlat := dw d 0,
     rootBad := root.bad || (odd && bitAt (w 0) 0), rtab := root.rtab, rcnt := root.rcnt, pt0 := root.pt0,
     ovfb := field (w 1) 56 0, ovfs := field (w 1) 63 59,
     ovfTop := (old.map Context.ovfTop).getD 0, ovfLaunch := (old.map Context.ovfLaunch).getD [],
     groups := [], qw := BitVec.ofNat 12 (field (w 4) 11 0), sceneAddr := field (w 3) 56 0,
     sgt := field (w 2) 56 0, scene := none, armed := [], rejected := [], sceneLaunch := none,
     given := false, moved := (old.map Context.moved).getD [], ended := false }, r)

/-- The number of the context of a CTX address; a context that does not stand yet is made, so that
the packets of its queues can be read (log 16). -/
def Run.openContext (r : Run) (addr : Nat) : Run :=
  match r.s.ctxAt addr with
  | some _ => r
  | none =>
    let (x, r) := readContext r addr none
    r.modGaffer fun g => { g with ctxs := mapPut g.ctxs (freshKey g.ctxs) x }

/-- The scope-group table read (15 R340). -/
def Run.readGroups (r : Run) (x : Context) : Io (Map (BitVec 4096)) :=
  if x.sgt = 0 then .ok [] r
  else (r.gl (some x) x.sgt (32 * 512)).bind fun bs r =>
    .ok ((List.range 32).map fun i => (i, BitVec.ofNat 4096 (ofBytes ((bs.drop (512 * i)).take 512)))) r

/-- The scene of a context read, and its status block set (17 R375, R377); a context whose
descriptor cannot be read, or breaks a limit, has none. -/
def Run.readScene (r : Run) (x : Context) : Io (Option Scene) :=
  if x.sceneAddr = 0 then .ok none r
  else match r.gl (some x) x.sceneAddr 128 with
    | .wait r => .wait r
    | .fault _ _ _ r => .ok none r
    | .ok bs r =>
      let d := dwordsOf bs
      if ! sceneOk d ∨ x.sceneAddr % 64 ≠ 0 then .ok none r
      else
        let sc := Scene.start d
        match r.glSet (some x) sc.status statusReset true with
        | .wait r => .wait r
        | .fault _ _ _ r => .ok (some sc) r
        | .ok _ r => .ok (some sc) r

/-- The queues stopped that have armed schedules of a scene that its context turns out not to have
(17 R375). -/
def Run.stopArmed (r : Run) (l : List Schedule) : Run :=
  l.foldl (fun r x => match x.queue with
    | some k => r.stopQueue k 2 x.index
    | none => r) r

/-- What the Gaffer reads when it gives a context its first core. A page that the host has rejected for
these reads is their fault 0x44 (15 R340, 17 R375). -/
def Run.firstCore (r : Run) (n : Nat) (x : Context) : Io Unit :=
  let (y, q) := readContext r x.addr (some x)
  let q := { q with rejects := r.rejects ++ x.rejected.map fun p => (y.pid, p) }
  (q.readGroups y).bind fun g q =>
    (q.readScene y).bind fun sc q =>
      let q : Run := { q with rejects := r.rejects }
      let q := q.modCtx n fun z => { y with
        groups := g, scene := sc.map fun sc => { sc with sched := z.armed }, given := true,
        sceneLaunch := z.sceneLaunch }
      .ok () (if sc.isNone then q.stopArmed x.armed else q)

/-! ### Giving and returning a core (15 R346, R348) -/

/-- The typed buffers of a core as zeros. -/
def zeroBuffers (c : Nat) : List Eff :=
  [.zero (localKey c .wb 0) (spaceBytes .wb), .zero (localKey c .ab 0) (spaceBytes .ab),
   .zero (localKey c .cb 0) (spaceBytes .cb)]

/-- What of a core is not its context's: its cycle count, its level, and what it knows of the machine-check
records that it has dropped since power good (12 R319, R320). -/
def CoreSt.kept (x y : CoreSt) : CoreSt :=
  { y with cycle := x.cycle, level := x.level, mcdrop := x.mcdrop, ovf := x.ovf }

/-- The engine of a core's quad rid of an operation of the core, which is no more. -/
def Run.leaveEngine (r : Run) (c : Nat) : Run :=
  let q := quadOf c
  if (r.s.quad q).exec = some (coreRank c) then
    (r.modQuad q fun x => { x with exec := none }).arbitrate q
  else r

/-- A core with nothing of a context: its slots free, WM clean, the buffers zero, nothing of it in its
quad's engine. -/
def Run.clearCore (r : Run) (c : Nat) (f : CoreSt → CoreSt) : Run :=
  let x := r.s.core c
  let r := r.emits (zeroBuffers c)
  let r := r.emit (.core c (x.kept (f CoreSt.reset)))
  let r := (r.emit (.clean c 0 2048)).leaveEngine c
  (List.range 16).foldl (fun r sl => r.modSlot c sl fun y =>
    { Slot.reset with tid := y.last + 1, last := y.last + 1, seq := y.seq }) r

/-- A core given to context n for the first time, with its supervisor placed. -/
def Run.giveCore (r : Run) (n c supPc : Nat) (arg : Word) : Run :=
  let shpen := ((mapFind r.s.gaffer.ctxs n).bind Context.scene).map Scene.shpen
  let r := r.modCtx n fun y => { y with moved := mapDel y.moved c }
  let r := r.clearCore c fun x => { x with
    ctx := some n, supPc := supPc, supArg := arg, pool := fromTo 1 61, shpen := shpen.getD 0 }
  r.emits (placeSupervisor r.s c (r.s.core c))

/-- A core returned to the free state. -/
def Run.returnCore (r : Run) (c : Nat) : Run := r.clearCore c id

/-! ### Fitting (15 R345) -/

/-- The threads of a launch that a core holds and that count against its quota, those that `wspx` has
displaced among them. -/
def quotaUsed (s : State) (l c : Nat) : Nat :=
  ((List.range 16).filter fun sl =>
    let x := s.slot c sl
    x.wspV && x.counted && x.launch == some l).length
  + ((s.core c).left.filter fun e => e.counted && e.launch == some l).length

/-- The slots of a core that can take placed threads, lowest first. -/
def freeSlots (s : State) (c : Nat) : List Nat :=
  (fromTo 1 15).filter fun sl =>
    ! (s.slot c sl).wspV && ! slotOff s c sl && ! slotReserved s c sl

/-- The blocks of a launch's WM reservation. -/
def LaunchPacket.wmBlocks (p : LaunchPacket) : List Nat := fromTo p.wmb p.wmn

/-- Whether the WM reservation would take a block that some workspace of the context holds. -/
def wmConflict (s : State) (n c : Nat) (p : LaunchPacket) : Bool :=
  let x := s.core c
  x.ctx == some n && p.wmBlocks.any fun b => ! x.pool.contains b && ! x.data.contains b

/-- The blocks of a core that placed threads can take, lowest first. -/
def freeBlocks (s : State) (n c : Nat) (p : LaunchPacket) : List Nat :=
  let x := s.core c
  (if x.ctx = some n then x.pool else fromTo 1 61).filter fun b => ! p.wmBlocks.contains b

/-- Whether core c can hold k more threads of a cohort of launch l of context n. -/
def coreGrants (s : State) (n l c k : Nat) (p : LaunchPacket) : Bool :=
  let x := s.core c
  (x.ctx.isNone || x.ctx == some n) && x.pre.isNone && ! wmConflict s n c p
    && decide (quotaUsed s l c + k ≤ p.quota) && decide (k ≤ (freeSlots s c).length)
    && decide (k ≤ (freeBlocks s n c p).length)

/-- The user slots of a core that are in rotation. -/
def slotsInRotation (s : State) (c : Nat) : Nat := ((fromTo 1 15).filter fun sl => ! slotOff s c sl).length

/-- Whether the latest report of core c lets k more threads of a cohort fit. `back` counts an idle
core of another context as free. -/
def reportFits (s : State) (n l c k : Nat) (p : LaunchPacket) (back : Bool) : Bool :=
  match mapFind s.gaffer.reports c with
  | none => false
  | some y =>
    let mine := y.ctx == some n
    let away := back && y.idle && ! mine
    let pool := if mine then y.blocks else fromTo 1 61
    (y.ctx.isNone || mine || away)
      && decide ((if away then 0 else quotaUsed s l c) + k ≤ p.quota)
      && decide (k ≤ (if away then slotsInRotation s c else y.slots))
      && (p.wmBlocks.all fun b => pool.contains b || (mine && y.data.contains b))
      && decide (k ≤ (pool.filter fun b => ! p.wmBlocks.contains b).length)

/-- The quads of a class; 0 is any. -/
def classQuads (cls : Nat) : List Nat :=
  (List.range 1024).filter fun q => cls == 0 || colClass (quadCol q) + 1 == cls

/-- The groups of cores that a cohort may be placed on, in order. -/
def LaunchPacket.groups (p : LaunchPacket) : List (List Nat) :=
  if p.rect then [rectCores p.rectv]
  else (classQuads p.cls).map fun q => (List.range 4).map (quadMember q)

/-- The core of each thread of a cohort placed on a group. -/
def LaunchPacket.coresOn (p : LaunchPacket) (group : List Nat) : List Nat :=
  (List.range p.threads).map fun t => group.getD (t % group.length) 0

/-- The threads that each core of a group would take. -/
def LaunchPacket.counts (p : LaunchPacket) (group : List Nat) : List (Nat × Nat) :=
  let l := p.coresOn group
  (group.map fun c => (c, l.count c)).filter fun x => x.2 ≠ 0

/-- The first group on which the next cohort fits by the latest reports. -/
def fittingGroup (s : State) (n l : Nat) (p : LaunchPacket) (back : Bool) : Option (List Nat) :=
  p.groups.find? fun g => (p.counts g).all fun x => reportFits s n l x.1 x.2 p back

/-! ### Launches -/

/-- A run with a launch's record changed. -/
def Run.modLaunch (r : Run) (l : Nat) (f : LaunchSt → LaunchSt) : Run :=
  match mapFind r.s.gaffer.launches l with
  | some x => r.modGaffer fun g => { g with launches := mapPut g.launches l (f x) }
  | none => r

/-- A launch taken from the Gaffer's table. -/
def Run.dropLaunch (r : Run) (l : Nat) : Run :=
  match mapFind r.s.gaffer.launches l with
  | none => r
  | some x =>
    let r := r.modGaffer fun g => { g with launches := mapDel g.launches l }
    let next := (r.s.gaffer.launches.find? fun e => e.2.ctx == x.ctx).map Prod.fst
    let r := r.modCtx x.ctx fun y => { y with
      sceneLaunch := if y.sceneLaunch = some l then next else y.sceneLaunch }
    (r.modQueue x.queue fun q => { q with running := q.running.filter (· ≠ l) }).settle x.queue

/-- A run in which only the page requests of another remain. -/
def Run.waiting (r q : Run) : Run := r.emit (.pages q.s.pageReqs)

/-- The slot and the block that a cohort's next thread takes on a core. -/
def Run.takePlace (r : Run) (n : Nat) (p : LaunchPacket) (l c : Nat) : Run :=
  match (freeSlots r.s c).head?, (freeBlocks r.s n c p).head? with
  | some sl, some b =>
    (r.modCore c fun x => { x with pool := setPut x.pool b false }).modLaunch l fun y =>
      { y with reserved := y.reserved ++ [(c, sl, b)] }
  | _, _ => r

/-- A cohort reserved on a group whose cores have all granted: cores are given, the WM reservation
joins their data areas, slots and blocks are withheld (15 R346). -/
def Run.reserveOn (r : Run) (n l : Nat) (p : LaunchPacket) (group : List Nat) : Run :=
  let r := (p.counts group).foldl (fun r x =>
    let r := if (r.s.core x.1).ctx = some n then r else r.giveCore n x.1 p.supPc p.arg
    r.modCore x.1 fun y => { y with
      pool := y.pool.filter fun b => ! p.wmBlocks.contains b,
      data := p.wmBlocks.foldl (fun d b => setPut d b true) y.data }) r
  ((p.coresOn group).foldl (fun r c => r.takePlace n p l c) r).modLaunch l fun y =>
    { y with granted := true }

/-- The cores of a group that refuse their part of a launch's next cohort. -/
def refusing (s : State) (n l : Nat) (p : LaunchPacket) (group : List Nat) : List Nat :=
  ((p.counts group).filter fun e => ! coreGrants s n l e.1 e.2 p).map Prod.fst

/-- A launch that an error keeps from placing more; its queue stops, and the threads already placed run
on (15 R338, R347). -/
def Run.failLaunch (r : Run) (l : Nat) (y : LaunchSt) (code : Nat) : Run :=
  (r.modLaunch l fun z => { z with failed := true }).failPacket y.queue code y.index

/-- The reservation of a launch's next cohort (15 R345, R346): while it fits nowhere the launch waits,
and a cohort that a core has refused is tried again after the next report. -/
def Run.reserveNext (r : Run) (l : Nat) : Run :=
  match mapFind r.s.gaffer.launches l with
  | none => r
  | some y =>
    match mapFind r.s.gaffer.ctxs y.ctx with
    | none => r
    | some x =>
      let p := launchPacket y.packet
      if p.wmn ≠ 0 ∧ p.groups.flatten.all (fun c => wmConflict r.s y.ctx c p) then r.failLaunch l y 7
      else match fittingGroup r.s y.ctx l p false with
        | none => r
        | some group =>
          let no := refusing r.s y.ctx l p group
          if no ≠ [] then r.modLaunch l fun z => { z with refused := no.map coreDie }
          else if x.given then r.reserveOn y.ctx l p group
          else match r.firstCore y.ctx x with
            | .ok _ q => q.reserveOn y.ctx l p group
            | .wait q => r.waiting q
            | .fault _ _ _ q =>
              ((({ q with rejects := r.rejects }).modCtx y.ctx fun z => { z with rejected := [] }).dropLaunch
                l).failPacket y.queue 6 y.index

/-- A LAUNCH whose wait signal reads zero begins to place its cohorts. -/
def Run.beginLaunch (r : Run) (k : Nat) (q : Queue) (d : List Word) : Run :=
  match r.s.ctxAt q.ctxAddr with
  | none => r.failPacket k 6 q.index
  | some (n, _) =>
    let l := freshKey r.s.gaffer.launches
    let y : LaunchSt :=
      { queue := k, index := q.index, packet := d, ctx := n, next := 0, placed := false,
        reserved := [], blocks := [], granted := false, refused := [], failed := false,
        quietAt := none, hung := false }
    let r := r.modGaffer fun g => { g with launches := mapPut g.launches l y }
    let r := r.modQueue k fun q => { q with
      waiting := false, pageAt := none, running := q.running ++ [l] }
    let r := r.modCtx n fun x => { x with
      sceneLaunch := match x.sceneLaunch with
        | some z => some z
        | none => some l }
    r.reserveNext l

/-- The wait signal of a LAUNCH read (15 R342, R343). -/
def Run.tryLaunch (r : Run) (k : Nat) (q : Queue) (d : List Word) : Run :=
  let p := launchPacket d
  if p.wsig = 0 then r.beginLaunch k q d
  else r.afterSignals k q ((r.glDword (r.s.queueCtx q) p.wsig).bind fun v r =>
    .ok (if v = 0 then some (r.beginLaunch k q d) else none) r)

/-- The number under which a launch is placed whose queue has been removed (24 R430). -/
def looseQueue (l : Nat) : Nat := 1024 + l

/-- The launch that a queue is placing. -/
def openLaunch (s : State) (k : Nat) : Option (Nat × LaunchSt) :=
  s.gaffer.launches.find? fun e => e.2.queue == k && ! e.2.placed && ! e.2.failed

/-- The step `LAUNCH` of queue `sel.num`: its packet's wait signal is read and its first cohort
reserved, or the next reservation is tried again (15 R343-R346). -/
def launchRun (s : State) : Option (List Eff) :=
  if s.paused then none
  else match openLaunch s s.sel.num with
    | some (l, y) =>
      if y.granted ∨ y.refused ≠ [] then none
      else some ((Run.start s).reserveNext l).done
    | none =>
      (heldPacket s 1 false).map fun x => ((Run.start s).tryLaunch s.sel.num x.1 x.2).done

/-- Whether the STATUS of a queue is still to be written. -/
def statusWaits (s : State) (k : Nat) : Bool :=
  ((mapFind s.gaffer.queues k).bind Queue.status).isSome

/-- The step `SIGNAL_REREAD` of queue `sel.num`: the Gaffer reads again the signals that its waiting
packet names (15 R344, R352); or writes the STATUS of a stopped queue that could not be written
before (15 R338). -/
def signalRereadRun (s : State) : Option (List Eff) :=
  let k := s.sel.num
  if statusWaits s k then some ((Run.start s).writeStatus k).done
  else match heldPacket s 2 true, heldPacket s 4 true, heldPacket s 1 true with
  | some x, _, _ => some ((Run.start s).tryWait k x.1 x.2).done
  | none, some x, _ => some ((Run.start s).tryBarrier k x.1 x.2).done
  | none, none, some x =>
    if s.paused then none else some ((Run.start s).tryLaunch k x.1 x.2).done
  | none, none, none => none

/-! ### Writing a cohort (09 R272, R273, 15 R346, R347) -/

/-- The seeds of a placed thread. -/
def placedSeeds (p : LaunchPacket) (cohort t : Nat) : Seeds :=
  { pc := p.pc, cohort := cohort, tidx := t, strict := false,
    g := [BitVec.ofNat 64 cohort, BitVec.ofNat 64 t, p.arg, p.word] }

/-- The threads of a reserved cohort written from thread t on. -/
def Run.writeThreads (r : Run) (l : Nat) (seeds : Nat → Seeds) : Nat → List (Nat × Nat × Nat) → Run
  | _, [] => r
  | t, (c, sl, b) :: rest =>
    ((r.startThread c sl b (seeds t) (some l)).modSlot c sl fun x => { x with counted := true }).writeThreads
      l seeds (t + 1) rest

/-- A cohort written: the next one is reserved, or the queue goes on. -/
def Run.cohortDone (r : Run) (l : Nat) (y : LaunchSt) (p : LaunchPacket) : Run :=
  let last := decide (p.cohorts ≤ y.next + 1)
  let r := r.modLaunch l fun z => { z with
    next := y.next + 1, reserved := [], granted := false, placed := last }
  if last then r.releaseQueue y.queue
  else if r.s.paused then r
  else r.reserveNext l

/-- A reserved cohort given up, its blocks back in their pools. -/
def Run.cancelCohort (r : Run) (l : Nat) (y : LaunchSt) : Run :=
  (y.reserved.foldl (fun r x => r.modCore x.1 fun z => { z with pool := setPut z.pool x.2.2 true }) r).modLaunch
    l fun z => { z with reserved := [], granted := false }

/-- The step `COHORT_WRITE` of launch `sel.num` (15 R346). A cohort one of whose slots has left the
rotation since is cancelled (20 R399). -/
def cohortWriteRun (s : State) : Option (List Eff) :=
  let l := s.sel.num
  match mapFind s.gaffer.launches l with
  | none => none
  | some y =>
    if ! y.granted then none
    else
      let p := launchPacket y.packet
      let r := Run.start s
      if y.reserved.any fun x => slotOff s x.1 x.2.1 then some (r.cancelCohort l y).done
      else if p.isRec then
        match r.gl (mapFind s.gaffer.ctxs y.ctx) (p.arg.toNat + 64 * y.next) 64 with
        | .wait q => some q.done
        | .fault _ _ _ q => some ((q.cancelCohort l y).failLaunch l y 6).done
        | .ok rec_ r =>
          some ((r.writeThreads l (fun _ => recSeeds rec_) 0 y.reserved).cohortDone l y p).done
      else some ((r.writeThreads l (placedSeeds p y.next) 0 y.reserved).cohortDone l y p).done

/-! ### Completion (15 R341, R349) -/

/-- Whether some thread of a launch lives in a slot of a list. -/
def liveIn (l : Nat) (m : Map Slot) : Bool := m.any fun e => e.2.wspV && e.2.launch == some l

/-- Whether `wspx` has displaced a thread of a launch from a core. -/
def leftOf (l : Nat) (x : CoreSt) : Bool := x.left.any fun e => e.launch == some l

/-- Whether a record of a launch lies in a core's deque. -/
def dequeHas (l : Nat) (x : CoreSt) : Bool := x.dqLaunch.contains (some l)

/-- Whether a launch has left a record in a deque, an overflow ring or a trap queue. -/
def recordsLeft (s : State) (l : Nat) : Bool :=
  let has (x : CoreSt) : Bool := dequeHas l x || x.trapq.any fun t => t.launch == some l
  s.cores.any (fun e => has e.2) || (s.gaffer.saves.any fun e => has e.2.core)
    || s.gaffer.ctxs.any fun e => e.2.ovfLaunch.contains (some l)

/-- Whether a thread of a launch lives. -/
def launchLives (s : State) (l : Nat) : Bool :=
  liveIn l s.slots || (s.cores.any fun e => leftOf l e.2)
    || s.gaffer.saves.any fun e => liveIn l e.2.slots || leftOf l e.2.core

/-- The step `LAUNCH_COMPLETE` of launch `sel.num` (15 R341, R349). A launch that has failed does not
complete; it leaves the table. -/
def launchCompleteRun (s : State) : Option (List Eff) :=
  let l := s.sel.num
  match mapFind s.gaffer.launches l with
  | none => none
  | some y =>
    if (! y.placed ∧ ! y.failed) ∨ launchLives s l ∨ recordsLeft s l then none
    else if y.failed then some ((Run.start s).dropLaunch l).done
    else match (Run.start s).decSignal (mapFind s.gaffer.ctxs y.ctx) (launchPacket y.packet).csig with
      | .ok _ r => some (r.dropLaunch l).done
      | .wait r => some r.done
      | .fault _ _ _ r => some ((r.dropLaunch l).stopQueue y.queue 6 y.index).done

/-! ### Reports (15 R348) -/

/-- Whether a core does nothing that keeps it from being idle. -/
def coreQuiet (s : State) (c : Nat) : Bool :=
  let x := s.core c
  let sup := s.slot c 0
  ((fromTo 1 15).all fun sl => ! (s.slot c sl).wspV) && x.depth == 0 && x.trapq.isEmpty
    && ((List.range 16).all fun sl => (s.slot c sl).ports.all fun p =>
        p.2.cmds.isEmpty && p.2.opened.isNone)
    && (x.engines.all fun e => e.2.run.isNone) && sup.wspV && sup.trap.isNone
    && (match sup.park with
      | some p => decide (p.kind = .halt)
      | none => false)
    && ! (List.range 16).any (slotReserved s c)

/-- Whether nothing that a core's threads have started is still on its way: no store is buffered, no
message is queued, and no record is to be pushed (11 R315). -/
def coreDrained (s : State) (c : Nat) : Bool :=
  (List.range 16).all fun sl =>
    let x := s.slot c sl
    x.sb.isEmpty && x.outq.isEmpty && x.async.isEmpty

/-- What a die reports of a core: idle once a whole interval has passed quiet. -/
def coreReport (s : State) (c : Nat) : CoreReport :=
  let x := s.core c
  { slots := (freeSlots s c).length, blocks := if x.ctx.isNone then fromTo 1 61 else x.pool,
    data := x.data, ctx := x.ctx, idle := decide (1000 ≤ x.idle) && coreQuiet s c }

/-- The cores of a die in ascending (y, x). -/
def dieCores (d : Nat) : List Nat := fromTo (1024 * d) 1024

/-- Whether a queue feeds a context. -/
def fedContext (s : State) (x : Context) : Bool := s.gaffer.queues.any fun e => e.2.ctxAddr == x.addr

/-- Whether a core that holds a context is given back now: the context has ended, or no queue
feeds it and the core is idle. -/
def goesBack (s : State) (c : Nat) : Bool :=
  match s.ctxOf c with
  | none => false
  | some x => (s.core c).pre.isNone && coreDrained s c
      && (x.ended || (! fedContext s x && (coreReport s c).idle))

/-- Whether a context stands: a queue feeds it, or it has a core or a save area. -/
def contextStands (s : State) (n : Nat) (x : Context) : Bool :=
  (! x.ended && fedContext s x) || (s.cores.any fun c => c.2.ctx == some n)
    || s.gaffer.saves.any fun a => a.2.ctx == n

/-- The contexts that stand no more leave the table. -/
def Run.dropContexts (r : Run) : Run :=
  let l := r.s.gaffer.ctxs.filter fun e => contextStands r.s e.1 e.2
  r.modGaffer fun g => { g with ctxs := l }

/-- The idle cores that a waiting launch's next cohort needs, when it fits on no free core
(15 R348). -/
def idleNeeded (s : State) (l : Nat) (y : LaunchSt) : List Nat :=
  let p := launchPacket y.packet
  if y.placed ∨ y.granted ∨ y.failed ∨ (fittingGroup s y.ctx l p false).isSome then []
  else match fittingGroup s y.ctx l p true with
    | none => []
    | some g => ((p.counts g).map Prod.fst).filter fun c =>
        (s.core c).ctx.isSome && (s.core c).ctx != some y.ctx && coreQuiet s c && coreDrained s c
          && (s.core c).pre.isNone

/-- An idle core returned for another context, as the Gaffer then knows. -/
def Run.giveBack (r : Run) (c : Nat) : Run :=
  if (r.s.core c).ctx.isNone then r
  else
    let r := r.returnCore c
    let y := coreReport r.s c
    r.modGaffer fun g => { g with reports := mapPut g.reports c y }

/-- The step `DIE_REPORT` of die `sel.num`, once in each report interval. -/
def dieReportRun (s : State) : Option (List Eff) :=
  let d := s.sel.num
  if 4 ≤ d ∨ s.time.toNat < mapGet 0 s.gaffer.reportAt d then none
  else
    let mine (k n : Nat) : Bool := decide (n * d ≤ k) && decide (k < n * (d + 1))
    let join (n : Nat) {α : Type} (old new : Map α) : Map α :=
      (old.filter fun e => decide (e.1 < n * d)) ++ new ++ old.filter fun e => decide (n * (d + 1) ≤ e.1)
    let r := (dieCores d).foldl (fun r c => if goesBack r.s c then r.returnCore c else r) (Run.start s)
    let r := r.modGaffer fun g => { g with
      reports := join 1024 g.reports ((dieCores d).map fun c => (c, coreReport r.s c)),
      quadReports := join 256 g.quadReports ((fromTo (256 * d) 256).map fun q => (q, licenceWord r.s q)),
      reportAt := mapSet 0 g.reportAt d (nextInterval s),
      launches := g.launches.map fun e => (e.1, { e.2 with refused := e.2.refused.filter (· ≠ d) }) }
    let back := (r.s.gaffer.launches.flatMap fun e => idleNeeded r.s e.1 e.2).filter fun c => mine c 1024
    some (back.foldl Run.giveBack r).dropContexts.done

/-! ### Hang detection (09 R281) -/

/-- The wait-table entry of a slot's thread: kind and address, none when it is not listed. A thread
held by the power controller is not listed (20 R399), nor one that is pre-empted (09 R280). -/
def listedSleep (s : State) (c sl : Nat) : Option (Nat × Word) :=
  let x := s.slot c sl
  if x.wspV && ! x.dying && x.trap.isNone && x.faults.isEmpty && ! slotOff s c sl
      && (s.core c).pre.isNone then sleepOf s c x
  else none

/-- The threads of a launch: core and slot. -/
def launchSlots (s : State) (l : Nat) : List (Nat × Nat) :=
  (s.slots.filter fun e => e.2.wspV && e.2.launch == some l).map fun e => (e.1 / 16, e.1 % 16)

/-- Whether a command belongs to a launch. -/
def EngCmd.ofLaunch (l : Nat) (x : EngCmd) : Bool := x.launch == some l

/-- Whether a slot holds something of a launch in flight: a message, an engine command or a layer
instruction (09 R281). -/
def slotInFlight (l : Nat) (x : Slot) : Bool :=
  (x.outq.any fun m => m.msg.launch == some l)
    || (x.ports.any fun p => p.2.cmds.any (EngCmd.ofLaunch l) || p.2.opened.any (EngCmd.ofLaunch l))
    || (x.async.any fun o => o.launch == some l && (match o.kind, o.st with
      | .layer _, .sent => true
      | .layer _, .paged => true
      | _, _ => false))

/-- Whether a launch has something in flight on a die that holds a thread of it, or at an agent that no
die holds (09 R281; log 17). -/
def inFlight (s : State) (l : Nat) (dies : List Nat) : Bool :=
  (s.slots.any fun e => dies.contains (coreDie (e.1 / 16)) && slotInFlight l e.2)
    || (s.cores.any fun e => dies.contains (coreDie e.1)
      && e.2.engines.any fun g => g.2.run.any fun x => x.2.ofLaunch l)
    || (s.colls.any fun k => k.parts.any fun p => dies.contains (coreDie p.core) && p.cmd.ofLaunch l)
    || (s.gaffer.msgs.any fun m => m.2.launch == some l)
    || (s.pageReqs.any fun q => q.launches.contains l)

/-- Whether a render deque holds a record of a launch. -/
def renderLeft (s : State) (l : Nat) : Bool :=
  s.gaffer.ctxs.any fun e => e.2.sceneLaunch == some l && (match e.2.scene with
    | some sc => ! sc.placed.isEmpty
    | none => false)

/-- Whether the conditions of R281 hold for a launch now. -/
def launchQuiet (s : State) (l : Nat) : Bool :=
  let ts := launchSlots s l
  ! ts.isEmpty && (ts.all fun t => (listedSleep s t.1 t.2).isSome)
    && ! (s.cores.any fun e => leftOf l e.2)
    && ! (s.gaffer.saves.any fun e => liveIn l e.2.slots || leftOf l e.2.core)
    && ! (s.cores.any fun e => dequeHas l e.2) && ! (s.gaffer.saves.any fun e => dequeHas l e.2.core)
    && ! (s.gaffer.ctxs.any fun e => e.2.ovfLaunch.contains (some l)) && ! renderLeft s l
    && ! inFlight s l ((ts.map fun t => coreDie t.1).eraseDups)

/-- The trap 0x65 of a listed thread. It is woken, for its launch's sake, by what it sleeps on. -/
def Run.hangTrap (r : Run) (c sl : Nat) : Run :=
  match listedSleep r.s c sl with
  | none => r
  | some (kind, addr) =>
    let x := r.s.slot c sl
    let pc := fetchPc r.s c sl
    let isPair : Bool := match fetchWord r.s c sl pc with
      | .ok w _ => ! w.getLsbD 31
      | _ => false
    let (pc, pair) := match x.park with
      | some p => (p.pc, p.pair)
      | none => (pc, isPair)
    (r.emits (takeTrap r.s c sl (trapRecord r.s sl 0x65 addr (BitVec.ofNat 32 kind) pc pair false))).modSlot
      c sl fun z => { z with hungOn := some { kind := kind, addr := addr, cycle := 0 } }

/-- The step `HANG_DETECTED` of launch `sel.num`: the conditions have held for 4,096 ticks. -/
def hangDetectedRun (s : State) : Option (List Eff) :=
  let l := s.sel.num
  match mapFind s.gaffer.launches l with
  | none => none
  | some y =>
    match y.quietAt with
    | none => none
    | some t =>
      if s.paused ∨ y.hung ∨ s.time.toNat < t + 4095 ∨ ! launchQuiet s l then none
      else
        let r := (launchSlots s l).foldl (fun r x => r.hangTrap x.1 x.2) (Run.start s)
        some (r.modLaunch l fun z => { z with hung := true, quietAt := none }).done

/-! ### The tick of TIME -/

/-- What is counted in ticks of TIME, after TIME has advanced: how long each launch has been quiet
(09 R281) and each core idle (15 R348). -/
def Run.sample (r : Run) : Run :=
  let r := r.s.gaffer.launches.foldl (fun r e =>
    let quiet := launchQuiet r.s e.1
    let at' := if quiet then (match e.2.quietAt with
      | some t => some t
      | none => some r.s.time.toNat) else none
    if at' = e.2.quietAt then r else r.modLaunch e.1 fun y => { y with quietAt := at' }) r
  r.s.cores.foldl (fun r e =>
    let n := if e.2.ctx.isSome ∧ coreQuiet r.s e.1 then min (e.2.idle + 1) 1000 else 0
    if n = e.2.idle then r else r.modCore e.1 fun x => { x with idle := n }) r

/-! ### The steps -/

/-- The step `LAUNCH`. -/
def execLaunch (s : State) : Host.Outcome State Fault Refusal :=
  finish s (launchRun s)

/-- The step `SIGNAL_REREAD`. -/
def execSignalReread (s : State) : Host.Outcome State Fault Refusal :=
  finish s (signalRereadRun s)

/-- The step `COHORT_WRITE`. -/
def execCohortWrite (s : State) : Host.Outcome State Fault Refusal :=
  finish s (cohortWriteRun s)

/-- The step `LAUNCH_COMPLETE`. -/
def execLaunchComplete (s : State) : Host.Outcome State Fault Refusal :=
  finish s (launchCompleteRun s)

/-- The step `DIE_REPORT`. -/
def execDieReport (s : State) : Host.Outcome State Fault Refusal :=
  finish s (dieReportRun s)

/-- The step `HANG_DETECTED`. -/
def execHangDetected (s : State) : Host.Outcome State Fault Refusal :=
  finish s (hangDetectedRun s)

end Sys2Proof.Machine
end

