-- ==== Sys2Proof/Machine/Boost.lean ====
section
/-!
DEFINITION. The power controller: event records, partitions, claims and permits (20 R398-R404).
-/

namespace Sys2Proof.Machine

/-! ### Event records (20 R402, R403) -/

/-- What an event record says beside its time and sequence number. -/
structure EventRec where
  kind   : Nat
  cause  : Nat
  domain : Nat
  old    : Nat
  new    : Nat
deriving DecidableEq, Repr

/-- The 32 bytes of an event record. -/
def EventRec.bytes (e : EventRec) (time : Nat) (seq : BitVec 32) : List Byte :=
  toBytes 8 time ++ toBytes 8 (seq.toNat * 2 ^ 32 + e.cause * 2 ^ 16 + e.kind * 2 ^ 8 + e.domain)
    ++ toBytes 8 e.old ++ toBytes 8 e.new

/-- A dword of HBM, zero where it cannot be read. -/
def Run.hbmDword (r : Run) (a : Nat) : Nat × Run :=
  let (_, bs, r) := r.hbmOrZero a 8
  (ofBytes bs, r)

/-- A partition's record changed. -/
def Run.modPart (r : Run) (k : Nat) (f : Part → Part) : Run :=
  match mapFind r.s.power.parts k with
  | some p => r.emit (.power { r.s.power with parts := mapPut r.s.power.parts k (f p) })
  | none => r

/-- Records written one after another from record n of a ring on, with rising sequence numbers. -/
def Run.putRecords (r : Run) (p : Part) (time : Nat) : Nat → BitVec 32 → List EventRec → Run
  | _, _, [] => r
  | n, seq, e :: l =>
    ((r.hbmSet (p.ering + 32 * (n % 2 ^ p.esize)) (e.bytes time seq)).run).putRecords p time (n + 1)
      (seq + 1) l

/-- A group of records written to partition k's ring whole, or counted as lost; the sequence number
advances either way (20 R403, 24 R440). -/
def Run.events (r : Run) (k time : Nat) (l : List EventRec) : Run :=
  match mapFind r.s.power.parts k with
  | none => r
  | some p =>
    let n := l.length
    let (widx, r) := r.hbmDword p.ectl
    let (ridx, r) := r.hbmDword (p.ectl + 8)
    let used := (widx + 2 ^ 64 - ridx) % 2 ^ 64
    let r := r.modPart k fun p => { p with seq := p.seq + BitVec.ofNat 32 n }
    if 2 ^ p.esize < used + n then
      let (lost, r) := r.hbmDword (p.ectl + 16)
      (r.hbmSet (p.ectl + 16) (toBytes 8 (min (lost + n) (2 ^ 64 - 1)))).run
    else
      ((r.putRecords p time widx p.seq l).hbmSet p.ectl (toBytes 8 (widx + n))).run

/-- One record written to partition k's ring. -/
def Run.event (r : Run) (k time : Nat) (e : EventRec) : Run := r.events k time [e]

/-- A group of records written to every partition's ring. -/
def Run.eventsAll (r : Run) (l : List EventRec) : Run :=
  r.s.power.parts.foldl (fun r e => r.events e.1 r.s.time.toNat l) r

/-! ### Claims (20 R401) -/

/-- Level of a domain. -/
def domainLevel (s : State) (d : Nat) : Nat := mapGet 12 s.power.level d

/-- A domain's level set. -/
def Run.setDomain (r : Run) (d l : Nat) : Run :=
  r.emit (.power { r.s.power with level := mapPut r.s.power.level d l })

/-- The domains of a partition, ascending. -/
def Part.domains (p : Part) : List Nat := (List.range 64).filter fun d => p.dmask.getLsbD d

/-- PRIO of a launch. -/
def launchPrio (s : State) (l : Nat) : Option Nat :=
  (mapFind s.gaffer.launches l).map fun y => (launchPacket y.packet).prio

/-- The highest PRIO of a user thread's launch in a domain; a thread that has ended does not count, though its
results are still outstanding (04 R116). -/
def domainPrio (s : State) (d : Nat) : Option Nat :=
  s.slots.foldl (fun o e =>
    if e.2.wspV ∧ ! e.2.dying ∧ e.1 % 16 ≠ 0 ∧ domainOf (e.1 / 16) = d then
      match e.2.launch.bind (launchPrio s), o with
      | some p, some q => some (max p q)
      | some p, none => some p
      | none, o => o
    else o) none

/-- A claim: priority, charge, domain. -/
structure Claim where
  prio   : Nat
  charge : Nat
  domain : Nat
deriving DecidableEq, Repr

/-- The order of claims: higher priority, lower charge, lower column, lower die. -/
def Claim.before (a b : Claim) : Bool :=
  if a.prio ≠ b.prio then decide (b.prio < a.prio)
  else if a.charge ≠ b.charge then decide (a.charge < b.charge)
  else if a.domain % 16 ≠ b.domain % 16 then decide (a.domain % 16 < b.domain % 16)
  else decide (a.domain < b.domain)

/-- A claim put into ordered claims. -/
def insertClaim (a : Claim) : List Claim → List Claim
  | [] => [a]
  | b :: l => if a.before b then a :: b :: l else b :: insertClaim a l

/-- The claims of a partition in order. -/
def claimsOf (s : State) (p : Part) : List Claim :=
  p.domains.foldl (fun l d =>
    match domainPrio s d with
    | some x => if p.bthr ≤ x then
        insertClaim { prio := x, charge := mapGet 0 p.charge d, domain := d } l else l
    | none => l) []

/-- A level that is denied a permit. -/
def deniedLevel (l : Nat) : Nat := if l = 15 then 13 else 12

/-- What treating a partition's claims has come to: permits, charges, levels with causes, records. -/
structure Treat where
  permits : Nat
  charge  : Map Nat
  levels  : Map (Nat × Nat)
  records : List EventRec
deriving DecidableEq, Repr

/-- One claim granted or denied. -/
def treatClaim (s : State) (t : Treat) (c : Claim) : Treat :=
  let hot := decide (2 ≤ s.power.thermal)
  if 0 < t.permits ∧ ! hot then
    { permits := t.permits - 1, charge := mapSet 0 t.charge c.domain (c.charge + 1),
      levels := mapPut t.levels c.domain (15, 1),
      records := t.records ++ [{ kind := 1, cause := 0, domain := c.domain, old := t.permits,
                                 new := t.permits - 1 }] }
  else
    { t with
      levels := mapPut t.levels c.domain
        (if hot then (12, 4) else (deniedLevel (domainLevel s c.domain), 2)),
      records := t.records ++ [{ kind := 4, cause := 0, domain := c.domain, old := t.permits,
                                 new := t.permits }] }

/-- The boundary of one partition. -/
def Run.boundaryPart (r : Run) (k time : Nat) : Run :=
  match mapFind r.s.power.parts k with
  | none => r
  | some p =>
    let s := r.s
    let busy := p.domains.any fun d => decide (12 < mapGet 12 s.power.opened d)
    let refill := ! busy && decide (p.idle + 1 = 2)
    let idle := if busy || refill then 0 else p.idle + 1
    let permits := if refill then min (p.permits + 1) 64 else p.permits
    let first : List EventRec := if permits ≠ p.permits then
      [{ kind := 3, cause := 0, domain := 0, old := p.permits, new := permits }] else []
    let t := (claimsOf s p).foldl (treatClaim s)
      { permits := permits, charge := p.charge, levels := [], records := first }
    let levels := p.domains.map fun d =>
      (d, match mapFind t.levels d with
        | some x => x
        | none => (12, 3))
    let slots := levels.filterMap fun e =>
      let old := domainLevel s e.1
      if old = e.2.1 then none
      else some { kind := 2, cause := e.2.2, domain := e.1, old := old, new := e.2.1 }
    let r := r.modPart k fun p => { p with permits := t.permits, charge := t.charge, idle := idle }
    let r := levels.foldl (fun r e => r.setDomain e.1 e.2.1) r
    (t.records ++ slots).foldl (fun r e => r.event k time e) r

/-- The step `BOOST_INTERVAL_BOUNDARY`, at every multiple of 10 µs (20 R401). -/
def boostIntervalBoundaryRun (s : State) : Option (List Eff) :=
  let t := s.power.boundary
  if s.time.toNat < t then none
  else
    let r := (Run.start s).emit (.power { s.power with boundary := t + 10000 })
    let r := s.power.parts.foldl (fun r e => r.boundaryPart e.1 t) r
    let loose := (List.range 64).filter fun d => ! s.power.parts.any fun e => e.2.dmask.getLsbD d
    let r := loose.foldl (fun r d => if domainLevel r.s d = 12 then r else r.setDomain d 12) r
    some (r.emit (.power { r.s.power with opened := r.s.power.level })).done

/-! ### The steps -/

/-- The step `BOOST_INTERVAL_BOUNDARY`. -/
def execBoostIntervalBoundary (s : State) : Host.Outcome State Fault Refusal :=
  finish s (boostIntervalBoundaryRun s)

end Sys2Proof.Machine
end

