-- ==== Sys2Proof/Machine/Engine.lean ====
section
/-!
DEFINITION. The engines e0 to e3 of a core: a command starts, is executed and completes, and the
collectives (08 R231-R252, 10 R292-R297).
-/

namespace Sys2Proof.Machine

/-! ### The run of a command -/

/-- What ends a command's execution early. -/
inductive Stop where
  | fault (cause : BitVec 8) (addr : Nat)
  /-- A page is missing, for a write or for a read. -/
  | page (addr : Nat) (write : Bool)
  | wait
deriving DecidableEq, Repr

/-- A sector of GL that a command is writing: the bits written so far, of `n` elements. -/
structure Pend where
  base : Nat
  val  : Nat
  mask : Nat
  n    : Nat
deriving DecidableEq, Repr

/-- A command in execution for a core: its sector of GL not yet written, the destination elements
written, the chunks that failed, the sectors of its source that have arrived bad, and what has stopped
it. -/
structure Xfer where
  run  : Run
  pend : Option Pend
  done : Nat
  bad  : List Nat
  lost : List Nat
  stop : Option Stop

/-- A command that begins. -/
def Xfer.start (r : Run) : Xfer := { run := r, pend := none, done := 0, bad := [], lost := [], stop := none }

/-- The same step for each of n numbers from i on, while nothing stops the command. -/
def Xfer.loop (f : Nat → Xfer → Xfer) : Nat → Nat → Xfer → Xfer
  | 0, _, x => x
  | n + 1, i, x =>
    match x.stop with
    | some _ => x
    | none => Xfer.loop f n (i + 1) (f i x)

/-- A command stopped. -/
def Xfer.halt (x : Xfer) (s : Stop) (effs : List Eff) : Xfer :=
  { x with run := x.run.emits effs, stop := some s }

/-- The bits of byte i of a sector that are written. -/
def Pend.maskAt (p : Pend) (i : Nat) : Nat := p.mask / 2 ^ (8 * i) % 256

/-- The bytes of a sector as they are written, those written in part merged with what memory holds. -/
def Pend.bytes (p : Pend) (old : List Byte) : List (Option Byte) :=
  (List.range 32).map fun i =>
    let m := p.maskAt i
    if m = 0 then none
    else some (BitVec.ofNat 8 (Nat.lor (Nat.land (p.val / 2 ^ (8 * i) % 256) m)
      (Nat.land (old.getD i 0).toNat (255 - m))))

/-- Whether some byte of a sector is written in part. -/
def Pend.split (p : Pend) : Bool := (List.range 32).any fun i => p.maskAt i != 0 && p.maskAt i != 255

/-- A sector written, in one access: as a whole when every bit of it is (22 R409, R411). -/
def Pend.write (p : Pend) (s : State) (c : Nat) : Acc Unit :=
  if p.mask = 2 ^ 256 - 1 then coreWrite s c p.base (toBytes 32 p.val) .write true
  else if p.split then
    match glAtHome s (s.ctxOf c) p.base 32 .write with
    | .fault cause a e => .fault cause a e
    | .page => .page
    | .wait => .wait
    | .ok old e =>
      match coreMerge (applyAll s e) c p.base (p.bytes old) .write false with
      | .ok _ e2 => .ok () (e ++ e2)
      | .fault cause a e2 => .fault cause a (e ++ e2)
      | .page => .page
      | .wait => .wait
  else coreMerge s c p.base (p.bytes []) .write false

/-- The sector in hand written; a fault of its write names the sector (log 86). -/
def Xfer.flush (x : Xfer) (c : Nat) : Xfer :=
  match x.pend with
  | none => x
  | some p =>
    let x := { x with pend := none }
    match p.write x.run.s c with
    | .ok _ e => { x with run := x.run.emits e, done := x.done + p.n }
    | .fault cause _ e => x.halt (.fault cause p.base) e
    | .page => x.halt (.page p.base true) []
    | .wait => x.halt .wait []

/-- Bits of a sector set. -/
def Pend.setBits (p : Pend) (lo w v : Nat) : Pend :=
  { p with
    val := p.val % 2 ^ lo + v % 2 ^ w * 2 ^ lo + p.val / 2 ^ (lo + w) * 2 ^ (lo + w),
    mask := Nat.lor p.mask ((2 ^ w - 1) * 2 ^ lo), n := p.n + 1 }

/-- The answer of an access to elements taken into a command: a read of GL, or an access to a local
memory. -/
def Xfer.answer {α : Type} (x : Xfer) (e : Elems α) (d : α) : α × Xfer :=
  match e with
  | .ok v l => (v, { x with run := x.run.emits l })
  | .fault cause a l => (d, x.halt (.fault cause a) l)
  | .page a => (d, x.halt (.page a false) [])
  | .wait => (d, x.halt .wait [])

/-- An element written at a coordinate inside the destination's tensor. -/
def Xfer.put (x : Xfer) (c : Nat) (t : Tlr) (co : List Nat) (v : Nat) : Xfer :=
  if x.stop.isSome then x
  else if t.space = 0 then
    let (o, slot) := t.locate co
    let a := t.base + o
    let sector := a / 32 * 32
    let x := match x.pend with
      | some p => if p.base = sector then x else x.flush c
      | none => x
    if x.stop.isSome then x
    else
      let p := x.pend.getD { base := sector, val := 0, mask := 0, n := 0 }
      { x with pend := some (p.setBits (8 * (a % 32) + t.elem.cont * slot) t.elem.cont
          (v % 2 ^ t.elem.bits)) }
  else
    let (_, x) := x.answer (t.writeElem x.run.s c co v) ()
    if x.stop.isSome then x else { x with done := x.done + 1 }

/-- A source element at a tensor coordinate, fills included. -/
def Xfer.get (x : Xfer) (c : Nat) (t : Tlr) (co : List Int) : Nat × Xfer :=
  if x.stop.isSome then (0, x) else x.answer (t.take x.run.s c co) 0

/-- Causes of an error of the data itself (22 R410). -/
def dataError (cause : BitVec 8) : Bool :=
  cause == 0x45 || cause == 0x46 || cause == 0xC0 || cause == 0xC1

/-- The sector of GL from which a reader takes the element at a tensor coordinate. -/
def Tlr.sectorAt (t : Tlr) (co : List Int) : Option Nat :=
  if t.space ≠ 0 then none
  else if t.inside co then some ((t.base + (t.locate (co.map Int.toNat)).1) / 32 * 32)
  else if t.fillm = 2 then some ((t.base + (t.locate (t.clamp co)).1) / 32 * 32)
  else none

/-- A source element as the Marver takes it: one of a sector that arrives poisoned or fails its check
reads as the zero code, and the answer says so with the sector's address (08 R249). -/
def Xfer.getSoft (x : Xfer) (c : Nat) (t : Tlr) (co : List Int) : Nat × Option Nat × Xfer :=
  if x.stop.isSome then (0, none, x)
  else match (t.sectorAt co).filter x.lost.contains with
  | some a => (0, some a, x)
  | none =>
    match t.take x.run.s c co with
    | .fault cause a l =>
      if dataError cause then
        (0, some (a / 32 * 32), { x with run := x.run.emits l, lost := (a / 32 * 32) :: x.lost })
      else (0, none, x.halt (.fault cause a) l)
    | e =>
      let (v, x) := x.answer e 0
      (v, none, x)

/-- The tensor coordinate of a destination's window element, when it is inside. -/
def Tlr.place (t : Tlr) (w : List Nat) : Option (List Nat) :=
  let co := t.tensor w
  if t.inside co then some (co.map Int.toNat) else none

/-- The i-th coordinate of a record's window. -/
def Tlr.coord (t : Tlr) (i : Nat) : List Nat := windowCoord (t.wins.take t.rank) i

/-- A write to a destination's window element; one that is not inside is discarded. -/
def Xfer.putAt (x : Xfer) (c : Nat) (t : Tlr) (w : List Nat) (v : Nat) : Xfer :=
  match t.place w with
  | some co => x.put c t co v
  | none => x

/-! ### e0 (08 R243, R244) -/

/-- A window coordinate with its row permuted. -/
def permuteRow (p : List Nat) (w : List Nat) : List Nat := w.set 1 (p.getD (nth w 1) 0)

/-- `xcopy`. -/
def Xfer.copy (x : Xfer) (c : Nat) (cmd : EngCmd) (src dst : Tlr) : Xfer :=
  let pi := permOf cmd.q
  let qe := bitAt cmd.hdr 6
  (Xfer.loop (fun i x =>
    let w := dst.coord i
    let (v, x) := x.get c src (src.tensor (if qe then permuteRow pi w else w))
    x.putAt c dst w v) dst.count 0 x).flush c

/-- `xcopy.fill`. -/
def Xfer.fill (x : Xfer) (c : Nat) (dst : Tlr) : Xfer :=
  (Xfer.loop (fun i x => x.putAt c dst (dst.coord i) dst.fillBits) dst.count 0 x).flush c

/-! ### e1 (08 R245, R246) -/

/-- The j-th index of a command; none when it is null. A list that runs past the end of WM is a fault when
its index is reached (log 88). -/
def Xfer.index (x : Xfer) (c : Nat) (cmd : EngCmd) (j : Nat) : Option Nat × Xfer :=
  let arg := hdrArg cmd.hdr
  let n := if bitAt arg 19 then 4 else 2
  let null (v : Nat) : Option Nat := if v = 2 ^ (8 * n) - 1 then none else some v
  if bitAt arg 20 then
    (null ((cmd.operands.getD (j / 8) 0).toNat / 2 ^ (16 * (j % 8)) % 2 ^ 16), x)
  else
    let a := field arg 18 0 + n * j
    if 2 ^ 17 < field arg 16 0 + n * j + n then (none, x.halt (.fault 0x41 a) [])
    else (null (ofBytes (readBytes x.run.s.mem (localKey c .wm (a % 2 ^ 17)) n)), x)

/-- A tensor coordinate in row k of a record, relative to its origins. -/
def Tlr.rowAt (t : Tlr) (i k : Nat) : List Int :=
  [t.orgs.getD 0 0 + ((i : Nat) : Int), t.orgs.getD 1 0 + ((k : Nat) : Int)]

/-- `xgat`: row j of the destination's window from row k of the source. -/
def Xfer.gatherRow (x : Xfer) (c : Nat) (src dst : Tlr) (j k : Nat) : Xfer :=
  Xfer.loop (fun i x =>
    let (v, x) := x.get c src (src.rowAt i k)
    x.putAt c dst [i, j] v) (nth dst.wins 0) 0 x

/-- The sum of two elements of a format (08 R246, 03 R83). -/
def Elem.add (e : Elem) (a b : Nat) : Nat :=
  match e.kind with
  | .int _ => (a + b) % 2 ^ e.bits
  | .float f => (f.deliver modeRNE 0 (sumNums modeRNE [f.decode a, f.decode b])).1

/-- An element of the destination read back while a command writes it. -/
def Xfer.getBack (x : Xfer) (c : Nat) (t : Tlr) (co : List Nat) : Nat × Xfer :=
  let x := x.flush c
  if x.stop.isSome then (0, x) else x.answer (t.readElem x.run.s c co) 0

/-- `xgat.sca` and `xgat.scadd`: row k of the destination from row j of the source's window. -/
def Xfer.scatterRow (x : Xfer) (c : Nat) (add : Bool) (src dst : Tlr) (j k : Nat) : Xfer :=
  Xfer.loop (fun i x =>
    let (v, x) := x.get c src (src.tensor [i, j])
    let co := dst.rowAt i k
    if ! dst.inside co then x
    else
      let co := co.map Int.toNat
      if add then
        let (old, x) := x.getBack c dst co
        x.put c dst co (dst.elem.add old v)
      else x.put c dst co v) (nth src.wins 0) 0 x

/-- The operations of e1, for each index in ascending order. -/
def Xfer.rows (x : Xfer) (c : Nat) (cmd : EngCmd) (src dst : Tlr) : Xfer :=
  let opc := hdrOpc cmd.hdr
  let n := if opc = 0 then nth dst.wins 1 else nth src.wins 1
  (Xfer.loop (fun j x =>
    match x.index c cmd j with
    | (none, x) => x
    | (some k, x) =>
      if opc = 0 then x.gatherRow c src dst j k
      else x.scatterRow c (opc == 2) src dst j k) n 0 x).flush c

/-! ### e2 (08 R247-R250) -/

/-- A chunk recorded in the bad-chunk list at an address of local WM (08 R250). -/
def Xfer.listBad (x : Xfer) (c a chunk : Nat) : Xfer :=
  let d := wordOf (readBytes x.run.s.mem (localKey c .wm (a % 2 ^ 17)) 8)
  let count := field d 31 0
  let off := a % 2 ^ 17 + 8 + 4 * count
  let entry := if count < field d 63 32 ∧ off + 4 ≤ 2 ^ 17 then
    wmStore c off (toBytes 4 chunk) else []
  { x with run := x.run.emits (entry ++
      wmStore c (a % 2 ^ 17) (toBytes 4 (min (count + 1) (2 ^ 32 - 1)))) }

/-- The failed chunks recorded in order, when the command names a list. -/
def Xfer.listAll (x : Xfer) (c : Nat) (cmd : EngCmd) : Xfer :=
  let arg := hdrArg cmd.hdr
  if bitAt arg 38 then x.bad.foldl (fun x k => x.listBad c (field arg 37 19) k) x else x

/-- A number put into a rising list, once. -/
def insertNew (k : Nat) (l : List Nat) : List Nat := setPut l k true

/-- `xform`: each element converted and stored in the destination's order of dimensions. -/
def Xfer.form (x : Xfer) (c : Nat) (cmd : EngCmd) (src dst : Tlr) : Xfer :=
  let arg := hdrArg cmd.hdr
  let mode := field arg 17 15
  let x := (Xfer.loop (fun i x =>
    let w := dst.coord i
    let u := (List.range src.rank).map fun k =>
      ((List.range dst.rank).filter fun d => dord arg d == k).foldl (fun _ d => nth w d) 0
    let (v, bad, x) := x.getSoft c src (src.tensor u)
    let x := match bad with
      | some a => { x with bad := insertNew (a / 32 - src.base / 32) x.bad }
      | none => x
    x.putAt c dst w (match bad with
      | some _ => 0
      | none => (dst.elem.convert mode 0 (src.elem.decode v)).1)) dst.count 0 x).flush c
  x.listAll c cmd

/-- The address of byte k of a blob, as far as it has one. -/
def Tlr.blobAddr (t : Tlr) (k : Nat) : Nat :=
  match t.place [k] with
  | some co => t.base + (t.locate co).1
  | none => t.base

/-- Bytes of a blob from byte k on: their values, and whether one arrived bad. -/
def Xfer.blob (x : Xfer) (c : Nat) (t : Tlr) (k : Nat) : Nat → List Byte → Bool →
    List Byte × Bool × Xfer
  | 0, l, b => (l.reverse, b, x)
  | n + 1, l, b =>
    let (v, bad, x) := x.getSoft c t (t.tensor [k])
    x.blob c t (k + 1) n (BitVec.ofNat 8 v :: l) (b || bad.isSome)

/-- The bytes of a chunk with a payload of n bytes, its padding included. -/
def chunkBytes (plen : Nat) : Nat := (0x90 + plen + 15) / 16 * 16

/-- The places of the chunks of a blob from byte `pos` on; a blob that leaves its window is a
fault. A header that arrives bad fails its chunk, and the zeros that it reads as place the next one
(log 89). -/
def Xfer.layout (x : Xfer) (c : Nat) (t : Tlr) (pos : Nat) : Nat → List (Nat × Nat) →
    List (Nat × Nat) × Xfer
  | 0, l => (l.reverse, x)
  | n + 1, l =>
    if t.count < pos + 0x90 then (l.reverse, x.halt (.fault 0x86 (t.blobAddr pos)) [])
    else
      let (h, _, x) := x.blob c t pos 4 [] false
      let plen := ofBytes h
      match x.stop with
      | some _ => (l.reverse, x)
      | none =>
        if t.count < pos + chunkBytes plen then
          (l.reverse, x.halt (.fault 0x86 (t.blobAddr pos)) [])
        else x.layout c t (pos + chunkBytes plen) n ((pos, plen) :: l)

/-- One step of rANS decoding on a state with the words left: symbol, state, words left. -/
def ransStep (prec : Nat) (table : List Word) (x0 : Nat) (words : List Nat) :
    Option (Nat × Nat × List Nat) :=
  let slot := x0 % 2 ^ prec
  match findSymbol slot 0 table with
  | none => none
  | some (sym, freq, cum) =>
    let x := (freq * (x0 / 2 ^ prec) + slot - cum) % 2 ^ 32
    if x < 0x10000 then
      match words with
      | [] => none
      | w :: r => some (sym, x * 2 ^ 16 + w, r)
    else some (sym, x, words)

/-- The symbols of a chunk: n more from step i on; none when a step fails or words remain. -/
def ransDecode (prec : Nat) (table : List Word) : Nat → Nat → List Nat → List Nat → List Nat →
    Option (List Nat)
  | 0, _, _, words, out => if words = [] then some out.reverse else none
  | n + 1, i, states, words, out =>
    match ransStep prec table (nth states (i % 32)) words with
    | none => none
    | some (sym, x, words) =>
      ransDecode prec table n (i + 1) (states.set (i % 32) x) words (sym :: out)

/-- n little-endian numbers of w bytes. -/
def numbers (w n : Nat) (bs : List Byte) : List Nat :=
  (List.range n).map fun i => ofBytes ((bs.drop (w * i)).take w)

/-- The symbols of a chunk from its bytes, header included; none when it fails its check. -/
def ransChunk (prec : Nat) (table : List Word) (syms plen : Nat) (bs : List Byte) :
    Option (List Nat) :=
  let d0 := wordOf (bs.take 8)
  let body := (bs.drop 0x10).take (0x80 + plen)
  if field d0 63 48 ≠ 0 ∨ wordOf ((bs.drop 8).take 8) ≠ 0 ∨ crc16 body ≠ field d0 47 32 then none
  else ransDecode prec table syms 0 (numbers 4 32 body) (numbers 2 (plen / 2) (body.drop 0x80)) []

/-- `xform.rans` after its checks: the chunks expanded in order. -/
def Xfer.expand (x : Xfer) (c : Nat) (src dst : Tlr) (prec : Nat) (table : List Word)
    (syms : Nat) : Nat → List (Nat × Nat) → Xfer
  | _, [] => x
  | k, (pos, plen) :: rest =>
    match x.stop with
    | some _ => x
    | none =>
      let (bs, bad, x) := x.blob c src pos (0x90 + plen) [] false
      let out := if bad then none else ransChunk prec table syms plen bs
      let x := match out with
        | some _ => x
        | none => { x with bad := x.bad ++ [k] }
      let l := out.getD (List.replicate syms 0)
      let x := Xfer.loop (fun i x => x.putAt c dst (dst.coord (k * syms + i)) (nth l i)) syms 0 x
      x.expand c src dst prec table syms (k + 1) rest

/-- A blob whose own header arrives bad: every destination element receives the zero code, and chunk 0 is
recorded (log 89). -/
def Xfer.blank (x : Xfer) (c : Nat) (cmd : EngCmd) (dst : Tlr) : Xfer :=
  ((Xfer.loop (fun i x => x.putAt c dst (dst.coord i) 0) dst.count 0 { x with bad := [0] }).flush c).listAll
    c cmd

/-- `xform.rans`. -/
def Xfer.rans (x : Xfer) (c : Nat) (cmd : EngCmd) (src dst : Tlr) : Xfer :=
  let tab := field (hdrArg cmd.hdr) 18 0
  let bad (a : Nat) (x : Xfer) : Xfer := x.halt (.fault 0x86 a) []
  if src.count < 16 then bad (src.blobAddr 0) x
  else
    let (hd, lost, x) := x.blob c src 0 16 [] false
    let d0 := wordOf (hd.take 8)
    let d1 := wordOf (hd.drop 8)
    let chunks := field d0 31 0
    let syms := 32 * field d0 47 32
    let h := wordOf (readBytes x.run.s.mem (localKey c .wm (tab % 2 ^ 17)) 8)
    let n := field h 13 5 + 1
    let prec := field h 4 0
    if x.stop.isSome then x
    else if lost then x.blank c cmd dst
    else if field d0 63 48 ≠ 0 then bad (src.blobAddr 0) x
    else if d1 ≠ 0 then bad (src.blobAddr 8) x
    else if chunks * syms ≠ dst.count then bad (src.blobAddr 0) x
    else
      let (places, x) := x.layout c src 16 chunks []
      if x.stop.isSome then x
      else if prec = 0 ∨ 16 < prec ∨ 2 ^ dst.elem.bits < n then bad tab x
      else if 2 ^ 17 < tab % 2 ^ 17 + 8 + 4 * n then
        x.halt (.fault 0x41 (tab / 2 ^ 17 * 2 ^ 17 + 2 ^ 17)) []
      else
        let bs := readBytes x.run.s.mem (localKey c .wm (tab % 2 ^ 17 + 8)) (4 * n)
        let table := if field h 63 14 ≠ 0 then []
          else (numbers 4 n bs).map fun v => BitVec.ofNat 64 v
        ((x.expand c src dst prec table syms 0 places).flush c).listAll c cmd

/-! ### Execution and completion -/

/-- A record of a command with the core's NF registers as they stand (10 R291). -/
def EngCmd.record (s : State) (c : Nat) (d : List Word) : Option Tlr :=
  match recordElem (s.core c).nf (tf d 1 7 0) with
  | some (.ok e) => some (tlrOf d e)
  | _ => none

/-- The execution of a command of engines e0 to e2. A format that has become invalid since the command
was accepted ends it with 0x86 at the record (log 76). -/
def Run.execute (r : Run) (c eng : Nat) (cmd : EngCmd) : Xfer :=
  let x := Xfer.start r
  let dst := EngCmd.record r.s c cmd.dst
  let src := if cmd.src = [] then dst else EngCmd.record r.s c cmd.src
  match src, dst with
  | some src, some dst =>
    match eng with
    | 0 => if hdrOpc cmd.hdr = 0 then x.copy c cmd src dst else x.fill c dst
    | 1 => x.rows c cmd src dst
    | _ => if hdrOpc cmd.hdr = 0 then x.form c cmd src dst else x.rans c cmd src dst
  | none, _ => x.halt (.fault 0x86 (hdrSrc cmd.hdr).toNat) []
  | _, none => x.halt (.fault 0x86 (hdrDst cmd.hdr).toNat) []

/-- The second auxiliary value of an engine's deferred fault: of poison, a failed check or an
uncorrectable error it is 0 (12 R327, 22 R410). -/
def engineAux (s : State) (c eng : Nat) (cause : BitVec 8) (addr : Nat) : BitVec 32 :=
  if cause = 0x48 then
    match translate s (s.ctxOf c) addr .read with
    | .fault _ a => a
    | _ => 0
  else if cause = 0xC1 then
    match translate s (s.ctxOf c) addr .read with
    | .at t pa _ => BitVec.ofNat 32 (tagOf (lineMetaOf s (physKey t pa)))
    | _ => 0
  else if (0x44 ≤ cause.toNat ∧ cause.toNat ≤ 0x47) ∨ cause = 0xC0 then 0
  else BitVec.ofNat 32 eng

/-- The count of a completion into a command's barrier object (08 R240). -/
def countInto (s : State) (c : Nat) (h : Vec) (bad : Bool) : List Eff :=
  if hdrBaren h then
    let off := (hdrBar h).toNat % 2 ^ 17
    let d := wordOf (readBytes s.mem (localKey c .wm off) 8)
    let v := (field d 62 0 + 1) % 2 ^ 63 + natOf (bitAt d 63 || bad) * 2 ^ 63
    wmStore c off (toBytes 8 v)
  else []

/-- The result element of a command (08 R238). -/
def resultElem (s : State) (done bads : Nat) (cause : BitVec 8) : Vec :=
  BitVec.ofNat 128 (s.time.toNat * 2 ^ 64 + done % 2 ^ 32 * 2 ^ 16 + min bads 255 * 2 ^ 8
    + cause.toNat)

/-- What a command's completion leaves beside its writes: its barrier object, its result element,
its fault (08 R238-R240, 12 R324). The fault of a thread that `wspx` has displaced, which cannot take it,
gives a machine-check record that names its bundle (log 87). -/
def Run.reportDone (r : Run) (c sl eng : Nat) (cmd : EngCmd) (done bads : Nat)
    (fault : Option (BitVec 8 × Nat)) : Run :=
  let cause := (fault.map Prod.fst).getD 0
  let r := r.emits (countInto r.s c cmd.hdr fault.isSome)
  let r := if bitAt cmd.hdr 7 then
      let v := resultElem r.s done bads cause
      r.modSlot c sl fun x =>
        let p := x.port eng
        x.setPort eng { p with results := p.results ++ [v] }
    else r
  match fault with
  | none => r
  | some (cause, a) =>
    if (r.s.slot c sl).holds cmd.tid then
      r.addFault c sl cmd.tid
        { pc := cmd.pc, pair := cmd.pair, cause := cause, aux := BitVec.ofNat 64 a,
          aux2 := engineAux r.s c eng cause a }
    else
      let over_ := threadEnded r.s c sl cmd.tid
      r.check c sl cause (BitVec.ofNat 64 a) eng (if over_ then 0 else cmd.pc) (! over_ && cmd.pair)

/-- An engine that runs nothing. -/
def Run.engineFree (r : Run) (c eng : Nat) : Run :=
  r.modCore c fun y => y.setEngine eng { y.engine eng with run := none, tries := 0 }

/-- What an attempt at a command or a collective comes to: finished, or waiting for a page, to be
written or read, or for a link or a peer. -/
inductive Attempt where
  | finished (r : Run)
  | page (addr : Nat) (write : Bool)
  | wait

/-- A stop of a page that the host has rejected is the fault 0x44 (16 R364). -/
def Stop.settle (s : Stop) (rejected : Option Nat) : Stop :=
  match s with
  | .page a w => if rejected = some (a / 4096) then .fault 0x44 a else .page a w
  | s => s

/-- What has stopped a command, a rejected page taken into account. -/
def Xfer.verdict (x : Xfer) (rejected : Option Nat) : Option Stop :=
  match x.stop with
  | none => none
  | some s => some (s.settle rejected)

/-- The command that engine eng of core c runs, executed to its end (08 R238, R239). -/
def Run.runCommand (r : Run) (c eng sl : Nat) (cmd : EngCmd) (rejected : Option Nat) : Attempt :=
  let x := r.execute c eng cmd
  match x.verdict rejected with
  | none => .finished ((x.run.reportDone c sl eng cmd x.done x.bad.length none).engineFree c eng)
  | some (.fault cause a) =>
    .finished ((x.run.reportDone c sl eng cmd x.done x.bad.length (some (cause, a))).engineFree c
      eng)
  | some (.page a w) => .page a w
  | some .wait => .wait

/-! ### e3 (08 R251, R252) -/

/-- The record that fixes or is compared with an instance: format and window extents. -/
def Tlr.shape (t : Tlr) : Nat × List Nat := (t.fmt, t.wins.map fun w => max w 1)

/-- What a command brings to its instance: the shape of its destination, and ROP; none when its
source differs from its destination. -/
def EngCmd.shape (s : State) (c : Nat) (cmd : EngCmd) : Option ((Nat × List Nat) × Nat) :=
  match EngCmd.record s c cmd.dst with
  | none => none
  | some dst =>
    let same := cmd.src = [] ∨ (EngCmd.record s c cmd.src).map Tlr.shape = some dst.shape
    if same then some (dst.shape, field (hdrArg cmd.hdr) 31 29) else none

/-- The instance that a command of core c names. -/
def instanceOf (s : State) (c : Nat) (cmd : EngCmd) : Collective :=
  { pid := s.pidOf c, scope := cmd.scope, cnum := (hdrArg cmd.hdr).extractLsb' 27 2,
    opc := BitVec.ofNat 3 (hdrOpc cmd.hdr), parts := [], tries := 0 }

/-- Whether two instances have one name. -/
def Collective.same (a b : Collective) : Bool :=
  a.pid == b.pid && a.scope == b.scope && a.cnum == b.cnum && a.opc == b.opc

/-- Whether a core has contributed to the open instance of a command already. -/
def contributed (s : State) (c : Nat) (cmd : EngCmd) : Bool :=
  s.colls.any fun k => k.same (instanceOf s c cmd) && k.parts.any fun p => p.core == c

/-- A command of e3 that joins its instance, or differs from it and faults. -/
def Run.joinCollective (r : Run) (c sl : Nat) (cmd : EngCmd) : Run :=
  let k := instanceOf r.s c cmd
  let open_ := r.s.colls.find? fun x => x.same k
  let mine := EngCmd.shape r.s c cmd
  let first := (open_.bind fun x => x.parts.head?).map fun p => EngCmd.shape r.s p.core p.cmd
  let me : Contribution := { core := c, slot := sl, cmd := cmd }
  if mine.isNone ∨ (first.isSome ∧ first ≠ some mine) then
    (r.reportDone c sl 3 cmd 0 0 (some (0x86, (hdrDst cmd.hdr).toNat))).engineFree c 3
  else
    let r := r.emit (.colls (match open_ with
      | some _ => r.s.colls.map fun x => if x.same k then { x with parts := x.parts ++ [me] } else x
      | none => r.s.colls ++ [{ k with parts := [me] }]))
    r.engineFree c 3

/-- Participants in ascending (die, y, x). -/
def sortParts (l : List Contribution) : List Contribution :=
  l.foldl (fun acc p => acc.filter (fun q => q.core < p.core) ++ [p]
    ++ acc.filter (fun q => p.core < q.core)) []

/-- The combination of two elements of a collective (08 R252, 03 R88). -/
def combineElem (rop : Nat) (e : Elem) (x y : Nat) : Nat :=
  if rop = 0 then e.add x y
  else match e.kind with
    | .float f => (chooseFloat f (rop == 2) false x y).1
    | .int isSigned =>
      let v (z : Nat) : Int := if isSigned then signedN z e.bits else ((z : Nat) : Int)
      if rop = 1 then (if v y < v x then y else x) else (if v x < v y then y else x)

/-- The elements of a participant's source window, in order. -/
def Xfer.readAll (x : Xfer) (c : Nat) (t : Tlr) : Nat → Nat → List Nat → List Nat × Xfer
  | 0, _, l => (l.reverse, x)
  | n + 1, i, l =>
    match x.stop with
    | some _ => (l.reverse, x)
    | none =>
      let (v, x) := x.get c t (t.tensor (t.coord i))
      x.readAll c t n (i + 1) (v :: l)

/-- The source windows of participants. -/
def Xfer.readParts (x : Xfer) : List (Contribution × Tlr) → List (List Nat) → List (List Nat) × Xfer
  | [], l => (l.reverse, x)
  | (p, t) :: r, l =>
    let (v, x) := x.readAll p.core t t.count 0 []
    x.readParts r (v :: l)

/-- A result written to a participant's destination window: the elements written, and the
transfer. -/
def Xfer.writePart (x : Xfer) (c : Nat) (t : Tlr) (v : List Nat) : Nat × Xfer :=
  let x := (Xfer.loop (fun i x => x.putAt c t (t.coord i) (nth v i)) t.count 0
    { x with done := 0 }).flush c
  (x.done, x)

/-- The destinations of participants written in order, with the count of elements for each. -/
def Xfer.writeParts (x : Xfer) (v : List Nat) : List (Contribution × Tlr) → List Nat →
    List Nat × Xfer
  | [], l => (l.reverse, x)
  | (p, t) :: r, l =>
    if x.stop.isSome then x.writeParts v r (0 :: l)
    else
      let (n, x) := x.writePart p.core t v
      x.writeParts v r (n :: l)

/-- Records of participants, as far as they can be read. -/
def partRecords (s : State) (l : List Contribution) (f : EngCmd → List Word) :
    List (Contribution × Tlr) :=
  l.filterMap fun p => (EngCmd.record s p.core (f p.cmd)).map fun t => (p, t)

/-- Every participant's command finished. -/
def Run.finishParts (r : Run) (fault : Option (BitVec 8 × Nat)) (own : Bool) :
    List (Contribution × Nat) → Run
  | [] => r
  | (p, n) :: rest =>
    let f := if own then fault.map fun x => (x.1, (hdrDst p.cmd.hdr).toNat) else fault
    (r.reportDone p.core p.slot 3 p.cmd n 0 f).finishParts fault own rest

/-- The value that a collective gives every participant. -/
def collectiveValue (rop : Nat) (e : Elem) (l : List (List Nat)) : List Nat :=
  (List.range (l.headD []).length).map fun i =>
    (combineAll (fun _ x y => (combineElem rop e x y, ())) l.length () (l.map fun v => nth v i)).1

/-- Whether a contribution is a root of a broadcast. -/
def isRoot (p : Contribution) : Bool := hdrSrc p.cmd.hdr != 0

/-- A collective to which every core of the scope has contributed, performed (08 R252). -/
def Run.collective (r : Run) (k : Collective) (rejected : Option Nat) : Attempt :=
  let parts := sortParts k.parts
  let r0 := r.emit (.colls (r.s.colls.filter fun x => ! x.same k))
  let roots := parts.filter isRoot
  let bcast := k.opc = 1
  if bcast ∧ roots.length ≠ 1 then
    .finished (r0.finishParts (some (0x86, 0)) true (parts.map fun p => (p, 0)))
  else
    let srcs := partRecords r.s (if bcast then roots else parts) EngCmd.src
    let dsts := partRecords r.s parts EngCmd.dst
    let (vals, x) := (Xfer.start r0).readParts srcs []
    let rop := ((parts.head?).map fun p => field (hdrArg p.cmd.hdr) 31 29).getD 0
    let elem := ((srcs.head?).map fun p => p.2.elem).getD (intElem false 32)
    let v := if bcast then vals.headD [] else collectiveValue rop elem vals
    let (counts, x) := x.writeParts v dsts []
    let l := (dsts.map Prod.fst).zip counts
    match x.verdict rejected with
    | none => .finished (x.run.finishParts none false l)
    | some (.fault cause a) => .finished (x.run.finishParts (some (cause, a)) false l)
    | some (.page a w) => .page a w
    | some .wait => .wait

/-- Whether every core of an instance's scope has contributed. The pod level is the own package alone
while the package belongs to no pod (06 R182, 25 R446); the cores of other packages contribute
over Kenlink, which the model does not deliver (log 41). -/
def Collective.full (s : State) (k : Collective) : Bool :=
  k.whole || match k.parts with
  | [] => false
  | p :: _ =>
    let has (c : Nat) : Bool := scopeHas (s.ctxOf p.core) k.scope c
    (match k.scope with
      | .level l _ => l != 5 || ! s.link.trained
      | _ => true)
    && (List.range 4096).all fun c => ! has c || k.parts.any fun q => q.core == c

/-- Whether a collective is performed now: every core has contributed, and none of them is saved, whose
memory it would reach (16 R367). -/
def Collective.ready (s : State) (k : Collective) : Bool :=
  k.full s && ! k.parts.any Contribution.saved

/-! ### Events -/

/-- Whether the oldest command of a slot at an engine may start: the stores before it are visible
to the engine, the reads before it are made, so that none of its writes, which count as the
thread's, comes before them (11 R303, R312), its result has room, and on e3 the slot and the core have no earlier part in a
collective that it would wait for (08 R231, R237, R238). -/
def startable (s : State) (c eng sl : Nat) : Bool :=
  let x := s.slot c sl
  let p := x.port eng
  match p.cmds with
  | [] => false
  | cmd :: _ =>
    ! x.storeBefore cmd.tid cmd.seq && ! x.unreadBefore cmd.tid cmd.seq
      && decide (p.results.length < 16)
      && (eng != 3 || (! contributed s c cmd
        && ! s.colls.any fun k => k.parts.any fun q => q.core == c && q.slot == sl))

/-- The next slot that an engine serves, round robin. -/
def nextServed (s : State) (c eng : Nat) : Option Nat :=
  let last := ((s.core c).engine eng).last
  ((List.range 16).map fun i => (last + 1 + i) % 16).find? (startable s c eng)

/-- The step `ENGINE_COMMAND_START` of engine e`sel.num` of core `sel.core` (08 R233). -/
def engineCommandStartRun (s : State) : Option (List Eff) :=
  let c := s.sel.core
  let eng := s.sel.num
  if 4 ≤ eng ∨ ((s.core c).engine eng).run.isSome then none
  else match nextServed s c eng with
    | none => none
    | some sl =>
      match ((s.slot c sl).port eng).cmds with
      | [] => none
      | cmd :: rest =>
        let r := (Run.start s).modSlot c sl fun x => x.setPort eng { x.port eng with cmds := rest }
        some (r.modCore c fun y => y.setEngine eng
          { run := some (sl, cmd), last := sl, tries := 0 }).done

/-- The step `ENGINE_COMMAND_COMPLETE` of engine e`sel.num` of core `sel.core`: the command is
executed to its end (08 R238); a collective's command joins its instance. -/
def engineCommandCompleteRun (s : State) : Option (List Eff) :=
  let c := s.sel.core
  let eng := s.sel.num
  let r := Run.start s
  match ((s.core c).engine eng).run with
  | none => none
  | some (sl, cmd) =>
    if eng = 3 then some (r.joinCollective c sl cmd).done
    else match r.runCommand c eng sl cmd none with
      | .finished r => some r.done
      | .page a w => some [.pages (raisePage s (s.pidOf c) a w cmd.launch.toList)]
      | .wait => none

/-- The step `COLLECTIVE_COMPLETE` of the collective at place `sel.num` (08 R252). -/
def collectiveCompleteRun (s : State) : Option (List Eff) :=
  match s.colls[s.sel.num]? with
  | none => none
  | some k =>
    if ! k.ready s then none
    else match (Run.start s).collective k none with
      | .finished r => some r.done
      | .page a w => some [.pages (raisePage s k.pid a w (k.parts.filterMap fun p => p.cmd.launch))]
      | .wait => none

/-! ### The steps -/

/-- The step `ENGINE_COMMAND_START`. -/
def execEngineCommandStart (s : State) : Host.Outcome State Fault Refusal :=
  finish s (engineCommandStartRun s)

/-- The step `ENGINE_COMMAND_COMPLETE`. -/
def execEngineCommandComplete (s : State) : Host.Outcome State Fault Refusal :=
  finish s (engineCommandCompleteRun s)

/-- The step `COLLECTIVE_COMPLETE`. -/
def execCollectiveComplete (s : State) : Host.Outcome State Fault Refusal :=
  finish s (collectiveCompleteRun s)

end Sys2Proof.Machine
end

