-- ==== Sys2Proof/Machine/Hash.lean ====
section
/-!
DEFINITION. SHA-512 (FIPS 180-4), HMAC (FIPS 198-1), HMAC-DRBG (SP 800-90A), the generation of RSA keys
(FIPS 186-5), RSASSA-PKCS1-v1_5 signatures (RFC 8017) and the DER of an X.509 certificate, which the spec
names for measurements, identities and images (24 R426, R427, R433, R434).
-/

namespace Sys2Proof.Machine

/-! ### SHA-512 -/

/-- Round constants 0 to 19 of SHA-512. -/
def shaK0 : List Word :=
  [0x428A2F98D728AE22, 0x7137449123EF65CD, 0xB5C0FBCFEC4D3B2F, 0xE9B5DBA58189DBBC,
   0x3956C25BF348B538, 0x59F111F1B605D019, 0x923F82A4AF194F9B, 0xAB1C5ED5DA6D8118,
   0xD807AA98A3030242, 0x12835B0145706FBE, 0x243185BE4EE4B28C, 0x550C7DC3D5FFB4E2,
   0x72BE5D74F27B896F, 0x80DEB1FE3B1696B1, 0x9BDC06A725C71235, 0xC19BF174CF692694,
   0xE49B69C19EF14AD2, 0xEFBE4786384F25E3, 0x0FC19DC68B8CD5B5, 0x240CA1CC77AC9C65]

/-- Round constants 20 to 39 of SHA-512. -/
def shaK1 : List Word :=
  [0x2DE92C6F592B0275, 0x4A7484AA6EA6E483, 0x5CB0A9DCBD41FBD4, 0x76F988DA831153B5,
   0x983E5152EE66DFAB, 0xA831C66D2DB43210, 0xB00327C898FB213F, 0xBF597FC7BEEF0EE4,
   0xC6E00BF33DA88FC2, 0xD5A79147930AA725, 0x06CA6351E003826F, 0x142929670A0E6E70,
   0x27B70A8546D22FFC, 0x2E1B21385C26C926, 0x4D2C6DFC5AC42AED, 0x53380D139D95B3DF,
   0x650A73548BAF63DE, 0x766A0ABB3C77B2A8, 0x81C2C92E47EDAEE6, 0x92722C851482353B]

/-- Round constants 40 to 59 of SHA-512. -/
def shaK2 : List Word :=
  [0xA2BFE8A14CF10364, 0xA81A664BBC423001, 0xC24B8B70D0F89791, 0xC76C51A30654BE30,
   0xD192E819D6EF5218, 0xD69906245565A910, 0xF40E35855771202A, 0x106AA07032BBD1B8,
   0x19A4C116B8D2D0C8, 0x1E376C085141AB53, 0x2748774CDF8EEB99, 0x34B0BCB5E19B48A8,
   0x391C0CB3C5C95A63, 0x4ED8AA4AE3418ACB, 0x5B9CCA4F7763E373, 0x682E6FF3D6B2B8A3,
   0x748F82EE5DEFB2FC, 0x78A5636F43172F60, 0x84C87814A1F0AB72, 0x8CC702081A6439EC]

/-- Round constants 60 to 79 of SHA-512. -/
def shaK3 : List Word :=
  [0x90BEFFFA23631E28, 0xA4506CEBDE82BDE9, 0xBEF9A3F7B2C67915, 0xC67178F2E372532B,
   0xCA273ECEEA26619C, 0xD186B8C721C0C207, 0xEADA7DD6CDE0EB1E, 0xF57D4F7FEE6ED178,
   0x06F067AA72176FBA, 0x0A637DC5A2C898A6, 0x113F9804BEF90DAE, 0x1B710B35131C471B,
   0x28DB77F523047D84, 0x32CAAB7B40C72493, 0x3C9EBE0A15C9BEBC, 0x431D67C49C100D4C,
   0x4CC5D4BECB3E42B6, 0x597F299CFC657E2A, 0x5FCB6FAB3AD6FAEC, 0x6C44198C4A475817]

/-- The round constants of SHA-512. -/
def shaK : List Word := shaK0 ++ shaK1 ++ shaK2 ++ shaK3

/-- The initial hash value of SHA-512. -/
def shaH0 : List Word :=
  [0x6A09E667F3BCC908, 0xBB67AE8584CAA73B, 0x3C6EF372FE94F82B, 0xA54FF53A5F1D36F1,
   0x510E527FADE682D1, 0x9B05688C2B3E6C1F, 0x1F83D9ABFB41BD6B, 0x5BE0CD19137E2179]

/-- The eight working variables of the compression. -/
structure ShaVars where
  a : Word
  b : Word
  c : Word
  d : Word
  e : Word
  f : Word
  g : Word
  h : Word
deriving DecidableEq, Repr

/-- The working variables that a hash value gives. -/
def shaVars (h : List Word) : ShaVars :=
  { a := dw h 0, b := dw h 1, c := dw h 2, d := dw h 3, e := dw h 4, f := dw h 5, g := dw h 6,
    h := dw h 7 }

/-- One round with constant k and message word w. -/
def shaRound (v : ShaVars) (k w : Word) : ShaVars :=
  let s1 := v.e.rotateRight 14 ^^^ v.e.rotateRight 18 ^^^ v.e.rotateRight 41
  let ch := (v.e &&& v.f) ^^^ (~~~ v.e &&& v.g)
  let t1 := v.h + s1 + ch + k + w
  let s0 := v.a.rotateRight 28 ^^^ v.a.rotateRight 34 ^^^ v.a.rotateRight 39
  let maj := (v.a &&& v.b) ^^^ (v.a &&& v.c) ^^^ (v.b &&& v.c)
  { a := t1 + (s0 + maj), b := v.a, c := v.b, d := v.c, e := v.d + t1, f := v.e, g := v.f,
    h := v.g }

/-- The next word of the message schedule, from its last sixteen words. -/
def shaNext (w : List Word) : Word :=
  let x := dw w 14
  let y := dw w 1
  (x.rotateRight 19 ^^^ x.rotateRight 61 ^^^ (x >>> 6)) + dw w 9
    + (y.rotateRight 1 ^^^ y.rotateRight 8 ^^^ (y >>> 7)) + dw w 0

/-- The rounds of a block, one for each constant. -/
def shaRounds (v : ShaVars) (w : List Word) : List Word → ShaVars
  | [] => v
  | k :: ks => shaRounds (shaRound v k (dw w 0)) (w.drop 1 ++ [shaNext w]) ks

/-- The hash value after a block of sixteen words. -/
def shaBlock (h w : List Word) : List Word :=
  let v := shaRounds (shaVars h) w shaK
  [dw h 0 + v.a, dw h 1 + v.b, dw h 2 + v.c, dw h 3 + v.d, dw h 4 + v.e, dw h 5 + v.f,
   dw h 6 + v.g, dw h 7 + v.h]

/-- A number from big-endian bytes. -/
def ofBytesBE (bs : List Byte) : Nat := bs.foldl (fun n b => n * 256 + b.toNat) 0

/-- A number as n big-endian bytes. -/
def toBytesBE (n v : Nat) : List Byte := (toBytes n v).reverse

/-- The blocks of a padded message hashed; n bounds their number. -/
def shaBlocks (h : List Word) (bs : List Byte) : Nat → List Word
  | 0 => h
  | n + 1 =>
    if bs = [] then h
    else
      let w := (List.range 16).map fun i => BitVec.ofNat 64 (ofBytesBE ((bs.drop (8 * i)).take 8))
      shaBlocks (shaBlock h w) (bs.drop 128) n

/-- A message with the padding of SHA-512. -/
def shaPad (bs : List Byte) : List Byte :=
  bs ++ [0x80] ++ List.replicate ((239 - bs.length % 128) % 128) 0 ++ toBytesBE 16 (8 * bs.length)

/-- The SHA-512 of bytes. -/
def sha512 (bs : List Byte) : List Byte :=
  (shaBlocks shaH0 (shaPad bs) (bs.length / 128 + 2)).flatMap fun w => toBytesBE 8 w.toNat

/-! ### HMAC -/

/-- A key of at most 128 bytes padded and combined with a byte. -/
def hmacPad (key : List Byte) (p : Byte) : List Byte :=
  ((key ++ List.replicate (128 - key.length) 0).take 128).map (· ^^^ p)

/-- HMAC-SHA-512 under a key of at most 128 bytes. -/
def hmac512 (key msg : List Byte) : List Byte :=
  sha512 (hmacPad key 0x5C ++ sha512 (hmacPad key 0x36 ++ msg))

/-! ### Keys (24 R433; log 10) -/

/-- The state of an HMAC-DRBG over SHA-512 (SP 800-90A). -/
structure Drbg where
  k : List Byte
  v : List Byte
deriving DecidableEq, Repr

/-- One half of an update: K from V, a byte and data, then V. -/
def Drbg.mix (d : Drbg) (b : Byte) (data : List Byte) : Drbg :=
  let k := hmac512 d.k (d.v ++ [b] ++ data)
  { k := k, v := hmac512 k d.v }

/-- The update function. -/
def Drbg.update (d : Drbg) (data : List Byte) : Drbg :=
  let d := d.mix 0 data
  if data = [] then d else d.mix 1 data

/-- A generator instantiated with entropy and a nonce, without personalisation. -/
def Drbg.start (entropy nonce : List Byte) : Drbg :=
  ({ k := List.replicate 64 0, v := List.replicate 64 1 } : Drbg).update (entropy ++ nonce)

/-- n blocks of 64 bytes drawn. -/
def Drbg.blocks (d : Drbg) : Nat → Drbg × List Byte
  | 0 => (d, [])
  | n + 1 =>
    let v := hmac512 d.k d.v
    let (d, bs) := ({ d with v := v } : Drbg).blocks n
    (d, v ++ bs)

/-- A string of 2,048 bits requested of the generator. -/
def Drbg.draw (d : Drbg) : Drbg × Nat :=
  let (d, bs) := d.blocks 4
  (d.update [], ofBytesBE bs)

/-- A prime of 2,048 bits by FIPS 186-5 A.1.3, far enough from another; at most `left` candidates of the
right size are tried, and n bounds the strings drawn. -/
def findPrime (d : Drbg) (other : Option Nat) : Nat → Nat → Option (Nat × Drbg)
  | 0, _ => none
  | n + 1, left =>
    let (d, x) := d.draw
    let p := if x % 2 = 0 then x + 1 else x
    let near := match other with
      | some q => decide (max p q - min p q ≤ 2 ^ (2048 - 100))
      | none => false
    if p * p < 2 ^ 4095 || near then findPrime d other n left
    else if (p - 1) % 65537 ≠ 0 ∧ Config.probablyPrime p then some (p, d)
    else if left ≤ 1 then none
    else findPrime d other n (left - 1)

/-- Key pair L, generated from CDI[L]; zeros if the generation fails. -/
def rsaKey (cdi : List Byte) (l : Nat) : RsaKey :=
  match findPrime (Drbg.start cdi [BitVec.ofNat 8 l]) none 65536 (5 * 4096) with
  | none => { p := 0, q := 0 }
  | some (p, d) => match findPrime d (some p) 131072 (10 * 4096) with
    | none => { p := 0, q := 0 }
    | some (q, _) => { p := p, q := q }

/-- The public modulus of a key pair. -/
def RsaKey.modulus (k : RsaKey) : List Byte := toBytesBE 512 (k.p * k.q)

/-! ### RSASSA-PKCS1-v1_5 -/

/-- x to the power 2^k modulo m. -/
def squarings (x m : Nat) : Nat → Nat
  | 0 => x % m
  | k + 1 => squarings (x * x % m) m k

/-- x to the power e modulo m, for e of at most n bits. -/
def powMod (x e m n : Nat) : Nat :=
  (List.range n).reverse.foldl (fun a i =>
    let a := a * a % m
    if e.testBit i then a * x % m else a) (1 % m)

/-- The private exponent of a key pair: the inverse of 65,537, a prime, modulo lcm(p - 1, q - 1). -/
def RsaKey.exponent (k : RsaKey) : Nat :=
  let m := Nat.lcm (k.p - 1) (k.q - 1)
  (1 + m * (65537 - powMod (m % 65537) 65535 65537 16)) / 65537

/-- The encoded message of 512 bytes for a SHA-512 digest. -/
def pkcs1 (digest : List Byte) : List Byte :=
  let info : List Byte := [0x30, 0x51, 0x30, 0x0D, 0x06, 0x09, 0x60, 0x86, 0x48, 0x01, 0x65, 0x03,
    0x04, 0x02, 0x03, 0x05, 0x00, 0x04, 0x40]
  [0x00, 0x01] ++ List.replicate 426 0xFF ++ [0x00] ++ info ++ digest

/-- The signature of a message by a key pair. -/
def RsaKey.sign (k : RsaKey) (msg : List Byte) : List Byte :=
  toBytesBE 512 (powMod (ofBytesBE (pkcs1 (sha512 msg))) k.exponent (k.p * k.q) 4096)

/-- Whether a 512-byte signature verifies under a 512-byte modulus with exponent 65,537. -/
def rsaVerifies (modulus sig digest : List Byte) : Bool :=
  let n := ofBytesBE modulus
  let s := ofBytesBE sig
  decide (s < n) && decide (squarings s n 16 * s % n = ofBytesBE (pkcs1 digest))

/-! ### Certificates (24 R433; log 10) -/

/-- A number as the big-endian bytes of a DER length or integer, with at least one byte. -/
def minBytes (n : Nat) : List Byte := toBytesBE (max 1 ((n.log2 + 8) / 8)) n

/-- A length in DER. -/
def derLength (n : Nat) : List Byte :=
  if n < 128 then [BitVec.ofNat 8 n]
  else BitVec.ofNat 8 (0x80 + (minBytes n).length) :: minBytes n

/-- A value in DER: tag, length, contents. -/
def der (tag : Byte) (bs : List Byte) : List Byte := tag :: derLength bs.length ++ bs

/-- The contents of a non-negative integer in DER. -/
def derNat (n : Nat) : List Byte :=
  let bs := minBytes n
  if 0x80 ≤ (bs.headD 0).toNat then 0 :: bs else bs

/-- sha512WithRSAEncryption as an AlgorithmIdentifier. -/
def algSignature : List Byte :=
  der 0x30 (der 0x06 [0x2A, 0x86, 0x48, 0x86, 0xF7, 0x0D, 0x01, 0x01, 0x0D] ++ [0x05, 0x00])

/-- A public key with exponent 65,537 as a SubjectPublicKeyInfo. -/
def derKey (modulus : List Byte) : List Byte :=
  der 0x30 (der 0x30 (der 0x06 [0x2A, 0x86, 0x48, 0x86, 0xF7, 0x0D, 0x01, 0x01, 0x01] ++ [0x05, 0x00])
    ++ der 0x03 (0 :: der 0x30 (der 0x02 (derNat (ofBytesBE modulus)) ++ der 0x02 (derNat 65537))))

/-- The DICE TcbInfo extension of a measurement, a version and a security version. -/
def tcbInfo (measure : List Byte) (major minor svn : Nat) : List Byte :=
  der 0x30 (der 0x06 [0x67, 0x81, 0x05, 0x05, 0x04, 0x01] ++ der 0x04 (der 0x30
    (der 0x82 (Config.tcbVersion major minor) ++ der 0x83 (derNat svn)
      ++ der 0xA6 (der 0x30 (der 0x06 [0x60, 0x86, 0x48, 0x01, 0x65, 0x03, 0x04, 0x02, 0x03]
        ++ der 0x04 measure)))))

/-- What certificate L signs: X.509 v3, for a key, issued by another, with a TcbInfo extension. -/
def certBody (l : Nat) (key issuer info : List Byte) : List Byte :=
  der 0x30 (der 0xA0 (der 0x02 [2]) ++ Config.certSerial l key issuer ++ algSignature
    ++ Config.certNames l key issuer ++ derKey key
    ++ der 0xA3 (der 0x30 (info ++ Config.certExtensions l key issuer)))

/-- Certificate L, signed by its issuer. -/
def certificate (l : Nat) (key issuer : RsaKey) (info : List Byte) : List Byte :=
  let body := certBody l key.modulus issuer.modulus info
  der 0x30 (body ++ algSignature ++ der 0x03 (0 :: issuer.sign body))

/-! ### Signed responses of SPDM 1.2 (24 R434; log 10) -/

/-- A text as bytes. -/
def asciiBytes (x : String) : List Byte := x.toList.map fun c => BitVec.ofNat 8 c.toNat

/-- What a responder signs of a transcript: the prefix of SPDM 1.2 with a context, and the hash. -/
def spdmSigned (context : String) (transcript : List Byte) : List Byte :=
  let prefix_ := asciiBytes "dmtf-spdm-v1.2.*"
  prefix_ ++ prefix_ ++ prefix_ ++ prefix_ ++ List.replicate (36 - context.length) 0 ++ asciiBytes context
    ++ sha512 transcript

end Sys2Proof.Machine
end

