-- ==== Sys2Proof/Machine/Lehr.lean ====
section
/-!
DEFINITION. The layer instructions as the Lehr performs them (08 R253-R266, 04 R119).
-/

namespace Sys2Proof.Machine

/-! ### Reading and writing for the Lehr -/

/-- The GL address that an operand or a field names: bits [56:0]. With a reserved bit above them set,
which no check looks at, it is a free address of the context (00 R9; log 18). -/
def glAddr (w : Word) : Nat :=
  if field w 63 57 = 0 then field w 56 0 else Config.oddAddress w % 2 ^ 57

/-- The heads of layer entries from id i on, n of them. -/
def Run.readEntries (r : Run) (x : Context) (sc : Scene) : Nat → Nat → Io (List (List Byte))
  | _, 0 => .ok [] r
  | i, n + 1 =>
    (r.readLayer x sc i).bind fun e r =>
      (r.readEntries x sc (i + 1) n).bind fun l r => .ok (e :: l) r

/-- Every entry of a scene's layer table. -/
def Run.readTable (r : Run) (x : Context) (sc : Scene) : Io (List (List Byte)) :=
  r.readEntries x sc 0 sc.lcount

/-- Entries written back where they have changed, from id i on. -/
def Run.writeTable (r : Run) (x : Context) (sc : Scene) : Nat → List (List Byte) →
    List (List Byte) → Io Unit
  | i, a :: old, b :: new =>
    if a = b then r.writeTable x sc (i + 1) old new
    else (r.writeLayer x sc i b).bind fun _ r => r.writeTable x sc (i + 1) old new
  | _, _, _ => .ok () r

/-- A surface descriptor (17 R376). -/
structure Surface where
  color  : Nat
  depth  : Nat
  w      : Nat
  h      : Nat
  cpitch : Nat
  dpitch : Nat
deriving DecidableEq, Repr

/-- A surface descriptor read. An address with a reserved bit set is free, and so are W and H beside one
(00 R9; log 18). -/
def Run.surface (r : Run) (x : Context) (a : Nat) : Io Surface :=
  (r.gl (some x) a 32).bind fun bs r =>
    let d := dwordsOf bs
    let size := oddWord (field (dw d 2) 63 32 != 0) (dw d 2)
    .ok { color := glAddr (dw d 0), depth := glAddr (dw d 1), w := field size 15 0,
          h := field size 31 16, cpitch := field (dw d 3) 31 0,
          dpitch := field (dw d 3) 63 32 } r

/-- The bytes of a row of a pixel mask (08 R257). -/
def maskPitch (w : Nat) : Nat := 8 * ceilDiv w 64

/-- The rows of a pixel mask, each a number whose bit x is pixel x. -/
def Run.maskRows (r : Run) (x : Context) (a w : Nat) : Nat → Nat → Io (List Nat)
  | _, 0 => .ok [] r
  | y, n + 1 =>
    (r.gl (some x) (a + y * maskPitch w) (maskPitch w)).bind fun bs r =>
      (r.maskRows x a w (y + 1) n).bind fun l r => .ok (ofBytes bs % 2 ^ w :: l) r

/-- The rows of the mask of a layer: every pixel when its MASK is 0 (08 R257). -/
def Run.layerRows (r : Run) (x : Context) (e : List Byte) (w h : Nat) : Io (List Nat) :=
  if layerMask e = 0 then .ok (List.replicate h (2 ^ w - 1)) r
  else r.maskRows x (layerMask e) w 0 h

/-- The rows of a pixel mask written, bits beyond W zero. -/
def Run.setMask (r : Run) (x : Context) (a w : Nat) : Nat → List Nat → Io Unit
  | _, [] => .ok () r
  | y, m :: l =>
    (r.glSet (some x) (a + y * maskPitch w) (toBytes (maskPitch w) (m % 2 ^ w)) false).bind
      fun _ r => r.setMask x a w (y + 1) l

/-! ### Layers -/

/-- A fault found at the performance of a layer instruction, or its result. -/
abbrev LayerRes := Except (BitVec 8 × Word × BitVec 32) Word

/-- The end of a layer instruction with a result. -/
def layerDone (v : Word) (r : Run) : Io LayerRes := .ok (.ok v) r

/-- A fault of a layer instruction. -/
def layerFault (cause : BitVec 8) (aux : Word) (aux2 : BitVec 32) (r : Run) : Io LayerRes :=
  .ok (.error (cause, aux, aux2)) r

/-- A layer instruction that goes on with the entry of an allocated id (08 R253). -/
def Run.withLayer (r : Run) (x : Context) (sc : Scene) (id : Word)
    (k : List Byte → Run → Io LayerRes) : Io LayerRes :=
  if sc.lcount ≤ id.toNat then layerFault 0x90 id 1 r
  else (r.readLayer x sc id.toNat).bind fun e r =>
    if layerState e = 0 then layerFault 0x90 id 1 r else k e r

/-- Whether an entry of a table is allocated. -/
def allocatedIn (t : List (List Byte)) (id : Nat) : Bool :=
  match t[id]? with
  | some e => layerState e != 0
  | none => false

/-- A layer instruction that goes on with the whole table, in which its id is allocated. -/
def Run.withTable (r : Run) (x : Context) (sc : Scene) (id : Word)
    (k : List (List Byte) → List Byte → Run → Io LayerRes) : Io LayerRes :=
  r.withLayer x sc id fun e r => (r.readTable x sc).bind fun t r => k t e r

/-- The written table of a layer instruction, with its result. -/
def Run.putTable (r : Run) (x : Context) (sc : Scene) (old new : List (List Byte)) (v : Word) :
    Io LayerRes :=
  (r.writeTable x sc 0 old new).bind fun _ r => layerDone v r

/-- Caster field f of an entry: whether it is valid, and its id. -/
def casterField (cast f : Nat) : Bool × Nat :=
  let v := cast / 2 ^ (13 * f) % 2 ^ 13
  (decide (2 ^ 12 ≤ v), v % 2 ^ 12)

/-- Whether an entry holds a valid caster field that names an id. -/
def castsOf (e : List Byte) (id : Nat) : Bool :=
  (List.range 4).any fun f => casterField (layerCast e) f == (true, id)

/-- An entry with each valid caster field that names an id renamed, or made invalid. -/
def recast (id : Nat) (new : Option Nat) (e : List Byte) : List Byte :=
  (List.range 4).foldl (fun e f =>
    if casterField (layerCast e) f = (true, id) then
      let cast := entryNat e 0x18 8
      let v := match new with
        | some k => 2 ^ 12 + k
        | none => id
      entrySet e 0x18 8 (cast - (2 ^ 12 + id) * 2 ^ (13 * f) + v * 2 ^ (13 * f))
    else e) e

/-- A scene on which an instruction keeps a layer from the update at the end of a pass (08 R254). -/
def Run.touchLayer (r : Run) (k id : Nat) : Run :=
  r.modCtx k fun y => { y with
    scene := y.scene.map fun z => { z with
      run := z.run.map fun f => { f with touched := setPut f.touched id true } } }

/-! ### The instructions -/

/-- The pose [I | 0] (08 R259). -/
def identityPose : List Byte :=
  ((List.range 12).map fun i => toBytes 8 (if i % 5 = 0 then 0x3FF0000000000000 else 0)).flatten

/-- The lowest free id from i on, among n. -/
def Run.freeLayer (r : Run) (x : Context) (sc : Scene) : Nat → Nat → Io (Option Nat)
  | _, 0 => .ok none r
  | i, n + 1 =>
    (r.readLayer x sc i).bind fun e r =>
      if layerState e = 0 then .ok (some i) r else r.freeLayer x sc (i + 1) n

/-- The entry that `lnew` makes (08 R259). -/
def newEntry (surf : Word) (order : Nat) : List Byte :=
  toBytes 8 (1 + order % 2 ^ 16 * 2 ^ 16) ++ toBytes 8 (0xFFFFFFFF * 2 ^ 32)
    ++ List.replicate 24 0 ++ toBytes 8 (field surf 56 0) ++ List.replicate 16 0
    ++ identityPose ++ identityPose

/-- `lnew`. -/
def Run.layerNew (r : Run) (x : Context) (sc : Scene) (o : LayerOp) : Io LayerRes :=
  (r.freeLayer x sc 0 sc.lcount).bind fun f r =>
    match f with
    | none => layerDone (BitVec.allOnes 64) r
    | some i =>
      (r.writeLayer x sc i (newEntry o.a (field o.c 15 0))).bind fun _ r =>
        (r.writeSide x sc i (List.replicate 128 0)).bind fun _ r =>
          layerDone (BitVec.ofNat 64 i) r

/-- A table with a layer freed (08 R259). -/
def freeIn (t : List (List Byte)) (id : Nat) : List (List Byte) :=
  (t.map (recast id none)).set id (entrySet (recast id none (t.getD id [])) 0 1 0)

/-- `lfree`. -/
def Run.layerFree (r : Run) (k : Nat) (x : Context) (sc : Scene) (o : LayerOp) : Io LayerRes :=
  r.withTable x sc o.a fun t _ r =>
    (r.touchLayer k o.a.toNat).putTable x sc t (freeIn t o.a.toNat) 0

/-- `lpose` (08 R260). -/
def Run.layerPose (r : Run) (x : Context) (sc : Scene) (o : LayerOp) : Io LayerRes :=
  r.withLayer x sc o.a fun e r =>
    (r.gl (some x) (glAddr o.b) 128).bind fun p r =>
      (r.writeLayer x sc o.a.toNat (overlay 0xA0 (p.take 96) e)).bind fun _ r =>
        (r.readSide x sc o.a.toNat).bind fun s r =>
          (r.writeSide x sc o.a.toNat (overlay 0x40 (p.drop 96) s)).bind fun _ r => layerDone 0 r

/-- The entry of a layer that commits (08 R261). -/
def committed (e : List Byte) (surf : Word) : List Byte :=
  let e := if surf = 0 then e else entrySet e 0x28 8 (field surf 56 0)
  let e := overlay 0x40 ((e.drop 0xA0).take 96) e
  let e := setLayerFlag (setLayerFlag (setLayerFlag e flagLight false) flagShadow false) flagReq false
  entrySet (entrySet (entrySet e 4 4 0) 8 4 0) 0 1 2

/-- `lcommit`. -/
def Run.layerCommit (r : Run) (k : Nat) (x : Context) (sc : Scene) (o : LayerOp) : Io LayerRes :=
  r.withTable x sc o.a fun t e r =>
    let id := o.a.toNat
    let t' := (t.set id (committed e o.b)).map fun z =>
      if layerState z ≠ 0 ∧ castsOf z id then setLayerFlag z flagShadow true else z
    (r.touchLayer k id).putTable x sc t t' 0

/-- The id that `lsplit` gives the child: the first free one above the parent, unless a layer of
the parent's order comes first. -/
def childOf (order : Nat) : Nat → List (List Byte) → Option Nat
  | _, [] => none
  | i, e :: l =>
    if layerState e = 0 then some i
    else if layerOrder e = order then none
    else childOf order (i + 1) l

/-- The entry of a child (08 R262). -/
def childEntry (e : List Byte) (mask : Nat) : List Byte :=
  entrySet (entrySet (setLayerFlag e flagReq false) 0x38 4 0) 0x30 8 mask

/-- `lsplit`. -/
def Run.layerSplit (r : Run) (x : Context) (sc : Scene) (o : LayerOp) : Io LayerRes :=
  r.withTable x sc o.a fun t e r =>
    let id := o.a.toNat
    (r.surface x (layerSurf e)).bind fun sf r =>
      (r.layerRows x e sf.w sf.h).bind fun p r =>
        (r.maskRows x (glAddr o.c) sf.w 0 sf.h).bind fun s r =>
          let sel := List.zipWith Nat.land p s
          if sel.all (· == 0) then layerFault 0x91 o.a 0 r
          else match childOf (layerOrder e) (id + 1) (t.drop (id + 1)) with
            | none => layerDone (BitVec.allOnes 64) r
            | some c =>
              (r.readSide x sc id).bind fun side r =>
                (r.setMask x (glAddr o.c) sf.w 0 sel).bind fun _ r =>
                  (r.setMask x (glAddr o.b) sf.w 0
                      (List.zipWith (fun a b => a - Nat.land a b) p sel)).bind fun _ r =>
                    (r.writeSide x sc c side).bind fun _ r =>
                      r.putTable x sc t
                        ((t.set c (childEntry e (glAddr o.c))).set id
                          (entrySet e 0x30 8 (glAddr o.b))) (BitVec.ofNat 64 c)

/-- The survivor of a merge, its mask left out (08 R263). -/
def survivor (a b : List Byte) : List Byte :=
  let a := entrySet a 4 4 (max (layerAge a) (layerAge b))
  let a := entrySet a 8 4 (max (layerError a) (layerError b))
  [flagLight, flagShadow, flagReq].foldl (fun e f =>
    setLayerFlag e f (layerFlag e f || layerFlag b f)) a

/-- The table after a merge of B into A, whose entry is given. -/
def mergeIn (t : List (List Byte)) (a b : Nat) (e : List Byte) : List (List Byte) :=
  let t := (t.set a e).map (recast b (some a))
  t.set b (entrySet (t.getD b []) 0 1 0)

/-- `lmerge`. -/
def Run.layerMerge (r : Run) (k : Nat) (x : Context) (sc : Scene) (o : LayerOp) : Io LayerRes :=
  r.withTable x sc o.a fun t e r =>
    r.withLayer x sc o.b fun f r =>
      let a := o.a.toNat
      let b := o.b.toNat
      if a = b then layerFault 0x93 o.a 1 r
      else if layerSurf e ≠ layerSurf f then layerFault 0x93 o.a 0 r
      else
        let r := (r.touchLayer k a).touchLayer k b
        let e' := survivor e f
        if layerMask e = 0 ∨ layerMask f = 0 then
          r.putTable x sc t (mergeIn t a b (entrySet e' 0x30 8 0)) 0
        else
          (r.surface x (layerSurf e)).bind fun sf r =>
            (r.layerRows x e sf.w sf.h).bind fun p r =>
              (r.layerRows x f sf.w sf.h).bind fun q r =>
                (r.setMask x (glAddr o.c) sf.w 0 (List.zipWith Nat.lor p q)).bind fun _ r =>
                  r.putTable x sc t (mergeIn t a b (entrySet e' 0x30 8 (glAddr o.c))) 0

/-- An instruction that changes its layer's entry alone (08 R264, R266). -/
def Run.layerSet (r : Run) (x : Context) (sc : Scene) (id : Word)
    (f : List Byte → List Byte) : Io LayerRes :=
  r.withLayer x sc id fun e r =>
    (r.writeLayer x sc id.toNat (f e)).bind fun _ r => layerDone 0 r

/-- `llight.bump` (08 R264, 17 R377). -/
def Run.layerBump (r : Run) (x : Context) (sc : Scene) (slot : Nat) : Io LayerRes :=
  (r.readTable x sc).bind fun t r =>
    let t' := t.map fun e =>
      if layerState e ≠ 0 ∧ (layerLmask e).testBit (slot / 4) then setLayerFlag e flagLight true
      else e
    let a := sc.status + 0x40 + 4 * slot
    (r.gl (some x) a 4).bind fun bs r =>
      (r.glSet (some x) a (toBytes 4 (ofBytes bs + 1)) false).bind fun _ r =>
        r.putTable x sc t t' 0

/-- The first caster field that breaks R265. -/
def badCaster (t : List (List Byte)) (id : Nat) (cast : Nat) : Option Nat :=
  (List.range 4).find? fun f =>
    let c := casterField cast f
    c.1 && (c.2 == id || ! allocatedIn t c.2)

/-- `lshadow` (08 R265). -/
def Run.layerShadow (r : Run) (x : Context) (sc : Scene) (o : LayerOp) : Io LayerRes :=
  r.withTable x sc o.a fun t e r =>
    match badCaster t o.a.toNat (field o.b 51 0) with
    | some f => layerFault 0x94 o.b (BitVec.ofNat 32 f) r
    | none =>
      (r.writeLayer x sc o.a.toNat (entrySet e 0x18 8 (field o.b 51 0))).bind fun _ r =>
        layerDone 0 r

/-- `lreq.tmpl` (08 R266). -/
def Run.layerTemplate (r : Run) (x : Context) (sc : Scene) (o : LayerOp) : Io LayerRes :=
  r.withLayer x sc o.a fun _ r =>
    (r.gl (some x) (glAddr o.b) 64).bind fun t r =>
      (r.readSide x sc o.a.toNat).bind fun s r =>
        (r.writeSide x sc o.a.toNat (overlay 0 t s)).bind fun _ r => layerDone 0 r

/-- An entry whose request has been pushed for a frame. -/
def requested (e : List Byte) (frame : BitVec 64) : List Byte :=
  entrySet (setLayerFlag e flagReq true) 0x38 4 (frame.toNat % 2 ^ 32)

/-- `lreq.now` (08 R266). -/
def Run.layerRequest (r : Run) (k : Nat) (x : Context) (sc : Scene) (o : LayerOp) : Io LayerRes :=
  r.withLayer x sc o.a fun e r =>
    if layerFlag e flagReq then layerDone 0 r
    else (r.renderPush k x sc o.a.toNat).bind fun pushed r =>
      if ! pushed then layerDone 0 r
      else (r.writeLayer x sc o.a.toNat (requested e sc.current)).bind fun _ r => layerDone 0 r

/-- A write of `SHPEN` performed: every core of the context gets its copy (04 R119). -/
def Run.layerShpen (r : Run) (k : Nat) (v : Word) : Run :=
  let r := r.modCtx k fun y => { y with scene := y.scene.map fun z => { z with shpen := v } }
  r.s.cores.foldl (fun r c =>
    if c.2.ctx = some k then r.modCore c.1 fun z => { z with shpen := v } else r) r

/-- What a layer instruction does as the Lehr performs it (08 R258-R266). -/
def Run.layerPerform (r : Run) (k : Nat) (x : Context) (sc : Scene) (o : LayerOp) :
    Io LayerRes :=
  match o.op.toNat, o.xop.toNat with
  | 0x3D, _ => r.layerNew x sc o
  | 0x3E, _ => r.layerFree k x sc o
  | 0x3F, _ => r.layerPose x sc o
  | 0x40, _ => r.layerCommit k x sc o
  | 0x41, _ => r.layerSplit x sc o
  | 0x42, _ => r.layerMerge k x sc o
  | 0x43, 0 => r.withLayer x sc o.a fun e r =>
      layerDone (BitVec.ofNat 64 (layerAge e * 2 ^ 32 + layerError e)) r
  | 0x43, _ => r.withLayer x sc o.a fun e r => layerDone (wordOf (e.take 8)) r
  | 0x44, _ => r.layerSet x sc o.a fun e => entrySet e 12 4 (field o.b 31 0)
  | 0x45, _ => r.layerSet x sc o.a fun e => entrySet e 2 2 (field o.b 15 0)
  | 0x46, 0 => r.layerSet x sc o.a fun e =>
      entrySet (entrySet e 16 2 (field o.b 15 0)) 20 4 (field o.c 31 0)
  | 0x46, _ => r.layerBump x sc (field o.a 5 0)
  | 0x47, _ => r.layerShadow x sc o
  | 0x48, 0 => r.layerTemplate x sc o
  | 0x48, 1 => r.layerRequest k x sc o
  | 0x48, _ => r.layerSet x sc o.a fun e => setLayerFlag e flagReq false
  | _, _ => layerDone 0 (r.layerShpen k o.a)

/-! ### The step -/

/-- A scene whose waits for pages are over. -/
def Run.sceneOver (r : Run) (k : Nat) : Run :=
  r.modCtx k fun y => { y with
    scene := y.scene.map fun z => { z with rejected := [], tries := [] } }

/-- Whether an operation is a layer instruction not yet performed. -/
def AsyncOp.inLehr (o : AsyncOp) : Bool :=
  match o.kind, o.st with
  | .layer _, .sent => true
  | _, _ => false

/-- The layer operation with a number in a slot, when it is due: the thread's earlier stores are
visible and its earlier layer instructions performed. -/
def layerDue (s : State) (c sl seq : Nat) : Option (AsyncOp × LayerOp) :=
  let x := s.slot c sl
  match x.findOp seq with
  | none => none
  | some o =>
    let behind := x.async.any fun p => p.tid == o.tid && decide (p.seq < o.seq) && p.inLehr
    match o.kind with
    | .layer l =>
      if o.st = .sent ∧ x.clearBefore o.tid o.seq ∧ ! behind then some (o, l) else none
    | _ => none

/-- The layer instruction that the Lehr performs next for context k: the one that it has begun,
else the one that arrives. -/
def nextLayer (s : State) (sc : Scene) : Nat × Nat × Nat :=
  match sc.queue with
  | h :: _ => h
  | [] => (s.sel.core, s.sel.slot, s.sel.aux)

/-- The operation of a slot that the Lehr has performed. -/
def Run.layerAnswer (r : Run) (k c sl : Nat) (o : AsyncOp) (x : Io LayerRes) : Run :=
  let past (r : Run) : Run := (r.modCtx k fun y => { y with
    scene := y.scene.map fun z => { z with queue := [] } }).sceneOver k
  match x with
  | .ok (.ok v) q => past (q.modSlot c sl fun y => y.setOp { o with st := .done (v.setWidth 128) })
  | .ok (.error e) q => past ((r.spoiled q).failOp c sl o e.1 e.2.1 e.2.2)
  | .fault cause a b q => past ((r.spoiled q).failOp c sl o cause (BitVec.ofNat 64 a) b)
  | .wait q => (r.waiting q).modCtx k fun y => { y with
      scene := y.scene.map fun z => { z with queue := [(c, sl, o.seq)] } }

/-- The step `LAYER_INSTRUCTION_PERFORM` of the scene of context `sel.num`: the instruction that
waits at the Lehr, or the operation `sel.aux` of slot `sel.slot` of core `sel.core`, which arrives,
is performed (08 R253). -/
def layerInstructionPerformRun (s : State) : Option (List Eff) :=
  let k := s.sel.num
  match mapFind s.gaffer.ctxs k with
  | none => none
  | some x =>
    match x.scene with
    | none => none
    | some sc =>
      let (c, sl, seq) := nextLayer s sc
      if (s.core c).ctx ≠ some k then none
      else match layerDue s c sl seq with
        | none => none
        | some (o, l) =>
          let r := Run.start s
          some (r.layerAnswer k c sl o ((r.forScene x sc).layerPerform k x sc l)).done

/-- The step `LAYER_INSTRUCTION_PERFORM`. -/
def execLayerInstructionPerform (s : State) : Host.Outcome State Fault Refusal :=
  finish s (layerInstructionPerformRun s)

end Sys2Proof.Machine
end

