-- ==== Sys2Proof/Machine/Frame.lean ====
section
/-!
DEFINITION. The Lehr's pass over a frame: cadence, extrapolation, warp, error, composition and the
update at its end (17 R379-R387).
-/

namespace Sys2Proof.Machine

/-! ### binary64 and binary32 with one rounding (17 R381, R382, R386) -/

/-- A sum rounded once. -/
def Fmt.add (f : Fmt) (a b : Nat) : Nat :=
  (f.deliver modeRNE 0 (sumNums modeRNE [f.decode a, f.decode b])).1

/-- A difference rounded once. -/
def Fmt.sub (f : Fmt) (a b : Nat) : Nat :=
  (f.deliver modeRNE 0 (sumNums modeRNE [f.decode a, (f.decode b).negate])).1

/-- A product rounded once. -/
def Fmt.mul (f : Fmt) (a b : Nat) : Nat :=
  (f.deliver modeRNE 0 (mulNum (f.decode a) (f.decode b))).1

/-- A quotient rounded once. -/
def Fmt.div (f : Fmt) (a b : Nat) : Nat :=
  (f.deliver modeRNE 0 (divNum (f.decode a) (f.decode b))).1

/-- A square root rounded once. -/
def Fmt.sqrt (f : Fmt) (a : Nat) : Nat := (f.deliver modeRNE 0 (sqrtNum (f.decode a))).1

/-- A value of one format in another. -/
def Fmt.recode (f g : Fmt) (a : Nat) : Nat := (f.deliver modeRNE 0 (g.decode a, 0)).1

/-- The binary64 value of an integer. -/
def f64OfInt (v : Int) : Nat := (fmt64.deliver modeRNE 0 (ofInt v, 0)).1

/-- The binary64 value of half an integer. -/
def f64OfHalf (v : Int) : Nat :=
  (fmt64.deliver modeRNE 0 (.fin (decide (v < 0)) v.natAbs (-1), 0)).1

/-- -x. -/
def f64Neg (a : Nat) : Nat := (fmt64.deliver modeRNE 0 ((fmt64.decode a).negate, 0)).1

/-- |x|. -/
def f64Abs (a : Nat) : Nat := a % 2 ^ 63

/-- a·x + b·y + c·z, terms left to right, every step rounded. -/
def dot3 (a b c x y z : Nat) : Nat :=
  fmt64.add (fmt64.add (fmt64.mul a x) (fmt64.mul b y)) (fmt64.mul c z)

/-- sin (or cos) of an angle in radians below π/2, in fixed point. -/
def quarterTurn (p half x : Nat) (cosine : Bool) : Nat :=
  if 2 * x ≤ half then (if cosine then cosFix p x else sinFix p x)
  else if cosine then sinFix p (half - x) else cosFix p (half - x)

/-- sin or cos of a value in radians. -/
def radian (a : Num) (cosine : Bool) : Num :=
  match a with
  | .nan _ => .nan false
  | .inf _ => .nan false
  | .fin neg mag exp =>
    if mag = 0 then (if cosine then .fin false 1 0 else .fin neg 0 0)
    else
      let p := 1300 + 2 * ((Nat.log2 mag : Int) + exp).toNat
      let x := mag * 2 ^ ((p : Int) + exp).toNat
      let half := piFix p / 2
      let n := x / half % 4
      let v := quarterTurn p half (x % half) (xor cosine (decide (n % 2 = 1)))
      let minus := if cosine then decide (n = 1 ∨ n = 2) else xor neg (decide (2 ≤ n))
      irrational minus p v

/-- sin of a binary64 angle in radians, correctly rounded. -/
def f64Sin (a : Nat) : Nat := (fmt64.deliver modeRNE 0 (radian (fmt64.decode a) false, 0)).1

/-- cos of a binary64 angle in radians, correctly rounded. -/
def f64Cos (a : Nat) : Nat := (fmt64.deliver modeRNE 0 (radian (fmt64.decode a) true, 0)).1

/-! ### Poses (17 R381) -/

/-- A pose: the nine elements of A row by row, and t. -/
structure Pose where
  a : List Nat
  t : List Nat
deriving DecidableEq, Repr

/-- Element (r, q) of a matrix. -/
def mat (a : List Nat) (r q : Nat) : Nat := nth a (3 * r + q)

/-- The pose at an offset of an entry. -/
def poseAt (e : List Byte) (off : Nat) : Pose :=
  let v := numbers 8 12 (e.drop off)
  { a := (List.range 9).map fun i => nth v (4 * (i / 3) + i % 3),
    t := (List.range 3).map fun i => nth v (4 * i + 3) }

/-- Whether a binary64 value is a zero. -/
def f64IsZero (a : Nat) : Bool := a % 2 ^ 63 == 0

/-- A cross-product matrix. -/
def crossMat (k : List Nat) : List Nat :=
  [0, f64Neg (nth k 2), nth k 1, nth k 2, 0, f64Neg (nth k 0), f64Neg (nth k 1), nth k 0, 0]

/-- The rotation about a unit vector with a cosine and a sine. -/
def rotation (k : List Nat) (c s : Nat) : List Nat :=
  let m := fmt64.sub (f64OfInt 1) c
  let x := crossMat k
  (List.range 9).map fun i =>
    let one := if i % 4 = 0 then f64OfInt 1 else 0
    fmt64.add (fmt64.add (fmt64.mul c one) (fmt64.mul s (nth x i)))
      (fmt64.mul (fmt64.mul m (nth k (i / 3))) (nth k (i % 3)))

/-- The current pose of a layer extrapolated to a time, from its side entry's velocities. -/
def extrapolate (cur : Pose) (side : List Byte) (time : Nat) : Pose :=
  let v := (numbers 4 3 (side.drop 0x40)).map (fmt64.recode fmt32)
  let w := (numbers 4 3 (side.drop 0x4C)).map (fmt64.recode fmt32)
  if v.all f64IsZero && w.all f64IsZero then cur
  else
    let t0 := entryNat side 0x58 8
    let dt := fmt64.div (f64OfInt (signedN ((time + 2 ^ 64 - t0) % 2 ^ 64) 64)) (f64OfInt 1000000000)
    let t := (List.range 3).map fun i => fmt64.add (nth cur.t i) (fmt64.mul (nth v i) dt)
    if w.all f64IsZero then { cur with t := t }
    else
      let n := fmt64.sqrt (dot3 (nth w 0) (nth w 1) (nth w 2) (nth w 0) (nth w 1) (nth w 2))
      let th := fmt64.mul n dt
      let k := w.map fun z => fmt64.div z n
      let rot := rotation k (f64Cos th) (f64Sin th)
      { a := (List.range 9).map fun i =>
          dot3 (mat rot (i / 3) 0) (mat rot (i / 3) 1) (mat rot (i / 3) 2)
            (mat cur.a 0 (i % 3)) (mat cur.a 1 (i % 3)) (mat cur.a 2 (i % 3)),
        t := t }

/-! ### Warp (17 R382, R384) -/

/-- The minor of element (i, j) with its sign. -/
def cofactor (a : List Nat) (i j : Nat) : Nat :=
  let r0 := if i = 0 then 1 else 0
  let r1 := if i = 2 then 1 else 2
  let c0 := if j = 0 then 1 else 0
  let c1 := if j = 2 then 1 else 2
  let m := fmt64.sub (fmt64.mul (mat a r0 c0) (mat a r1 c1)) (fmt64.mul (mat a r0 c1) (mat a r1 c0))
  if (i + j) % 2 = 1 then f64Neg m else m

/-- Whether a binary64 value is finite. -/
def f64Finite (a : Nat) : Bool := a / 2 ^ 52 % 2 ^ 11 != 0x7FF

/-- The inverse of a matrix; none when its determinant is 0 or not finite. -/
def matInverse (a : List Nat) : Option (List Nat) :=
  let d := dot3 (mat a 0 0) (mat a 0 1) (mat a 0 2) (cofactor a 0 0) (cofactor a 0 1) (cofactor a 0 2)
  if f64IsZero d || ! f64Finite d then none
  else some ((List.range 9).map fun i => fmt64.div (cofactor a (i % 3) (i / 3)) d)

/-- What the warp of a layer needs: the scene's camera and output, the inverse render matrix, the
render translation, and the extrapolated pose. -/
structure WarpCfg where
  fx  : Nat
  fy  : Nat
  cx  : Nat
  cy  : Nat
  ow  : Nat
  oh  : Nat
  inv : Option (List Nat)
  tr  : List Nat
  cur : Pose
deriving DecidableEq, Repr

/-- Where a pixel goes: its warped depth and destination, and how far it moves; none when the
layer's matrix has no inverse, P.z is not positive, or the destination is not finite. -/
def warpPoint (g : WarpCfg) (x y z : Nat) : Option (Nat × Nat × Nat × Nat) :=
  match g.inv with
  | none => none
  | some inv =>
    let u := f64OfHalf (2 * x + 1)
    let w := f64OfHalf (2 * y + 1)
    let pc := [fmt64.div (fmt64.mul (fmt64.sub u g.cx) z) g.fx,
               fmt64.div (fmt64.mul (fmt64.sub w g.cy) z) g.fy, z]
    let q := (List.range 3).map fun i => fmt64.sub (nth pc i) (nth g.tr i)
    let at' (m : List Nat) (v : List Nat) (i : Nat) : Nat :=
      dot3 (mat m i 0) (mat m i 1) (mat m i 2) (nth v 0) (nth v 1) (nth v 2)
    let xs := (List.range 3).map (at' inv q)
    let p := (List.range 3).map fun i => fmt64.add (at' g.cur.a xs i) (nth g.cur.t i)
    let u2 := fmt64.add (fmt64.div (fmt64.mul g.fx (nth p 0)) (nth p 2)) g.cx
    let w2 := fmt64.add (fmt64.div (fmt64.mul g.fy (nth p 1)) (nth p 2)) g.cy
    let zp := fmt64.decode (nth p 2)
    if zp.isNan || ! ltNum (.fin false 0 0) zp || ! f64Finite u2 || ! f64Finite w2 then none
    else some (nth p 2, u2, w2,
      fmt64.add (f64Abs (fmt64.sub u2 u)) (f64Abs (fmt64.sub w2 w)))

/-- ⌊x⌋ of a finite binary64 value. -/
def f64Floor (a : Nat) : Int :=
  match fmt64.decode a with
  | .fin neg mag exp =>
    let v : Int := if neg then - ((mag : Nat) : Int) else ((mag : Nat) : Int)
    if 0 ≤ exp then v * ((2 ^ exp.toNat : Nat) : Int) else v / ((2 ^ (- exp).toNat : Nat) : Int)
  | _ => 0

/-- min(255, ⌊16 s⌋). -/
def errorTerm (s : Nat) : Nat :=
  match fmt64.decode s with
  | .fin _ mag exp => min 255 (if 0 ≤ exp + 4 then mag * 2 ^ (exp + 4).toNat
      else mag / 2 ^ (- (exp + 4)).toNat)
  | _ => 255

/-- A sum that saturates at 2^32 - 1. -/
def satAdd (a b : Nat) : Nat := min (a + b) (2 ^ 32 - 1)

/-- A surviving pixel: its warped depth and its colour. -/
abbrev Pixels := Map (Nat × Nat)

/-- What the warp of a layer has come to: the error, and the surviving pixels by destination
X + 2^14 Y. -/
structure Warped where
  err    : Nat
  pixels : Pixels
deriving DecidableEq, Repr

/-- A pixel put at its destination, unless one that is not deeper stands there. -/
def putPixel (m : Pixels) (k depth color : Nat) : Pixels :=
  match mapFind m k with
  | none => mapPut m k (depth, color)
  | some old =>
    if ltNum (fmt64.decode depth) (fmt64.decode old.1) then mapPut m k (depth, color) else m

/-- One counted pixel warped. -/
def warpPixel (g : WarpCfg) (x y z color : Nat) (l : Warped) : Warped :=
  match warpPoint g x y z with
  | none => { l with err := satAdd l.err 255 }
  | some (depth, u2, w2, s) =>
    let bx := f64Floor u2
    let by' := f64Floor w2
    let l := { l with err := satAdd l.err (errorTerm s) }
    if 0 ≤ bx ∧ bx < (g.ow : Int) ∧ 0 ≤ by' ∧ by' < (g.oh : Int) then
      { l with pixels := putPixel l.pixels (bx.toNat + 2 ^ 14 * by'.toNat) depth color }
    else l

/-- Whether an alpha code is greater than +0. -/
def alphaCounts (color : Nat) : Bool :=
  let a := color / 2 ^ 48
  decide (0 < a) && decide (a ≤ 0x7C00)

/-- A row of a layer's surface from pixel x on, n pixels. -/
def Run.warpRow (r : Run) (x : Context) (g : WarpCfg) (sf : Surface) (y row : Nat) :
    Nat → Nat → Warped → Io Warped
  | _, 0, l => .ok l r
  | i, n + 1, l =>
    if ! row.testBit i then r.warpRow x g sf y row (i + 1) n l
    else (r.gl (some x) (sf.color + y * sf.cpitch + 8 * i) 8).bind fun bs r =>
      let color := ofBytes bs
      if ! alphaCounts color then r.warpRow x g sf y row (i + 1) n l
      else (r.gl (some x) (sf.depth + y * sf.dpitch + 4 * i) 4).bind fun bs r =>
        r.warpRow x g sf y row (i + 1) n
          (warpPixel g i y (fmt64.recode fmt32 (ofBytes bs)) color l)

/-- The rows of a layer's surface from y on. -/
def Run.warpRows (r : Run) (x : Context) (g : WarpCfg) (sf : Surface) :
    Nat → List Nat → Warped → Io Warped
  | _, [], l => .ok l r
  | y, row :: rest, l =>
    (r.warpRow x g sf y row 0 sf.w l).bind fun l r => r.warpRows x g sf (y + 1) rest l

/-- The warp of a layer from its snapshot. -/
def Run.warpLayer (r : Run) (x : Context) (sc : Scene) (time : Nat) (e side : List Byte) :
    Io Warped :=
  let rp := poseAt e 0x40
  let g : WarpCfg :=
    { fx := (dw sc.desc 5).toNat, fy := (dw sc.desc 6).toNat, cx := (dw sc.desc 7).toNat,
      cy := (dw sc.desc 8).toNat, ow := sc.ow, oh := sc.oh, inv := matInverse rp.a, tr := rp.t,
      cur := extrapolate (poseAt e 0xA0) side time }
  (r.surface x (layerSurf e)).bind fun sf r =>
    (r.layerRows x e sf.w sf.h).bind fun rows r =>
      r.warpRows x g sf 0 rows { err := 0, pixels := [] }

/-- The error of a layer with its penalties (17 R384). -/
def withPenalties (e : List Byte) (shpen err : Nat) : Nat :=
  let err := if layerFlag e flagLight then satAdd err (layerLpen e) else err
  if layerFlag e flagShadow then satAdd err shpen else err

/-! ### Bounds and order (17 R383, R386) -/

/-- A live layer of a frame after its warp. -/
structure Drawn where
  id     : Nat
  order  : Nat
  err    : Nat
  pixels : Pixels
deriving DecidableEq, Repr

/-- The smallest or largest of numbers. -/
def extreme (f : Nat → Nat → Nat) (l : List Nat) : Nat :=
  match l with
  | [] => 0
  | a :: r => r.foldl f a

/-- X0, Y0, X1, Y1 of a layer that has surviving pixels. -/
def Drawn.box (d : Drawn) : List Nat :=
  let xs := d.pixels.map fun p => p.1 % 2 ^ 14
  let ys := d.pixels.map fun p => p.1 / 2 ^ 14
  [extreme min xs, extreme min ys, extreme max xs, extreme max ys]

/-- BOUNDS of a layer. -/
def Drawn.bounds (d : Drawn) : Nat :=
  if d.pixels = [] then 0xFFFF + 0xFFFF * 2 ^ 16
  else
    let b := d.box
    nth b 0 + nth b 1 * 2 ^ 16 + nth b 2 * 2 ^ 32 + nth b 3 * 2 ^ 48

/-- Whether a depth is at most another. -/
def depthLe (a b : Nat) : Bool := ! ltNum (fmt64.decode b) (fmt64.decode a)

/-- The smaller of two depths. -/
def depthMin (a b : Nat) : Nat := if depthLe a b then a else b

/-- The larger of two depths. -/
def depthMax (a b : Nat) : Nat := if depthLe a b then b else a

/-- Whether two layers conflict. -/
def Drawn.conflicts (a b : Drawn) : Bool :=
  let p := a.box
  let q := b.box
  let za := a.pixels.map fun e => e.2.1
  let zb := b.pixels.map fun e => e.2.1
  decide (nth p 0 ≤ nth q 2) && decide (nth q 0 ≤ nth p 2) && decide (nth p 1 ≤ nth q 3)
    && decide (nth q 1 ≤ nth p 3)
    && depthLe (extreme depthMin za) (extreme depthMax zb)
    && depthLe (extreme depthMin zb) (extreme depthMax za)

/-- A layer listed at a pixel: the layer, its depth and colour there. -/
structure Listed where
  layer : Drawn
  depth : Nat
  color : Nat
deriving DecidableEq, Repr

/-- The order of two layers at a pixel; `byDepth` when two of those listed conflict. -/
def Listed.before (byDepth : Bool) (a b : Listed) : Bool :=
  let key : Bool := if a.layer.order ≠ b.layer.order then decide (a.layer.order < b.layer.order)
    else decide (a.layer.id < b.layer.id)
  if byDepth then
    if ltNum (fmt64.decode a.depth) (fmt64.decode b.depth) then true
    else if ltNum (fmt64.decode b.depth) (fmt64.decode a.depth) then false
    else key
  else key

/-- A layer put into an ordered list. -/
def insertListed (byDepth : Bool) (a : Listed) : List Listed → List Listed
  | [] => [a]
  | b :: l => if a.before byDepth b then a :: b :: l else b :: insertListed byDepth a l

/-- The layers listed at a pixel, in the order in which they are combined; `conflict` says which
pairs of layers conflict. -/
def listAt (layers : List Drawn) (conflict : List (Nat × Nat)) (k : Nat) : List Listed :=
  let l := layers.filterMap fun d => (mapFind d.pixels k).map fun p =>
    { layer := d, depth := p.1, color := p.2 : Listed }
  let byDepth := l.any fun a => l.any fun b => conflict.contains (a.layer.id, b.layer.id)
  l.foldl (fun acc a => insertListed byDepth a acc) []

/-- The pairs of layers that conflict. -/
def conflictPairs (layers : List Drawn) : List (Nat × Nat) :=
  let l := layers.filter fun d => d.pixels ≠ []
  l.flatMap fun a => (l.filter fun b => decide (a.id < b.id) && a.conflicts b).map fun b => (a.id, b.id)

/-! ### Composition (17 R386) -/

/-- The four channels of a colour as binary32. -/
def channels (color : Nat) : List Nat :=
  (List.range 4).map fun i => fmt32.recode fmt16 (color / 2 ^ (16 * i) % 2 ^ 16)

/-- A colour put behind what has been combined. -/
def under (acc c : List Nat) : List Nat :=
  let f := fmt32.sub 0x3F800000 (nth acc 3)
  (List.range 4).map fun i => fmt32.add (nth acc i) (fmt32.mul f (nth c i))

/-- The colour of an output pixel. -/
def blend (clear : Nat) (l : List Listed) : Nat :=
  let acc := l.foldl (fun acc a => under acc (channels a.color)) [0, 0, 0, 0]
  let acc := under acc (channels clear)
  (List.range 4).foldl (fun v i => v + fmt16.recode fmt32 (nth acc i) * 2 ^ (16 * i)) 0

/-- The depth of an output pixel: that of the first listed layer, or +infinity. -/
def blendDepth (l : List Listed) : Nat :=
  match l with
  | [] => 0x7F800000
  | a :: _ => fmt32.recode fmt64 a.depth

/-- A write of the Lehr to the output; one that faults is dropped (log 19). -/
def Run.outWrite (r : Run) (x : Context) (a : Nat) (bs : List Byte) : Io Unit :=
  (r.glSet (some x) a bs false).orDrop r

/-- Pixels of the output from pixel i on, n of them, in rows of w. -/
def Run.outPixels (r : Run) (x : Context) (sc : Scene) (sf : Surface) (layers : List Drawn)
    (conflict : List (Nat × Nat)) (w : Nat) : Nat → Nat → Io Unit
  | _, 0 => .ok () r
  | i, n + 1 =>
    let px := i % w
    let py := i / w
    let l := listAt layers conflict (px + 2 ^ 14 * py)
    (r.outWrite x (sf.color + py * sf.cpitch + 8 * px)
        (toBytes 8 (blend (dw sc.desc 9).toNat l))).bind fun _ r =>
      (if sf.depth = 0 then Io.ok () r
        else r.outWrite x (sf.depth + py * sf.dpitch + 4 * px) (toBytes 4 (blendDepth l))).bind
        fun _ r => r.outPixels x sc sf layers conflict w (i + 1) n

/-- The composition of a frame into its output surface; an output whose descriptor cannot be read
is not written (log 19). -/
def Run.compose (r : Run) (x : Context) (sc : Scene) (n : Nat) (layers : List Drawn) : Io Unit :=
  match r.surface x (sc.out n) with
  | .wait q => .wait q
  | .fault _ _ _ q => .ok () (r.spoiled q)
  | .ok sf r =>
    let w := min sf.w sc.ow
    let h := min sf.h sc.oh
    r.outPixels x sc sf layers (conflictPairs layers) w 0 (w * h)

/-! ### The pass -/

/-- A live layer warped; a read that faults gives it the largest error and no pixel (17 R387). -/
def Run.drawLayer (r : Run) (x : Context) (sc : Scene) (f : FrameRun) (id : Nat) (e : List Byte) :
    Io Drawn :=
  let lost : Drawn := { id := id, order := layerOrder e, err := 2 ^ 32 - 1, pixels := [] }
  if (mapFind f.faults id).isSome then .ok lost r
  else match r.warpLayer x sc f.time e (mapGet [] f.sides id) with
    | .wait q => .wait q
    | .ok l r => .ok { id := id, order := layerOrder e,
                       err := withPenalties e f.shpen.toNat l.err, pixels := l.pixels } r
    | .fault cause _ _ q =>
      ((r.spoiled q).readFault x sc id cause).bind fun _ r => .ok lost r

/-- Live layers warped in ascending id. -/
def Run.drawLayers (r : Run) (x : Context) (sc : Scene) (f : FrameRun) :
    List (Nat × List Byte) → Io (List Drawn)
  | [] => .ok [] r
  | (id, e) :: l =>
    (r.drawLayer x sc f id e).bind fun d r =>
      (r.drawLayers x sc f l).bind fun ds r => .ok (d :: ds) r

/-- The entry of a layer after the update at the end of a pass, its request left out (17 R385). -/
def updated (e : List Byte) (d : Drawn) : List Byte :=
  entrySet (entrySet (entrySet e 8 4 d.err) 0x20 8 d.bounds) 4 4 (min (layerAge e + 1) (2 ^ 32 - 1))

/-- Whether an address lies in a layer's side entry. -/
def Scene.inSide (sc : Scene) (id a : Nat) : Bool :=
  decide (sc.side + 128 * id ≤ a) && decide (a < sc.side + 128 * id + 128)

/-- The push of a layer's template at the end of a pass: a side entry that cannot be read is a layer
read fault, and a push that faults pushes nothing (17 R385, R387; log 52). -/
def Run.pushLayer (r : Run) (k : Nat) (x : Context) (sc : Scene) (id : Nat) : Io Bool :=
  match r.renderPush k x sc id with
  | .fault cause a _ q =>
    let r := r.spoiled q
    if sc.inSide id a then (r.readFault x sc id cause).bind fun _ r => .ok false r else .ok false r
  | y => y

/-- A layer that lands no pixel in the frame, with the largest error (17 R387). -/
def Drawn.lost (d : Drawn) : Drawn := { d with err := 2 ^ 32 - 1, pixels := [] }

/-- The entries of drawn layers read for the updates at the end of the pass, none for a layer that takes no
update; one whose entry cannot be read lands no pixel (17 R387; log 52). -/
def Run.finalEntries (r : Run) (x : Context) (sc : Scene) (f : FrameRun) :
    List Drawn → Io (List (Drawn × Option (List Byte)))
  | [] => .ok [] r
  | d :: l =>
    (if f.touched.contains d.id then Io.ok (d, none) r
      else match r.readLayer x sc d.id with
        | .wait q => .wait q
        | .ok e r => .ok (d, some e) r
        | .fault cause _ _ q =>
          ((r.spoiled q).readFault x sc d.id cause).bind fun _ r => .ok (d.lost, none) r).bind fun y r =>
      (r.finalEntries x sc f l).bind fun ys r => .ok (y :: ys) r

/-- The update of a layer whose entry cannot be read: ERROR and BOUNDS are written where they can be
(17 R387; log 52). -/
def Run.updateBlind (r : Run) (x : Context) (sc : Scene) (d : Drawn) : Io Unit :=
  let a := sc.table + 256 * d.id
  ((r.glSet (some x) (a + 8) (toBytes 4 d.err) false).orDrop r).bind fun _ r =>
    (r.glSet (some x) (a + 0x20) (toBytes 8 d.bounds) false).orDrop r

/-- The update of one layer; an entry that the snapshot could not read may turn out not to be live. -/
def Run.updateLayer (r : Run) (k : Nat) (x : Context) (sc : Scene) (n : BitVec 64) (d : Drawn) (e : List Byte) :
    Io Unit :=
  let e' := updated e d
  if layerState e ≠ 2 then .ok () r
  else if layerPrice e < d.err ∧ ! layerFlag e flagReq then
    (r.pushLayer k x sc d.id).bind fun pushed r =>
      (r.writeLayer x sc d.id (if pushed then requested e' n else e')).orDrop r
  else (r.writeLayer x sc d.id e').orDrop r

/-- The updates of layers in ascending id. -/
def Run.updateLayers (r : Run) (k : Nat) (x : Context) (sc : Scene) (f : FrameRun) :
    List (Drawn × Option (List Byte)) → Io Unit
  | [] => .ok () r
  | (d, e) :: l =>
    (match e with
      | some e => r.updateLayer k x sc f.n d e
      | none => if f.touched.contains d.id then .ok () r else r.updateBlind x sc d).bind fun _ r =>
      r.updateLayers k x sc f l

/-- The signal of a schedule decremented after its last counted frame; a fault there has no one to
report to. -/
def Run.endSignal (r : Run) (x : Context) (f : FrameRun) : Io Unit :=
  if f.last then (r.decSignal (some x) f.signal).orDrop r else .ok () r

/-- The end of a frame: DTIME and DONE, and the schedule's signal after its last counted frame. A write
of the status block that faults is dropped (log 52). -/
def Run.closeFrame (r : Run) (k : Nat) (x : Context) (sc : Scene) (f : FrameRun) : Io Unit :=
  ((r.glSetDword (some x) (sc.status + 0x20) r.s.time).orDrop r).bind fun _ r =>
    ((r.glSetDword (some x) sc.status f.n).orDrop r).bind fun _ r =>
      (r.endSignal x f).bind fun _ r =>
        .ok () ((r.modCtx k fun y => { y with
          scene := y.scene.map fun z => { z with run := none } }).sceneOver k)

/-- The step `FRAME_END` of the scene of context `sel.num` (17 R380-R387): the pass is performed
as it ends; where a page is missing it is only requested. -/
def frameEndRun (s : State) : Option (List Eff) :=
  let k := s.sel.num
  match mapFind s.gaffer.ctxs k with
  | none => none
  | some x =>
    match x.scene with
    | none => none
    | some sc =>
      match sc.run with
      | none => none
      | some f =>
        let r := Run.start s
        match (((r.forScene x sc).drawLayers x sc f f.entries).bind fun ds r =>
            r.finalEntries x sc f ds).bind fun ds r =>
            (r.compose x sc f.n.toNat (ds.map Prod.fst)).bind fun _ r =>
              (r.updateLayers k x sc f ds).bind fun _ r => r.closeFrame k x sc f with
        | .ok _ r => some r.done
        | .wait q => some (r.waiting q).done
        | .fault _ _ _ q => some (((r.spoiled q).modCtx k fun y => { y with
            scene := y.scene.map fun z => { z with run := none } }).sceneOver k).done

/-! ### The start of a frame (17 R379, R380) -/

/-- The scheduled time of a schedule's next frame. -/
def Schedule.at (y : Schedule) : Nat := y.first + y.next * y.period

/-- Whether a schedule has a frame to come. -/
def Schedule.live (y : Schedule) : Bool :=
  (y.count == 0 || decide (y.next < y.count))
    && (match y.cut with
      | some t => decide (y.at < t)
      | none => true)

/-- The snapshot of the layer table: live layers' entries and side entries. An entry that cannot be
read is a read fault of a layer that the pass takes for live (17 R387; log 52). -/
def Run.snapshot (r : Run) (x : Context) (sc : Scene) : Nat → Nat → FrameRun → Io FrameRun
  | _, 0, f => .ok f r
  | i, n + 1, f =>
    match r.readLayer x sc i with
    | .wait q => .wait q
    | .fault cause _ _ q =>
      ((r.spoiled q).readFault x sc i cause).bind fun _ r => r.snapshot x sc (i + 1) n
        { f with entries := f.entries ++ [(i, [])], faults := f.faults ++ [(i, cause)] }
    | .ok e r =>
      if layerState e ≠ 2 then r.snapshot x sc (i + 1) n f
      else
        let f := { f with entries := f.entries ++ [(i, e)] }
        match r.readSide x sc i with
        | .wait q => .wait q
        | .ok side r => r.snapshot x sc (i + 1) n { f with sides := f.sides ++ [(i, side)] }
        | .fault cause _ _ q =>
          ((r.spoiled q).readFault x sc i cause).bind fun _ r =>
            r.snapshot x sc (i + 1) n { f with faults := f.faults ++ [(i, cause)] }

/-- A frame of a schedule begun. -/
def Run.beginFrame (r : Run) (k : Nat) (x : Context) (sc : Scene) (y : Schedule)
    (rest : List Schedule) : Io Unit :=
  let f : FrameRun :=
    { n := sc.frame, time := y.at, last := y.count != 0 && y.next + 1 == y.count,
      signal := y.signal, entries := [], sides := [], faults := [],
      shpen := sc.shpen.extractLsb' 0 32, touched := [] }
  ((r.glSetDword (some x) (sc.status + 8) sc.frame).orDrop r).bind fun _ r =>
    (if y.at < r.s.time.toNat then (r.setStatus x sc 0x18 32 32 (· + 1)).orDrop r
      else Io.ok () r).bind fun _ r =>
      (r.snapshot x sc 0 sc.lcount f).bind fun f r =>
        .ok () ((r.modCtx k fun z => { z with scene := z.scene.map fun w => { w with
          run := some f, frame := sc.frame + 1,
          sched := { y with next := y.next + 1 } :: rest } }).sceneOver k)

/-- The step `FRAME_START` of the scene of context `sel.num`, when a frame is due and none is in
progress (17 R379, R380). -/
def frameStartRun (s : State) : Option (List Eff) :=
  let k := s.sel.num
  match mapFind s.gaffer.ctxs k with
  | none => none
  | some x =>
    match x.scene with
    | none => none
    | some sc =>
      match sc.sched.dropWhile fun y => ! y.live with
      | [] => none
      | y :: rest =>
        if sc.run.isSome ∨ s.time.toNat < y.at then none
        else
          let r := Run.start s
          match (r.forScene x sc).beginFrame k x sc y rest with
          | .ok _ r => some r.done
          | .wait q => some (r.waiting q).done
          | .fault _ _ _ q => some (((r.spoiled q).modCtx k fun z => { z with
              scene := z.scene.map fun w => { w with
                frame := sc.frame + 1, sched := { y with next := y.next + 1 } :: rest } }).sceneOver
              k).done

/-! ### The steps -/

/-- The step `FRAME_START`. -/
def execFrameStart (s : State) : Host.Outcome State Fault Refusal :=
  finish s (frameStartRun s)

/-- The step `FRAME_END`. -/
def execFrameEnd (s : State) : Host.Outcome State Fault Refusal :=
  finish s (frameEndRun s)

end Sys2Proof.Machine
end

