-- ==== Sys2Proof/Machine/Preempt.lean ====
section
/-!
DEFINITION. Pre-emption: the interrupt and what it withdraws, the save, the resumption and
migration, and the forwarding of messages (16 R366-R373, 07 R217, 25 R449).
-/

namespace Sys2Proof.Machine

/-! ### Save areas (16 R369, 25 R449) -/

/-- The bytes of HBM (00 R3): the first addresses of a save region; those above are the second
tier's (log 21). -/
def hbmBytes : Nat := 0x9000000000

/-- The tier and physical address of an address of the save region. A region that reaches above the
HBM bytes is taken as given whether or not a second tier is attached (log 21). -/
def regionPlace (a : Nat) : Tier × Nat :=
  if a < hbmBytes then (.hbm, a) else (.tier2, a - hbmBytes)

/-- Bytes written at an address of the save region. -/
def Run.regionWrite (r : Run) (a : Nat) (bs : List Byte) : Run :=
  let (t, pa) := regionPlace a
  r.emits (physWrite r.s t pa bs false true).1

/-- The stride of ordinary save areas. -/
def areaStride : Nat := 512 * 1024

/-- The stride of the areas of an emergency save. -/
def emergencyStride : Nat := 200 * 1024

/-- The bytes of the emergency region. -/
def emergencyBytes : Nat := 4096 * emergencyStride

/-- The save region, its base and its bytes: the host's, or on an AE-4M, while the host has named none,
the first addresses of the second tier (16 R369, log 21). -/
def saveRegion (s : State) : Nat × Nat :=
  if s.gaffer.saveSize = 0 ∧ Config.form = .ae4m then (hbmBytes, 4096 * areaStride)
  else (s.gaffer.saveBase, s.gaffer.saveSize)

/-- Whether some bytes of the save region belong to an area. -/
def areaTaken (saves : Map SaveArea) (a n : Nat) : Bool :=
  saves.any fun e => decide (e.2.addr < a + n) && decide (a < e.2.addr + e.2.size)

/-- The places of ordinary save areas. -/
def ordinaryPlaces (s : State) : List Nat :=
  (List.range (min ((saveRegion s).2 / areaStride) 4096)).map fun i => (saveRegion s).1 + areaStride * i

/-- The first address of the part of the save region that lies in the second tier. -/
def tierPart (s : State) : Nat := max (saveRegion s).1 hbmBytes

/-- The bytes of an area. -/
def areaBytes (emergency : Bool) : Nat := if emergency then emergencyStride else areaStride

/-- The n first areas of an emergency save from a base on, the core's own place first. -/
def emergencyFrom (base c n : Nat) : List Nat :=
  ((c :: List.range 4096).filter fun i => decide (i < n)).map fun i => base + emergencyStride * i

/-- The areas of an emergency save that the part of the save region in the second tier still holds. -/
def tierAreas (s : State) (saves : Map SaveArea) (c : Nat) : List Nat :=
  (emergencyFrom (tierPart s) c (((saveRegion s).1 + (saveRegion s).2 - tierPart s) / emergencyStride)).filter
    fun a => ! areaTaken saves a emergencyStride

/-- The cores that hold a context and are still to be pre-empted. -/
def coresToSave (s : State) : Nat := (s.cores.filter fun e => e.2.ctx.isSome && e.2.pre.isNone).length

/-- The places of a core's area at an emergency save: in the part of the save region in the second
tier, when it holds the areas of every core that is to be saved, else in the Gaffer's emergency region at
the tier's top (25 R449; log 21). -/
def emergencyPlaces (s : State) (saves : Map SaveArea) (c : Nat) : List Nat :=
  let l := tierAreas s saves c
  if coresToSave s ≤ l.eraseDups.length then l
  else emergencyFrom (hbmBytes + Config.tier2Bytes - emergencyBytes) c 4096

/-- The place of the area of a core that is pre-empted now, beside the areas that stand. -/
def newArea (s : State) (saves : Map SaveArea) (c : Nat) (emergency : Bool) : Option Nat :=
  (if emergency then (if Config.secondTier then emergencyPlaces s saves c else []) else ordinaryPlaces s).find?
    fun a => ! areaTaken saves a (areaBytes emergency)

/-! ### What is withdrawn (16 R367) -/

/-- Whether an access of core c goes to a rank whose context is pre-empted. -/
def peerHeld (s : State) (c : Nat) (sp : Space) (addr : Nat) : Bool :=
  sp == .wm && peerReach s c (wmCore c addr) == some false

/-- Whether an operation that has been sent waits at a pre-empted peer rank (16 R371). -/
def AsyncOp.peerWaits (s : State) (c : Nat) (o : AsyncOp) : Bool :=
  match o.kind with
  | .load sp lanes _ _ => lanes.any fun l => peerHeld s c sp l.addr
  | .fe _ sp a _ => peerHeld s c sp a
  | .amo _ sp a _ _ => peerHeld s c sp a
  | .cas sp a _ _ _ => peerHeld s c sp a
  | _ => false

/-- Whether an entry of a store buffer waits at a pre-empted peer rank. -/
def SbEntry.peerWaits (s : State) (c : Nat) (e : SbEntry) : Bool :=
  match e.kind with
  | .store sp l => l.any fun p => peerHeld s c sp p.1
  | .masked sp a _ _ => peerHeld s c sp a
  | .stfe sp a _ => peerHeld s c sp a
  | .stff sp a _ => peerHeld s c sp a
  | .feset sp a _ => peerHeld s c sp a
  | .marker => false

/-- Whether an operation waits behind reads or writes of its thread, so that it has not gone to its home
(11 R303, R308). -/
def AsyncOp.behind (x : Slot) (o : AsyncOp) : Bool :=
  match o.kind with
  | .load _ _ _ _ => x.unreadBefore o.tid o.seq
  | .fe .fepoll _ _ _ => false
  | .fe _ _ _ _ => x.unreadBefore o.tid o.seq
  | _ => ! x.clearBefore o.tid o.seq

/-- Whether an entry waits behind reads of its thread. -/
def SbEntry.behind (x : Slot) (e : SbEntry) : Bool :=
  if e.kind.parts.isSome then x.unreadBefore e.tid e.seq else x.loadBefore e.tid e.seq

/-- An operation of core c's slot as a pre-emption leaves it: one that waits is withdrawn. -/
def withdrawOp (r : Run) (c sl : Nat) (o : AsyncOp) : AsyncOp :=
  match o.kind, o.st with
  | .barrier _ _, _ => o
  | .fork _ _, _ => o
  | .recv _, _ => o
  | .xwait a _ false, .sent =>
    if (r.xwaitRead c sl o a).isNone then { o with st := .withdrawn } else o
  | _, .waiting => { o with st := .withdrawn }
  | _, .paged => { o with st := .withdrawn }
  | _, .sent =>
    if o.peerWaits r.s c && ! o.behind (r.s.slot c sl) then { o with st := .withdrawn } else o
  | _, _ => o

/-- A message that cannot be delivered because the receive store of its destination is full. -/
def holdMessage (s : State) (m : OutMsg) : OutMsg :=
  if takesDirect s m.dest m.msg.pid ∧ 64 ≤ (s.core m.dest).rx.length then { m with held := true }
  else m

/-- A store buffer as a pre-emption leaves it: a head that waits at its home, or at a pre-empted peer rank, is
held. -/
def withdrawHead (s : State) (c sl : Nat) (x : Slot) : List SbEntry :=
  match x.sb with
  | [] => []
  | e :: l =>
    let waits := s.feWaits.any fun w => w.core == c && w.slot == sl && w.seq == e.seq
    { e with held := e.held || waits || (e.peerWaits s c && ! e.behind x) } :: l

/-- The waits of one slot withdrawn. -/
def Run.withdrawSlot (r : Run) (c sl : Nat) : Run :=
  let x := r.s.slot c sl
  let y := { x with
    async := x.async.map (withdrawOp r c sl),
    sb := withdrawHead r.s c sl x,
    outq := x.outq.map (holdMessage r.s) }
  if y = x then r else r.emit (.slot c sl y)

/-- The waits of a core's slots withdrawn: nothing of it is on a wait list. -/
def Run.withdrawCore (r : Run) (c : Nat) : Run :=
  let r := (List.range 16).foldl (fun r sl => r.withdrawSlot c sl) r
  r.emit (.waits (r.s.feWaits.filter fun w => w.core ≠ c))

/-! ### The interrupt (16 R366) -/

/-- The area that still holds the spilled messages of a context that has been resumed on core c. -/
def leftOver (s : State) (c n : Nat) : Option (Nat × SaveArea) :=
  s.gaffer.saves.find? fun e => e.2.pos == c && e.2.ctx == n && e.2.left

/-- The save areas beside the one left over on core c. -/
def otherAreas (s : State) (c n : Nat) : Map SaveArea :=
  match leftOver s c n with
  | some (k, _) => mapDel s.gaffer.saves k
  | none => s.gaffer.saves

/-- The save area in which a pre-emption of core c begins; the messages still spilled for the context
there pass into it. -/
def Run.beginArea (r : Run) (c n : Nat) (pid : BitVec 20) (emergency : Bool) : Option Run :=
  (newArea r.s (otherAreas r.s c n) c emergency).map fun addr =>
    let old := leftOver r.s c n
    let a : SaveArea :=
      { addr := addr, size := areaBytes emergency, pos := c, goal := none, left := false, pid := pid,
        ctx := n, time := r.s.time, complete := false, core := CoreSt.reset, slots := [], mem := [],
        empties := [], spill := (old.map fun e => e.2.spill).getD [] }
    let k := (old.map Prod.fst).getD (freshKey r.s.gaffer.saves)
    (r.modGaffer fun g => { g with saves := mapPut g.saves k a }).regionWrite addr (toBytes 8 0)

/-- A core interrupted: its slots stop, its waits are withdrawn, and a licence that its quad holds
is to be yielded (07 R215, R217). -/
def Run.interrupt (r : Run) (c : Nat) (emergency : Bool) : Option Run :=
  match (r.s.core c).ctx, r.s.ctxOf c with
  | some n, some x =>
    if (r.s.core c).pre.isSome then none
    else (r.beginArea c n x.pid emergency).map fun r =>
      let r := r.modCore c fun y => { y with pre := some { time := r.s.time, emergency := emergency } }
      let r := r.withdrawCore c
      let q := quadOf c
      if (r.s.quad q).held then
        r.modQuad q fun z => { z with
          pre := true, hold := z.hold &&& ~~~ BitVec.ofNat 4 (2 ^ coreRank c) }
      else r
  | _, _ => none

/-- The step `PREEMPTION_INTERRUPT` of core `sel.core`. -/
def preemptionInterruptRun (s : State) : Option (List Eff) :=
  if s.paused then none
  else ((Run.start s).interrupt s.sel.core (decide (3 ≤ s.power.thermal))).map Run.done

/-! ### The save (16 R366, R368, R369) -/

/-- Whether the Lehr has stopped at an instruction that waits for a page. -/
def lehrHeld (s : State) (c : Nat) : Bool :=
  match (s.ctxOf c).bind Context.scene with
  | some sc => ! sc.queue.isEmpty
  | none => false

/-- Whether an operation is saved as it stands: it has been withdrawn, or waits behind what has. -/
def opHeld (s : State) (c sl : Nat) (o : AsyncOp) : Bool :=
  match o.kind, o.st with
  | _, .withdrawn => true
  | _, .waiting => true
  | _, .paged => true
  | .fork _ _, .done _ => ((Run.start s).forkPush c sl o.seq).isNone
  | _, .done _ => false
  | .recv _, .sent => true
  | .xwait a _ _, .sent => ((Run.start s).xwaitRead c sl o a).isNone
  | .layer _, .sent => o.behind (s.slot c sl) || lehrHeld s c
  | _, .sent => o.behind (s.slot c sl) || o.peerWaits s c

/-- Whether a store buffer has drained up to its first held entry; an entry that waits for a read
that has been withdrawn is held with it (log 64). -/
def sbHeld (s : State) (c sl : Nat) : Bool :=
  let x := s.slot c sl
  match withdrawHead s c sl x with
  | [] => true
  | e :: _ => e.held || e.behind x

/-- Whether some other rank of a core's quad is pre-empted, so that accesses to it wait (16 R371). -/
def peerAway (s : State) (c : Nat) : Bool :=
  (List.range 4).any fun k => peerReach s c (quadMember (quadOf c) k) == some false

/-- Whether a collective waits for a page: its part of a saved core stays with it (16 R367). -/
def Collective.paged (s : State) (k : Collective) : Bool :=
  k.full s && (k.parts.any Contribution.saved || (match (Run.start s).collective k none with
    | .page _ _ => true
    | _ => false))

/-- Whether an engine of a core has nothing more to complete: a command that waits for a page or for a
pre-empted peer rank stays with the context, or with its collective. A command of e3 completes with its
collective (08 R239, 16 R366, R367). -/
def engineHeld (s : State) (c eng : Nat) : Bool :=
  match ((s.core c).engine eng).run with
  | none => (nextServed s c eng).isNone
      && (eng != 3 || s.colls.all fun k => (k.parts.all fun q => q.core != c) || k.paged s)
  | some (sl, cmd) =>
    eng != 3 && (match (Run.start s).runCommand c eng sl cmd none with
      | .page _ _ => true
      | .wait => peerAway s c
      | .finished _ => false)

/-- Whether a slot has nothing more to complete before a save. -/
def slotHeld (s : State) (c sl : Nat) : Bool :=
  let x := s.slot c sl
  x.async.all (opHeld s c sl) && sbHeld s c sl && x.solves.isEmpty
    && (List.range x.outq.length).all fun i => ((Run.start s).deliver c sl i).isNone

/-- The dword SKIP of a core's supervisor (16 R368), or all parts at an emergency save. -/
def skipOf (s : State) (c : Nat) (emergency : Bool) : Nat :=
  if emergency then 0xFFFF else ofBytes (readBytes s.mem (localKey c .wm 0x4C0) 2)

/-- Whether a byte of a core's local memories, by its distance from the core's first key, is saved:
the parts of WB and AB that SKIP names are not. -/
def savedByte (skip k : Nat) : Bool :=
  let part := k % 2 ^ 17 / 2 ^ 14
  if k / 2 ^ 17 = 1 then ! skip.testBit part
  else if k / 2 ^ 17 = 2 then ! skip.testBit (8 + part)
  else true

/-- The first key of a core's local memories. -/
def coreBase (c : Nat) : Nat := localKey c .wm 0

/-- The bytes of a core's local memories that a save keeps, by their distance from its first key. -/
def savedCells (s : State) (c skip : Nat) : List Host.Cell :=
  (s.mem.filter fun e => decide (coreBase c ≤ e.1) && decide (e.1 < coreBase c + 2 ^ 19)
      && savedByte skip (e.1 - coreBase c)).map fun e => (e.1 - coreBase c, e.2)

/-- The empty dwords of a core's WM, by their distance from its first key. -/
def savedEmpties (s : State) (c : Nat) : List Nat :=
  (s.empties.filter fun k => decide (coreBase c ≤ k) && decide (k < coreBase c + 2 ^ 17)).map
    fun k => k - coreBase c

/-- The slots of a core. -/
def savedSlots (s : State) (c : Nat) : Map Slot :=
  (s.slots.filter fun e => e.1 / 16 == c).map fun e => (e.1 % 16, e.2)

/-- The header of a save area; LEN is a free value from the header's bytes to the area's (log 21). -/
def areaHeader (a : SaveArea) (free : Nat) : List Byte :=
  toBytes 8 (0xA0 * 2 ^ 56 + 2 ^ 48 + 32 + (Config.bits free 0).toNat % (a.size - 31))
    ++ toBytes 8 (a.pid.toNat * 2 ^ 24 + a.pos) ++ wordBytes a.time ++ toBytes 8 0

/-- A save area written: its first dword last (16 R369). -/
def Run.writeHeader (r : Run) (a : SaveArea) : Run :=
  let h := areaHeader a r.s.free
  ((r.regionWrite (a.addr + 8) (h.drop 8)).regionWrite a.addr (h.take 8)).emit .free

/-- A core that no instruction at the Lehr names any more. -/
def Run.leaveLehr (r : Run) (c n : Nat) : Run :=
  r.modCtx n fun y => { y with
    scene := y.scene.map fun z => { z with queue := z.queue.filter fun q => q.1 ≠ c } }

/-- The collectives when a core is saved: its parts stay with those that are whole. -/
def Run.saveParts (r : Run) (c : Nat) : Run :=
  r.emit (.colls (r.s.colls.map fun k =>
    if k.parts.any fun p => p.core == c then { k with
      whole := true, parts := k.parts.map fun p => if p.core = c then { p with saved := true } else p }
    else k))

/-- The step `PREEMPTION_SAVE` of core `sel.core`: everything that is not withdrawn has completed;
the state is saved, the header written, and the core is free. -/
def preemptionSaveRun (s : State) : Option (List Eff) :=
  let c := s.sel.core
  let x := s.core c
  match x.pre, x.ctx, s.gaffer.saves.find? fun e =>
      e.2.pos == c && some e.2.ctx == x.ctx && ! e.2.left && ! e.2.complete with
  | some p, some n, some (k, a) =>
    if ! ((List.range 16).all (slotHeld s c)) || ! ((List.range 4).all (engineHeld s c))
        || ! x.matq.isEmpty then none
    else
      let r := (((Run.start s).withdrawCore c).leaveLehr c n).saveParts c
      let skip := skipOf r.s c p.emergency
      let a := { a with
        complete := true, time := p.time, core := { r.s.core c with pre := none },
        slots := savedSlots r.s c, mem := savedCells r.s c skip, empties := savedEmpties r.s c }
      let r := r.modGaffer fun g => { g with saves := mapPut g.saves k a }
      some ((r.writeHeader a).returnCore c).done
  | _, _, _ => none

/-! ### Resumption and migration (16 R372, R373) -/

/-- An operation as it is sent again. -/
def resendOp (o : AsyncOp) : AsyncOp :=
  match o.kind, o.st with
  | .barrier _ _, _ => o
  | _, .paged => { o with st := .sent }
  | .fork _ _, _ => o
  | _, .waiting => { o with st := .sent }
  | _, .withdrawn => { o with st := .sent }
  | _, _ => o

/-- A saved slot as it stands on a core again: its thread's waits count from the core's cycle. -/
def Slot.resumed (x : Slot) (cycle seq : Nat) : Slot :=
  { x with
    outq := x.outq.map fun m => { m with held := false },
    park := x.park.map fun p => { p with cycle := cycle },
    asleep := x.asleep.map fun a => { a with cycle := cycle },
    seq := max x.seq seq }

/-- Whether an operation is sent again at a resumption. -/
def AsyncOp.resent (o : AsyncOp) : Bool := decide (resendOp o ≠ o)

/-- What is sent again: an operation of a slot, or the head of its store buffer. -/
structure Resend where
  slot  : Nat
  cycle : Int
  op    : Option AsyncOp
deriving DecidableEq, Repr

/-- Something put into a list ordered by the time of issue. -/
def insertResend (x : Resend) : List Resend → List Resend
  | [] => [x]
  | y :: l => if x.cycle < y.cycle then x :: y :: l else y :: insertResend x l

/-- The head of a store buffer that has been withdrawn. -/
def Slot.resentHead (sl : Nat) (x : Slot) : List Resend :=
  match x.sb with
  | [] => []
  | e :: _ => if e.held then [{ slot := sl, cycle := e.cycle, op := none }] else []

/-- What a resumption sends again for some saved slots, in the original issue order. -/
def resendList (m : Map Slot) : List Resend :=
  (m.flatMap fun x => x.2.resentHead x.1 ++ (x.2.async.filter AsyncOp.resent).map fun o =>
    { slot := x.1, cycle := o.cycle, op := some o }).foldl (fun l x => insertResend x l) []

/-- An operation that has been sent again performed at once if it can be, so that what was issued
first reaches its home first. -/
def Run.sendNow (r : Run) (c sl : Nat) (o : AsyncOp) : Run :=
  match o.kind with
  | .fe k sp a _ => (r.feLoadHome c sl o k sp a).getD r
  | .load _ _ _ _ => if (r.s.slot c sl).unreadBefore o.tid o.seq then r else r.satisfy c sl o
  | _ => (r.homeAtomic c sl o.seq).getD r

/-- The head of a slot's store buffer sent again, in place n below 0. -/
def Run.resendHead (r : Run) (c sl : Nat) (n : Int) : Run :=
  let r := r.modSlot c sl fun x => { x with sb := match x.sb with
    | [] => []
    | e :: l => { e with held := false, cycle := n } :: l }
  (r.drainHead c sl).getD r

/-- The withdrawn operations of a core sent again, in their original issue order (16 R372). -/
def Run.resendFrom (r : Run) (c : Nat) : List Resend → Run
  | [] => r
  | x :: l =>
    let n := - (l.length : Int) - 1
    (match x.op with
    | some o =>
      let o := { resendOp o with cycle := n }
      (r.modSlot c x.slot fun x => x.setOp o).sendNow c x.slot o
    | none => r.resendHead c x.slot n).resendFrom c l

/-- A scope-group entry in which a core's bit has moved (16 R373). -/
def moveBit (g : BitVec 4096) (a b : Nat) : BitVec 4096 :=
  if g.getLsbD a then (g &&& ~~~ BitVec.ofNat 4096 (2 ^ a)) ||| BitVec.ofNat 4096 (2 ^ b) else g

/-- Where the cores of a context stand after one has moved. -/
def moveMap (m : Map Nat) (a b : Nat) : Map Nat :=
  let m := mapDel (m.map fun e => (e.1, if e.2 = a then b else e.2)) b
  if a = b then mapDel m a else mapPut m a b

/-- A context one of whose cores has moved. -/
def Context.move (x : Context) (a b : Nat) : Context :=
  { x with
    groups := x.groups.map fun g => (g.1, moveBit g.2 a b),
    moved := moveMap x.moved a b }

/-- The barrier network and the collectives after a core of a process has been resumed elsewhere, or where it
was. -/
def Run.moveNetworks (r : Run) (pid : BitVec 20) (a b : Nat) : Run :=
  let r := r.emit (.episodes (r.s.episodes.map fun e =>
    if e.name.pid = pid then { e with
      arrivals := e.arrivals.map fun t => if t.1 = a then (b, t.2) else t } else e))
  r.emit (.colls (r.s.colls.map fun k =>
    if k.pid = pid then { k with
      parts := k.parts.map fun p => if p.core = a ∧ p.saved then { p with core := b, saved := false } else p }
    else k))

/-- Whether an area may be resumed on core t: the saved position, or the same rank of another quad
to which every core of the context in the old quad moves (16 R372). -/
def mayResume (s : State) (a : SaveArea) (t : Nat) : Bool :=
  let q := quadOf t
  let home := quadOf a.pos
  let running := (List.range 4).any fun r =>
    let c := quadMember home r
    (s.core c).ctx == some a.ctx && (s.core c).pre.isNone
  decide (t < 4096) && coreRank t == coreRank a.pos && (s.core t).ctx.isNone
    && (match a.goal with
      | some g => q == g
      | none => q == home || ! running)

/-- The areas of a context in a quad, all bound for the quad to which one of them has gone. -/
def Run.setGoal (r : Run) (a : SaveArea) (q : Nat) : Run :=
  r.modGaffer fun g => { g with saves := g.saves.map fun e =>
    if e.2.ctx == a.ctx && quadOf e.2.pos == quadOf a.pos && ! e.2.left then
      (e.1, { e.2 with goal := some q })
    else e }

/-- The saved bytes and tags put back into core t, with the clean map of its WM. -/
def Run.restoreCells (r : Run) (a : SaveArea) (t : Nat) : Run :=
  let r := a.mem.foldl (fun r e => r.emit (.mem (coreBase t + e.1) [e.2])) r
  let r := a.empties.foldl (fun r k => r.emit (.tag (coreBase t + k) false)) r
  r.modCore t fun y => { y with dirty := a.core.dirty }

/-- Spilled messages taken into the receive store of core t while it has room (16 R370). -/
def Run.takeSpill (r : Run) (k t : Nat) : Nat → Run
  | 0 => r
  | n + 1 =>
    match mapFind r.s.gaffer.saves k with
    | none => r
    | some a =>
      match a.spill with
      | [] => r.modGaffer fun g => { g with saves := mapDel g.saves k }
      | m :: rest =>
        if 64 ≤ (r.s.core t).rx.length then r
        else
          let r := r.modGaffer fun g => { g with saves := mapPut g.saves k { a with spill := rest } }
          ((r.modCore t fun y => { y with rx := y.rx ++ [m] }).serveRecvs t).takeSpill k t n

/-- An area whose state has been restored on core t: only its spill queue is left. -/
def SaveArea.emptied (a : SaveArea) (t : Nat) : SaveArea :=
  { a with pos := t, goal := none, left := true, complete := false, core := CoreSt.reset,
           slots := [], mem := [], empties := [] }

/-- The resumption of area k on core t. -/
def Run.resume (r : Run) (k : Nat) (a : SaveArea) (t : Nat) : Run :=
  let old := r.s.core t
  let shpen := (((mapFind r.s.gaffer.ctxs a.ctx).bind Context.scene).map Scene.shpen).getD 0
  let r := r.clearCore t fun _ => { a.core with ctx := some a.ctx, pre := none, idle := 0, shpen := shpen }
  let r := r.restoreCells a t
  let r := r.emits (putQueue t (r.s.core t))
  let r := a.slots.foldl (fun r e =>
    r.modSlot t e.1 fun y => e.2.resumed old.cycle.toNat y.seq) r
  let r := (r.modCtx a.ctx fun x => x.move a.pos t).moveNetworks a.pid a.pos t
  let r := r.setGoal a (quadOf t)
  let r := r.modGaffer fun g => { g with saves := mapPut g.saves k (a.emptied t) }
  let r := r.resendFrom t (resendList a.slots)
  (r.serveRecvs t).takeSpill k t (a.spill.length + 1)

/-- The step `CONTEXT_RESUME` of save area `sel.num` on core `sel.core`. A context that was created again
after a trip is given its first core so, and its tables are read first (25 R450, 15 R340). -/
def contextResumeRun (s : State) : Option (List Eff) :=
  let k := s.sel.num
  let t := s.sel.core
  match mapFind s.gaffer.saves k with
  | none => none
  | some a =>
    match mapFind s.gaffer.ctxs a.ctx with
    | none => none
    | some x =>
      let r := Run.start s
      if ! a.complete ∨ a.left ∨ 3 ≤ s.power.thermal ∨ ! mayResume s a t then none
      else if x.given then some (r.resume k a t).done
      else match r.firstCore a.ctx x with
        | .ok _ r => some (r.resume k a t).done
        | .wait q => some (r.waiting q).done
        | .fault _ _ _ _ => none

/-! ### Messages (16 R370) -/

/-- Where a message bound for core d goes: delivered into a core, joined to a spill queue, or
dropped. -/
inductive Route where
  | core (c : Nat)
  | spill (k : Nat)
  | drop
deriving DecidableEq, Repr

/-- The core to which a core of a process has been migrated. -/
def movedTo (s : State) (pid : BitVec 20) (d : Nat) : Nat :=
  match firstSome (fun e => if e.2.pid = pid then mapFind e.2.moved d else none) s.gaffer.ctxs with
  | some t => t
  | none => d

/-- The spill queue of a process at a position. -/
def spillAt (s : State) (pid : BitVec 20) (t : Nat) : Option Nat :=
  (s.gaffer.saves.find? fun e => e.2.pid == pid && e.2.pos == t).map Prod.fst

/-- The route of a message: the core or save area of its destination, else where the process runs
or is saved; among several such cores, `pick` (log 22). -/
def routeOf (s : State) (d : Nat) (pid : BitVec 20) (pick : Nat) : Route :=
  let t := movedTo s pid d
  if takesMessages s t pid then .core t
  else match spillAt s pid t with
    | some k => .spill k
    | none =>
      if takesMessages s pick pid then .core pick
      else match s.cores.find? fun e => takesMessages s e.1 pid with
        | some e => .core e.1
        | none =>
          match s.gaffer.saves.find? fun e => e.2.pid == pid with
          | some e => .spill e.1
          | none => .drop

/-- A message that joins the spill queue of an area. -/
def Run.addSpill (r : Run) (k : Nat) (m : Msg) : Run :=
  match mapFind r.s.gaffer.saves k with
  | some a => r.modGaffer fun g => { g with
      saves := mapPut g.saves k { a with spill := a.spill ++ [m] } }
  | none => r

/-- The step `MESSAGE_FORWARD`: message `sel.num` of those the Gaffer holds is forwarded, spilled or
dropped; or, when `sel.yes`, a core to which a context has returned takes the oldest messages of
the spill queue of area `sel.num`. -/
def messageForwardRun (s : State) : Option (List Eff) :=
  let g := s.gaffer
  let r := Run.start s
  if s.sel.yes then
    match mapFind g.saves s.sel.num with
    | none => none
    | some a =>
      if a.left ∧ (s.core a.pos).ctx = some a.ctx ∧ (s.core a.pos).pre.isNone
          ∧ (a.spill = [] ∨ (s.core a.pos).rx.length < 64) then
        some (r.takeSpill s.sel.num a.pos (a.spill.length + 1)).done
      else none
  else
    match g.msgs[s.sel.num]? with
    | none => none
    | some (d, m) =>
      if (g.msgs.take s.sel.num).any fun e => e.1 == d && e.2.pid == m.pid then none
      else
        let r := r.modGaffer fun g => { g with msgs := g.msgs.eraseIdx s.sel.num }
        match routeOf s d m.pid s.sel.core with
        | .drop => some r.done
        | .spill k => some (r.addSpill k m).done
        | .core c =>
          if 64 ≤ (s.core c).rx.length then none
          else some ((r.modCore c fun y => { y with rx := y.rx ++ [m] }).serveRecvs c).done

/-! ### The steps -/

/-- The step `PREEMPTION_INTERRUPT`. -/
def execPreemptionInterrupt (s : State) : Host.Outcome State Fault Refusal :=
  finish s (preemptionInterruptRun s)

/-- The step `PREEMPTION_SAVE`. -/
def execPreemptionSave (s : State) : Host.Outcome State Fault Refusal :=
  finish s (preemptionSaveRun s)

/-- The step `CONTEXT_RESUME`. -/
def execContextResume (s : State) : Host.Outcome State Fault Refusal :=
  finish s (contextResumeRun s)

/-- The step `MESSAGE_FORWARD`. -/
def execMessageForward (s : State) : Host.Outcome State Fault Refusal :=
  finish s (messageForwardRun s)

end Sys2Proof.Machine
end

