-- ==== Sys2Proof/Machine/Paging.lean ====
section
/-!
DEFINITION. The replies to page requests: every access that waits for the page walks the tables
again, or faults 0x44 (16 R364, 25 R444, R445, 15 R352).
-/

namespace Sys2Proof.Machine

/-- What a reply comes to for one waiting access. -/
inductive Verdict where
  | present
  /-- The page is still absent, and a new request is raised. -/
  | again
  | rejected
deriving DecidableEq, Repr

/-- A reply: the process, the page, whether the host has completed the request, and the launches whose
accesses waited. -/
structure Reply where
  pid  : BitVec 20
  page : Nat
  ok   : Bool
  launches : List Nat
deriving DecidableEq, Repr

/-- Whether a page is still absent in a context's tables. -/
def pageAbsent (s : State) (x : Option Context) (page : Nat) : Bool :=
  match translate s x (page * 4096) .read with
  | .page => true
  | _ => false

/-- The verdict for an access with so many completions behind it that found the page absent. -/
def Reply.verdict (p : Reply) (s : State) (x : Option Context) (tries : Nat) : Verdict :=
  if ! p.ok then .rejected
  else if ! pageAbsent s x p.page then .present
  else if 3 ≤ tries + 1 then .rejected
  else .again

/-- Whether an address lies in the page of a reply. -/
def Reply.covers (p : Reply) (a : Nat) : Bool := a / 4096 == p.page

/-- A new request for the page of a reply. -/
def Run.askAgain (r : Run) (p : Reply) (write : Bool) : Run :=
  r.emit (.pages (raisePage r.s p.pid (p.page * 4096) write p.launches))

/-- Whether a step, taken as `sel` says, would request the page of a reply, and whether to write it. -/
def wantsPage (s : State) (sel : Sel) (p : Reply) (f : State → Option (List Eff)) : Option Bool :=
  let s := { s with sel := sel, pageReqs := [] }
  match f s with
  | some l => ((applyAll s l).pageReqs.find? fun q => q.pid == p.pid && q.page == p.page).map PageReq.write
  | none => none

/-- What several accesses that may wait come to: whether one does, and whether one writes. -/
def wantsAny (l : List (Option Bool)) : Option Bool :=
  match l.filterMap id with
  | [] => none
  | l => some (l.any id)

/-! ### Operations and stores -/

/-- The GL addresses of an operation's accesses. -/
def AsyncOp.glAddrs (o : AsyncOp) : List Nat :=
  match o.kind with
  | .load .gl lanes _ _ => lanes.map Lane.addr
  | .fe _ .gl a _ => [a]
  | .amo _ .gl a _ _ => [a]
  | .cas .gl a _ _ _ => [a]
  | .join a => [a]
  | .fork a _ => [a]
  | .susp a _ => [a]
  | _ => []

/-- Whether an operation only reads. -/
def AsyncOp.readsOnly (o : AsyncOp) : Bool :=
  match o.kind with
  | .load _ _ _ _ => true
  | _ => false

/-- The address in the page of a reply for which an operation of a slot waits. -/
def opWaits (p : Reply) (o : AsyncOp) : Option Nat :=
  if o.st = .paged then o.glAddrs.find? p.covers else none

/-- A reply for one operation. -/
def Run.answerOp (r : Run) (p : Reply) (c sl : Nat) (o : AsyncOp) : Run :=
  match opWaits p o with
  | none => r
  | some a =>
    match p.verdict r.s (r.s.ctxOf c) o.tries with
    | .present => r.modSlot c sl fun x => x.setOp { o with st := .sent, tries := 0 }
    | .again => (r.modSlot c sl fun x => x.setOp { o with tries := o.tries + 1 }).askAgain p
        (! o.readsOnly)
    | .rejected => r.failOp c sl o 0x44 (BitVec.ofNat 64 a) 0

/-- The accesses of a store-buffer entry: lane, address. -/
def SbEntry.addrs (e : SbEntry) : List (Nat × Nat) :=
  match e.kind with
  | .store .gl l => ((List.range l.length).zip l).filterMap fun q =>
      if q.2.2 = [] then none else some (q.1, q.2.1)
  | .masked .gl a _ _ => [(0, a)]
  | .stfe .gl a _ => [(0, a)]
  | .stff .gl a _ => [(0, a)]
  | .feset .gl a _ => [(0, a)]
  | _ => []

/-- The parts of a store before a lane. -/
def SbEntry.before (e : SbEntry) (lane : Nat) : List (Nat × List Byte) :=
  match e.kind with
  | .store .gl l => l.take lane
  | _ => []

/-- A reply for the entry at the head of a slot's store buffer. -/
def Run.answerHead (r : Run) (p : Reply) (c sl : Nat) : Run :=
  match (r.s.slot c sl).sb with
  | [] => r
  | e :: rest =>
    if ! e.held ∨ (r.s.core c).pre.isSome then r
    else match e.addrs.find? fun q => p.covers q.2 with
      | none => r
      | some (lane, a) =>
        let put (r : Run) (e : SbEntry) : Run := r.modSlot c sl fun x => { x with sb := e :: rest }
        match p.verdict r.s (r.s.ctxOf c) e.tries with
        | .present => put r { e with held := false, tries := 0 }
        | .again => (put r { e with tries := e.tries + 1 }).askAgain p true
        | .rejected =>
          let r := match storeParts r.s c .gl 0 (e.before lane) [] with
            | (.ok _ l, _, _) => r.emits l
            | _ => r
          (r.storeFault c sl e 0x44 (BitVec.ofNat 64 a) 0).popSb c sl

/-! ### The next bundle of a thread -/

/-- The last word of a `loop`'s body, for the bundle at a PC. -/
def loopLast (s : State) (c sl pc : Nat) : List Nat :=
  match fetchBundle s c sl pc with
  | .words l _ => l.filterMap fun w => match decodeWord w with
    | .ok (.loop _ _ n) => some (pc + 4 * l.length + 4 * (n.toNat - 1))
    | _ => none
  | _ => []

/-- The places of a context's overflow ring that a spill would write. -/
def spillPlaces (s : State) (c : Nat) : List Nat :=
  match s.ctxOf c with
  | some x => (List.range 32).map fun i => x.ovfAt (x.ovfTop + i)
  | none => []

/-- The address for which the issue of a slot's next bundle waits, in the page of a reply, and whether it is to
be written. -/
def bundleWaits (s : State) (p : Reply) (c sl : Nat) : Option (Nat × Bool) :=
  let x := s.slot c sl
  if slotBarred s c sl ∨ x.faults ≠ [] ∨ x.park.isSome then none
  else (wantsPage s s.sel p fun s => some ((Run.start s).fetchIssue c sl).done).map fun w =>
    let pc := fetchPc s c sl
    ((([pc, pc + 4] ++ loopLast s c sl pc ++ spillPlaces s c).find? p.covers).getD (p.page * 4096), w)

/-- A reply for the next bundle of a slot's thread. -/
def Run.answerBundle (r : Run) (p : Reply) (c sl : Nat) : Run :=
  match bundleWaits r.s p c sl with
  | none => r
  | some (a, w) =>
    let x := r.s.slot c sl
    match p.verdict r.s (r.s.ctxOf c) x.tries with
    | .present => r.modSlot c sl fun x => { x with tries := 0 }
    | .again => (r.modSlot c sl fun x => { x with tries := x.tries + 1 }).askAgain p w
    | .rejected =>
      let pc := fetchPc r.s c sl
      let r := r.modSlot c sl fun x => { x with tries := 0 }
      let pair : Bool := match fetchWord r.s c sl pc with
        | .ok w _ => ! w.getLsbD 31
        | _ => false
      r.trapAt c sl pc (pc + 4) pair 0x44 (BitVec.ofNat 64 a) 0

/-! ### Streams, forks, engines, collectives -/

/-- A reply for the copy bound to a stream port. -/
def Run.answerStream (r : Run) (p : Reply) (c sl t : Nat) (b : Stream) : Run :=
  match streamNext r.s c b with
  | .page a =>
    if ! p.covers a ∨ (wantsPage r.s { core := c, slot := sl, num := t } p streamElementArrivalRun).isNone then r
    else
      let put (r : Run) (n : Nat) : Run := r.modSlot c sl fun x => { x with
        streams := mapPut x.streams t { b with tries := n } }
      match p.verdict r.s (r.s.ctxOf c) b.tries with
      | .present => put r 0
      | .again => (put r (b.tries + 1)).askAgain p false
      | .rejected => r.putStream c sl t (.fault 0x44 (BitVec.ofNat 64 a))
  | _ => r

/-- A reply for the push of a fork's record, whose spill waits. -/
def Run.answerFork (r : Run) (p : Reply) (c sl : Nat) (o : AsyncOp) : Run :=
  match wantsPage r.s { core := c, slot := sl, num := o.seq } p forkRecordPushRun with
  | none => r
  | some w =>
    match p.verdict r.s (r.s.ctxOf c) o.tries with
    | .present => r.modSlot c sl fun x => x.setOp { o with tries := 0 }
    | .again => (r.modSlot c sl fun x => x.setOp { o with tries := o.tries + 1 }).askAgain p w
    | .rejected =>
      match { r with rejects := [(p.pid, p.page)] }.forkPush c sl o.seq with
      | some q => { q with rejects := r.rejects }
      | none => r

/-- A reply for the command that an engine executes. -/
def Run.answerEngine (r : Run) (p : Reply) (c eng : Nat) : Run :=
  match ((r.s.core c).engine eng).run with
  | none => r
  | some (sl, cmd) =>
    if eng = 3 then r
    else match r.runCommand c eng sl cmd none with
      | .page a w =>
        if ! p.covers a then r
        else
          let put (r : Run) (n : Nat) : Run :=
            r.modCore c fun y => y.setEngine eng { y.engine eng with tries := n }
          let tries := ((r.s.core c).engine eng).tries
          match p.verdict r.s (r.s.ctxOf c) tries with
          | .present => put r 0
          | .again => (put r (tries + 1)).askAgain p w
          | .rejected =>
            match r.runCommand c eng sl cmd (some p.page) with
            | .finished q => q
            | _ => r
      | _ => r

/-- A reply for a collective. -/
def Run.answerCollective (r : Run) (p : Reply) (k : Collective) : Run :=
  if k.pid ≠ p.pid ∨ ! k.ready r.s then r
  else match r.collective k none with
    | .page a w =>
      if ! p.covers a then r
      else
        let put (r : Run) (n : Nat) : Run := r.emit (.colls (r.s.colls.map fun x =>
          if x.same k then { x with tries := n } else x))
        let x := (k.parts.head?).bind fun q => r.s.ctxOf q.core
        match p.verdict r.s x k.tries with
        | .present => put r 0
        | .again => (put r (k.tries + 1)).askAgain p w
        | .rejected =>
          match r.collective k (some p.page) with
          | .finished q => q
          | _ => r
    | _ => r

/-! ### The Lehr -/

/-- Whether the Lehr waits for a page for a scene, and to write it: for the instruction that it has begun,
for a frame that starts or ends, or for a record of the render deque. -/
def sceneWaits (s : State) (p : Reply) (k : Nat) (x : Context) (sc : Scene) : Option Bool :=
  let sel : Sel := { num := k }
  wantsAny [if sc.queue.isEmpty then none else wantsPage s sel p layerInstructionPerformRun,
    wantsPage s sel p frameEndRun, wantsPage s sel p frameStartRun,
    wantsPage s sel p fun s => match (Run.start s).renderTake k x sc with
      | .wait q => some q.done
      | _ => none]

/-- A reply for the Lehr's accesses for the scene of context k. -/
def Run.answerScene (r : Run) (p : Reply) (k : Nat) (x : Context) : Run :=
  match x.scene with
  | none => r
  | some sc =>
    match sceneWaits r.s p k x sc with
    | none => r
    | some w =>
      let tries := mapGet 0 sc.tries p.page
      let put (r : Run) (f : Scene → Scene) : Run :=
        r.modCtx k fun y => { y with scene := y.scene.map f }
      match p.verdict r.s (some x) tries with
      | .present => r
      | .again => (put r fun z => { z with tries := mapSet 0 z.tries p.page (tries + 1) }).askAgain p w
      | .rejected => put r fun z => { z with rejected := setPut z.rejected p.page true }

/-! ### The Gaffer -/

/-- The key under which the Gaffer counts completions for a page. -/
def Reply.key (p : Reply) : Nat := p.pid.toNat * 2 ^ 45 + p.page

/-- The verdict for an access of the Gaffer. -/
def Reply.gaffer (p : Reply) (s : State) (x : Option Context) : Verdict :=
  p.verdict s x (mapGet 0 s.gaffer.tries p.key)

/-- What a reply comes to for accesses of the Gaffer that wait for its page, `w` as they write. -/
def Run.answerGaffer (r : Run) (p : Reply) (x : Option Context) (w : Option Bool) (present rejected : Run → Run) :
    Run :=
  match w with
  | none => r
  | some w => match p.gaffer r.s x with
    | .present => present r
    | .again => r.askAgain p w
    | .rejected => rejected r

/-- Whether the reads that precede a context's first core wait for a page: a launch or a saved area
wants the core (15 R340, 17 R375, 25 R450). -/
def tablesWait (s : State) (p : Reply) (n : Nat) (x : Context) : Option Bool :=
  if x.given ∨ ! ((s.gaffer.launches.any fun l => l.2.ctx == n && ! l.2.placed && ! l.2.failed)
      || s.gaffer.saves.any fun a => a.2.ctx == n) then none
  else wantsPage s {} p fun s => match (Run.start s).firstCore n x with
    | .wait q => some q.done
    | _ => none

/-- A reply for the reads that precede a context's first core. -/
def Run.answerTables (r : Run) (p : Reply) (n : Nat) (x : Context) : Run :=
  r.answerGaffer p (some x) (tablesWait r.s p n x) id fun r =>
    r.modCtx n fun y => { y with rejected := setPut y.rejected p.page true }

/-- The signal for whose page a queue waits, when the page is that of a reply: the first of its packet's
signals that is not there (15 R352). -/
def signalWaited (s : State) (p : Reply) (q : Queue) (d : List Word) : Option Nat :=
  if q.pageAt.isNone then none
  else match (packetSignals d).find? fun a => p.covers a || pageAbsent s (s.queueCtx q) (a / 4096) with
    | some a => if p.covers a then some a else none
    | none => none

/-- Whether the Gaffer changes a signal of a packet that holds a queue: a BARRIER-AND's own. -/
def signalWritten (d : List Word) (a : Nat) : Bool := packetKind d == 4 && ! (barrierSignals d).contains a

/-- A queue whose signal's page has come: while it holds its slot the signal is read at once, and a
parked queue joins its level's list (15 R352). -/
def Run.queuePage (r : Run) (k : Nat) : Run :=
  let held := ((mapFind r.s.gaffer.queues k).map Queue.slot).getD false
  let r := (r.modQueue k fun q => { q with pageAt := none, parked := false }).settle k
  if held then r.emit (.due .signalReread { num := k }) else r

/-- A reply for the signals of the packet that holds a queue. -/
def Run.answerSignals (r : Run) (p : Reply) (k : Nat) (q : Queue) : Run :=
  match q.packet with
  | none => r
  | some d =>
    let w := wantsAny [(signalWaited r.s p q d).map (signalWritten d), wantsPage r.s { num := k } p signalRun]
    r.answerGaffer p (r.s.queueCtx q) w
      (fun r => if q.pageAt.isSome then r.queuePage k else r) fun r => r.failPacket k 6 q.index

/-- A reply for a queue: its control block, its pending packet, and the signals of its packet. -/
def Run.answerQueue (r : Run) (p : Reply) (k : Nat) : Run :=
  match mapFind r.s.gaffer.queues k with
  | none => r
  | some q =>
    let x := r.s.queueCtx q
    if x.map Context.pid ≠ some p.pid then r
    else
      let run (f : Run → Run) : State → Option (List Eff) := fun s => some (f (Run.start s)).done
      let r := r.answerGaffer p x (wantsPage r.s {} p (run fun r => r.writeStatus k)) id fun r =>
        r.modQueue k fun q => { q with status := none }
      let r := r.answerSignals p k q
      r.answerGaffer p x (wantsAny [wantsPage r.s {} p (run fun r => r.wantPacket k),
          if queueReady r.s q then wantsPage r.s {} p (run fun r => r.startPacket k q) else none])
        (fun r => r.settle k) fun r => r.stopQueue k 6 q.ridx

/-- A reply for a launch: for the record of its next cohort, or for its completion signal. -/
def Run.answerLaunch (r : Run) (p : Reply) (l : Nat) (y : LaunchSt) : Run :=
  let sel : Sel := { num := l }
  let x := mapFind r.s.gaffer.ctxs y.ctx
  let r := r.answerGaffer p x (wantsPage r.s sel p cohortWriteRun) id fun r =>
    (r.cancelCohort l y).failLaunch l y 6
  r.answerGaffer p x (wantsPage r.s sel p launchCompleteRun) id fun r =>
    (r.dropLaunch l).stopQueue y.queue 6 y.index

/-- The Gaffer's count of completions that found a page absent brought up to date. -/
def Run.countTries (r : Run) (p : Reply) : Run :=
  let open_ := r.s.pageReqs.any fun q => q.pid == p.pid && q.page == p.page
  let n := if p.ok && open_ then mapGet 0 r.s.gaffer.tries p.key + 1 else 0
  if n = mapGet 0 r.s.gaffer.tries p.key then r
  else r.modGaffer fun g => { g with tries := mapSet 0 g.tries p.key n }

/-! ### Replies -/

/-- A reply for everything that waits in a slot. -/
def Run.answerSlot (r : Run) (p : Reply) (c sl : Nat) : Run :=
  let x := r.s.slot c sl
  let r := x.async.foldl (fun r o => r.answerOp p c sl o) r
  let r := r.answerHead p c sl
  let r := x.streams.foldl (fun r b => r.answerStream p c sl b.1 b.2) r
  let r := (r.s.slot c sl).async.foldl (fun r o => r.answerFork p c sl o) r
  r.answerBundle p c sl

/-- The slots of a process. -/
def slotsOf (s : State) (pid : BitVec 20) : List (Nat × Nat) :=
  (s.slots.filter fun e => (s.core (e.1 / 16)).ctx.isSome && s.pidOf (e.1 / 16) == pid).map
    fun e => (e.1 / 16, e.1 % 16)

/-- The cores of a process. -/
def coresOf (s : State) (pid : BitVec 20) : List Nat :=
  (s.cores.filter fun e => e.2.ctx.isSome && s.pidOf e.1 == pid).map Prod.fst

/-- A reply: the request is over, and everything that waits for the page goes on. -/
def Run.answer (r : Run) (p : Reply) : Run :=
  let r := r.emit (.pages (r.s.pageReqs.filter fun q => ! (q.pid == p.pid && q.page == p.page)))
  let r := (slotsOf r.s p.pid).foldl (fun r x => r.answerSlot p x.1 x.2) r
  let r := (coresOf r.s p.pid).foldl (fun r c =>
    (List.range 4).foldl (fun r e => r.answerEngine p c e) r) r
  let r := r.s.colls.foldl (fun r k => r.answerCollective p k) r
  let r := r.s.gaffer.ctxs.foldl (fun r x =>
    if x.2.pid = p.pid then (r.answerScene p x.1 x.2).answerTables p x.1 x.2 else r) r
  let r := r.s.gaffer.queues.foldl (fun r q => r.answerQueue p q.1) r
  let r := r.s.gaffer.launches.foldl (fun r l => r.answerLaunch p l.1 l.2) r
  r.countTries p

/-- The answer to a request. -/
def PageReq.reply (q : PageReq) (ok : Bool) : Reply :=
  { pid := q.pid, page := q.page, ok := ok, launches := q.launches }

/-- Whether a request has waited 100 ms, so that it is rejected (25 R444). -/
def PageReq.late (q : PageReq) (s : State) : Bool := decide (q.time + 100000000 ≤ s.time.toNat)

/-- The request that `sel` names. -/
def requestOf (s : State) : Option PageReq :=
  s.pageReqs.find? fun q => q.pid.toNat == s.sel.num && q.page == s.sel.aux

/-- The step `PAGE_REQUEST_REPLY`: the host answers the request of process `sel.num` for page
`sel.aux`, completing it when `sel.yes`. A reply that comes after 100 ms finds it rejected (25 R444). -/
def pageRequestReplyRun (s : State) : Option (List Eff) :=
  (requestOf s).map fun q => ((Run.start s).answer (q.reply (s.sel.yes && ! q.late s))).done

/-- The step `PAGE_REQUEST_TIMEOUT` of the request of process `sel.num` for page `sel.aux`: 100 ms
without a reply (25 R444). -/
def pageRequestTimeoutRun (s : State) : Option (List Eff) :=
  match requestOf s with
  | none => none
  | some q => if q.late s then some ((Run.start s).answer (q.reply false)).done else none

/-- Every outstanding request rejected (25 R445). -/
def Run.rejectAll (r : Run) : Run := r.s.pageReqs.foldl (fun r q => r.answer (q.reply false)) r

/-! ### The steps -/

/-- The step `PAGE_REQUEST_REPLY`. -/
def execPageRequestReply (s : State) : Host.Outcome State Fault Refusal :=
  finish s (pageRequestReplyRun s)

/-- The step `PAGE_REQUEST_TIMEOUT`. -/
def execPageRequestTimeout (s : State) : Host.Outcome State Fault Refusal :=
  finish s (pageRequestTimeoutRun s)

end Sys2Proof.Machine
end

