-- ==== Sys2Proof/Machine/Mailbox.lean ====
section
/-!
DEFINITION. The management mailbox: its registers, and the commands that need no image
(24 R428-R430; 15 R337, 20 R400, 16 R361, R369, 22 R411-R413, 23 R419, 25 R450).
-/

namespace Sys2Proof.Machine

/-! ### The registers (24 R428, R429) -/

/-- A run with the management record changed. -/
def Run.modMgmt (r : Run) (f : Mgmt → Mgmt) : Run := r.emit (.mgmt (f r.s.mgmt))

/-- GO of MBCMD. -/
def Mgmt.go (m : Mgmt) : Bool := m.mbcmd.getLsbD 63

/-- OPC of MBCMD. -/
def Mgmt.opc (m : Mgmt) : Nat := field m.mbcmd 7 0

/-- The value that MBSTAT reads as. -/
def Mgmt.mbstat (m : Mgmt) : Word :=
  BitVec.ofNat 64 (m.stage.toNat * 2 ^ 56 + m.repl.toNat * 2 ^ 52 + m.detail.toNat * 2 ^ 16
    + m.result.toNat)

/-- Byte i of BAR 0 as the host reads it. -/
def Mgmt.barByte (m : Mgmt) (i : Nat) : Byte :=
  if i < 8 then (wordBytes m.mbcmd).getD i 0
  else if i < 16 then (wordBytes m.mbstat).getD (i - 8) 0
  else if i < 0x1000 then 0
  else (readBytes m.payload (i - 0x1000) 1).headD 0

/-- n bytes of BAR 0 from an offset on. -/
def Mgmt.barRead (m : Mgmt) (off n : Nat) : List Byte := (List.range n).map fun i => m.barByte (off + i)

/-- How a command ends: RESULT, DETAIL, and the bytes of its reply. -/
structure Ending where
  result : Nat
  detail : Nat
  reply  : List Byte
deriving DecidableEq, Repr

/-- A command that is done, with a reply. -/
def Ending.done (reply : List Byte) : Ending := { result := 0, detail := 0, reply := reply }

/-- A command refused (log 23). -/
def Ending.refuse (result detail : Nat) : Ending := { result := result, detail := detail, reply := [] }

/-- A command ended: the reply is written, then DETAIL and RESULT, then GO is cleared. -/
def Run.endCommand (r : Run) (a : Ending) : Run :=
  r.modMgmt fun m => { m with
    payload := writeBytes m.payload 0 a.reply, result := BitVec.ofNat 8 a.result,
    detail := BitVec.ofNat 16 a.detail, mbcmd := m.mbcmd &&& 0xFF }

/-- A pending command whose OPC names none ended, unless commands wait (24 R430, R436). -/
def Run.dropUnknown (r : Run) : Run :=
  let m := r.s.mgmt
  if m.go ∧ ¬ (1 ≤ m.opc ∧ m.opc ≤ 0x0C) ∧ ! r.s.paused then r.endCommand (.refuse 2 0) else r

/-- The bits of MBCMD that hold a value: the reserved ones read as zero. -/
def mbcmdMask : Word := 0x80000000000000FF

/-- The step `REGISTER_WRITE`: the host writes the bytes `sel.data` at offset `sel.num` of BAR 0. A
write of MBCMD while GO is 1 is ignored, and so is a write of MBSTAT or of a reserved byte. -/
def registerWriteRun (s : State) : Option (List Eff) :=
  let off := s.sel.num
  let bs := s.sel.data
  if ! s.link.up ∨ 0x2000 < off + bs.length then none
  else
    let r := (Run.start s).modMgmt fun m =>
      if 0x1000 ≤ off then { m with payload := writeBytes m.payload (off - 0x1000) bs }
      else if off < 8 ∧ off + bs.length ≤ 8 ∧ ! m.go then
        { m with
          mbcmd := wordOf (overlay off bs (wordBytes m.mbcmd)) &&& mbcmdMask, late := m.repl != 0 }
      else m
    some r.dropUnknown.done

/-! ### Commands (24 R430) -/

/-- Whether command opc is performed now. -/
def commandDue (s : State) (opc : Nat) : Bool :=
  s.mgmt.go && s.mgmt.opc == opc && ! s.paused

/-- Dword at an offset of the request. -/
def request (s : State) (off : Nat) : Word := wordOf (readBytes s.mgmt.payload off 8)

/-- Command opc, available from a stage on, with its checks: a payload offset, and whether the dword
there fails. -/
def command (s : State) (opc stage : Nat) (checks : List (Nat × Bool)) (f : Run → Option Run) :
    Option (List Eff) :=
  let r := Run.start s
  if ! commandDue s opc then none
  else if s.mgmt.stage.toNat < stage then some (r.endCommand (.refuse 3 0)).done
  else match checks.find? fun c => c.2 with
    | some c => some (r.endCommand (.refuse 4 c.1)).done
    | none => (f r).map Run.done

/-- The version of layer L: MAJOR and MINOR of its image, 0 without one. -/
def layerVersion (m : Mgmt) (l : Nat) : Nat :=
  match mapFind m.images l with
  | some i => i.major.toNat * 2 ^ 16 + i.minor.toNat
  | none => 0

/-- The step `STATUS`. -/
def statusRun (s : State) : Option (List Eff) :=
  let m := s.mgmt
  command s 0x01 1 [] fun r => some (r.endCommand (.done (
    toBytes 8 (m.stage.toNat + m.repl.toNat * 2 ^ 8) ++ toBytes 8 Config.badSites.toNat
      ++ ((List.range 4).map fun l => toBytes 8 (layerVersion m l)).flatten)))

/-! ### Contexts found again (25 R450) -/

/-- A slot whose thread, and what it has started, belongs to no launch any more. -/
def Slot.forget (x : Slot) : Slot :=
  { x with
    launch := none, counted := false,
    async := x.async.map fun o => { o with launch := none },
    sb := x.sb.map fun e => { e with launch := none },
    outq := x.outq.map fun m => { m with msg := { m.msg with launch := none } },
    ports := x.ports.map fun p => (p.1, { p.2 with
      cmds := p.2.cmds.map fun y => { y with launch := none },
      opened := p.2.opened.map fun y => { y with launch := none } }) }

/-- An area as it stands again under context n: the launches it belonged to are gone. -/
def SaveArea.reopen (a : SaveArea) (n : Nat) : SaveArea :=
  { a with
    ctx := n,
    core := { a.core with
      dqLaunch := a.core.dqLaunch.map fun _ => none,
      trapq := a.core.trapq.map fun t => { t with launch := none },
      rx := a.core.rx.map fun m => { m with launch := none },
      engines := a.core.engines.map fun e => (e.1, { e.2 with
        run := e.2.run.map fun x => (x.1, { x.2 with launch := none }) }) },
    slots := a.slots.map fun e => (e.1, e.2.forget),
    spill := a.spill.map fun m => { m with launch := none } }

/-- A retained entry whose context has been created again with its PID: its area is resumed. -/
def Run.adoptEntry (r : Run) (e : Retained) : Run × Retained :=
  match e.area, r.s.gaffer.ctxs.find? fun x => x.2.pid == e.pid && ! x.2.ended with
  | some a, some (n, _) =>
    if e.kept ∧ e.region = saveRegion r.s then
      (r.modGaffer fun g => { g with saves := mapPut g.saves (freshKey g.saves) (a.reopen n) },
        { e with area := none })
    else (r, e)
  | _, _ => (r, e)

/-- Every retained area that can be resumed taken up, once the same save region is registered. -/
def Run.adopt (r : Run) : Run :=
  let p := r.s.power
  if p.retained = [] then r
  else
    let (r, l) := p.retained.foldl (fun x e =>
      let (r, e) := x.1.adoptEntry e
      (r, x.2 ++ [e])) (r, [])
    r.emit (.power { r.s.power with retained := l })

/-! ### Queues (15 R337) -/

/-- The checks of a queue descriptor. -/
def queueChecks (s : State) : List (Nat × Bool) :=
  let d := request s
  let place (off : Nat) : Bool := field (d off) 63 57 != 0 || field (d off) 5 0 != 0
  let size := field (d 0x18) 6 2
  [(0x00, place 0x00), (0x08, place 0x08), (0x10, field (d 0x10) 63 57 != 0),
   (0x18, field (d 0x18) 31 7 != 0 || decide (size < 4) || decide (20 < size))]
    ++ (fromTo 4 4).map fun i => (8 * i, d (8 * i) != 0)

/-- RIDX of a control block as a registration finds it (log 24). -/
def Run.firstIndex (r : Run) (x : Option Context) (ctl : Nat) : BitVec 64 × Run :=
  match r.glDword x (ctl + 8) with
  | .ok v r => (v, r)
  | .fault _ _ _ r => (0, r)
  | .wait _ => (0, r)

/-- The step `QREG`: queue descriptor. -/
def qregRun (s : State) : Option (List Eff) :=
  command s 0x02 5 (queueChecks s) fun r =>
    let d := request s
    if 1024 ≤ s.gaffer.queues.length then some (r.endCommand (.refuse 10 0))
    else
      let k := freshKey s.gaffer.queues
      let ctxAddr := field (d 0x10) 56 0
      let ctl := field (d 0x08) 56 0
      let r := (r.openContext ctxAddr).adopt
      let (ridx, r) := r.firstIndex ((r.s.ctxAt ctxAddr).map Prod.snd) ctl
      let q : Queue :=
        { ring := field (d 0x00) 56 0, ctl := ctl, ctxAddr := ctxAddr, qhold := field (d 0x18) 63 32,
          size := field (d 0x18) 6 2, level := field (d 0x18) 1 0, ridx := ridx, widx := ridx,
          stopped := false, status := none, slot := false, listed := false, packet := none,
          waiting := false, pageAt := none, parked := false, running := [] }
      let r := r.modGaffer fun g => { g with queues := mapPut g.queues k q }
      let pages := s.pageReqs
      some (((r.learnWidx k q).emit (.pages pages)).endCommand (.done (toBytes 8 k)))

/-- A queue removed: its packets that have not started a launch are discarded, its launches run
on. -/
def Run.removeQueue (r : Run) (k : Nat) : Run :=
  let r := r.modGaffer fun g => { g with
    queues := mapDel g.queues k,
    ctxs := g.ctxs.map fun e => (e.1, { e.2 with
      armed := e.2.armed.map fun x => { x with queue := x.queue.filter (· ≠ k) } }),
    hwWait := (g.hwWait.map fun e => (e.1, e.2.filter (· ≠ k))).filter fun e => e.2 ≠ [],
    launches := g.launches.map fun e =>
      if e.2.queue = k then (e.1, { e.2 with queue := looseQueue e.1 }) else e }
  r.assignSlots hwSlots

/-- The step `QUNREG`: queue number. -/
def qunregRun (s : State) : Option (List Eff) :=
  let k := (request s 0).toNat
  command s 0x03 5 [(0, (mapFind s.gaffer.queues k).isNone)] fun r =>
    some ((r.removeQueue k).endCommand (.done []))

/-! ### Partitions (20 R400, 25 R450) -/

/-- The thermal record of a context that the table held at the trip. -/
def retainedRecord (e : Retained) : EventRec :=
  let code := if e.kept then 0xA0 else 0xB2
  { kind := if e.kept then 0x22 else 0x21, cause := 0, domain := 0,
    old := code + e.pid.toNat * 2 ^ 8, new := e.pos }

/-- The first configuration of a partition after start reports what the table held. -/
def Run.report (r : Run) (k : Nat) : Run :=
  let p := r.s.power
  if p.told.contains k then r
  else
    let r := r.emit (.power { p with told := setPut p.told k true })
    p.retained.foldl (fun r e => r.event k r.s.time.toNat (retainedRecord e)) r

/-- The step `PART`: partition number and descriptor. -/
def partRun (s : State) : Option (List Eff) :=
  let d := request s
  let esize := field (d 0x20) 4 0
  command s 0x04 5
    [(0x00, field (d 0) 63 4 != 0), (0x10, field (d 0x10) 63 57 != 0 || field (d 0x10) 4 0 != 0),
     (0x18, field (d 0x18) 63 57 != 0 || field (d 0x18) 5 0 != 0),
     (0x20, field (d 0x20) 63 12 != 0 || field (d 0x20) 7 5 != 0 || decide (esize < 4)
       || decide (16 < esize))] fun r =>
    let k := field (d 0) 3 0
    let p := r.s.power
    let others := (p.parts.filter fun e => e.1 ≠ k).map fun e =>
      (e.1, { e.2 with dmask := e.2.dmask &&& ~~~ d 0x08 })
    let new : Part :=
      { dmask := d 0x08, ering := field (d 0x10) 56 0, ectl := field (d 0x18) 56 0,
        bthr := field (d 0x20) 11 8, esize := esize, permits := 64, charge := [], idle := 0, seq := 0 }
    let r := r.emit (.power { p with parts := mapPut others k new })
    some ((r.report k).endCommand (.done []))

/-! ### The save region (16 R369) -/

/-- The step `SAVEREG`: base and size. -/
def saveregRun (s : State) : Option (List Eff) :=
  command s 0x05 5 [] fun r =>
    let r := r.modGaffer fun g => { g with
      saveBase := (request s 0).toNat, saveSize := (request s 8).toNat }
    some (r.adopt.endCommand (.done []))

/-! ### Translations and lines (16 R361, 22 R411-R413, 23 R419) -/

/-- PID of a request. -/
def requestPid (s : State) : BitVec 20 := (request s 0).setWidth 20

/-- Whether a PID dword is outside its range. -/
def badPid (s : State) : Bool := field (request s 0) 63 20 != 0

/-- Whether a virtual address is outside its range. -/
def badVa (s : State) (off : Nat) : Bool := field (request s off) 63 57 != 0

/-- The root entry of a context read anew: what the stations hold of a root is read when the context is
made and when it is given its first core (16 R361). -/
def Run.reroot (r : Run) (n : Nat) (x : Context) : Run :=
  let (t, r) := r.readRoot x.xlat
  r.modCtx n fun y => { y with rootBad := t.bad, rtab := t.rtab, rcnt := t.rcnt, pt0 := t.pt0 }

/-- The step `INVAL`: PID, first and end VA. This model's stations look every range and page entry up
as the tables stand (log 25), so the root entries of the process are all that is left to read anew. -/
def invalRun (s : State) : Option (List Eff) :=
  command s 0x06 5 [(0, badPid s), (8, badVa s 8), (16, decide (2 ^ 57 < (request s 16).toNat))] fun r =>
    let r := r.s.gaffer.ctxs.foldl (fun r e =>
      if e.2.pid = requestPid s then r.reroot e.1 e.2 else r) r
    some (r.endCommand (.done []))

/-- Where a VA of a command lies in HBM or the second tier, or the cause of RESULT 5, with what the reads of
the tables leave at the stations (22 R410). -/
def commandPlace (s : State) (pid : BitVec 20) (va : Nat) (kind : Access) :
    List Eff × Except (BitVec 8) (Tier × Nat × Bool) :=
  let (l, y) := lookup s (contextOf s pid) va kind
  (l, match y with
    | .at t pa comp => if t.isMemory then .ok (t, pa, comp) else .error 0x43
    | .fault cause _ => .error (if cause = 0x47 then 0x42 else cause)
    | .fill _ _ _ => .error 0x42
    | .page => .error 0x42)

/-- The step `LMETA`: PID and a 128-aligned VA. -/
def lmetaRun (s : State) : Option (List Eff) :=
  let va := request s 8
  command s 0x07 5 [(0, badPid s), (8, badVa s 8 || field va 6 0 != 0)] fun r =>
    match commandPlace s (requestPid s) va.toNat .read with
    | (l, .error cause) => some ((r.emits l).endCommand (.refuse 5 cause.toNat))
    | (l, .ok (t, pa, _)) =>
      let r := r.emits l
      let m := lineMetaOf r.s (physKey t pa)
      some (r.endCommand (.done (toBytes 8 (field m 63 0) ++ toBytes 8 (field m 71 64))))

/-- Sectors written whole as zeros, one after another, until one cannot be. -/
def Run.scrubAll (r : Run) : List (Tier × Nat × Bool) → Run × Ending
  | [] => (r, .done [])
  | (t, pa, comp) :: l =>
    match physWrite r.s t pa (List.replicate 32 0) comp true with
    | (e, .ok _) => (r.emits e).scrubAll l
    | (e, .error f) => (r.emits e, .refuse 5 f.cause.toNat)

/-- The places of the sectors of a scrub, or the cause at the first that has none. -/
def Run.scrubPlaces (r : Run) (pid : BitVec 20) (va : Nat) : Nat →
    Run × Except (BitVec 8) (List (Tier × Nat × Bool))
  | 0 => (r, .ok [])
  | n + 1 =>
    match commandPlace r.s pid va .write with
    | (e, .error cause) => (r.emits e, .error cause)
    | (e, .ok p) =>
      let (r, y) := (r.emits e).scrubPlaces pid (va + 32) n
      (r, match y with
        | .error cause => .error cause
        | .ok l => .ok (p :: l))

/-- The step `SCRUB`: PID, a 32-aligned VA, and a number of sectors; a translation fault leaves every
sector as it was (log 26). -/
def scrubRun (s : State) : Option (List Eff) :=
  let va := request s 8
  let n := (request s 16).toNat
  command s 0x08 5
    [(0, badPid s), (8, badVa s 8 || field va 4 0 != 0), (16, decide (n < 1) || decide (128 < n))]
    fun r =>
      match r.scrubPlaces (requestPid s) va.toNat n with
      | (r, .error cause) => some (r.endCommand (.refuse 5 cause.toNat))
      | (r, .ok l) =>
        let (r, a) := r.scrubAll l
        some (r.endCommand a)

/-- The step `ERRCNT`. -/
def errcntRun (s : State) : Option (List Eff) :=
  command s 0x09 5 [] fun r => some (r.endCommand (.done (toBytes 8 stationCount
    ++ ((List.range stationCount).map fun i => toBytes 8 (mapGet 0 s.corrected i)).flatten)))

/-- The part of the hand-over record that the payload window shows. -/
def windowLen : Nat := 0x1000

/-- The hand-over record; its reset value is zero (24 R437). -/
def Mgmt.record (m : Mgmt) : List Byte := if m.handover = [] then List.replicate 0x50 0 else m.handover

/-- The step `HOREAD`: the current hand-over record. -/
def horeadRun (s : State) : Option (List Eff) :=
  command s 0x0C 5 [] fun r => some (r.endCommand (.done (s.mgmt.record.take windowLen)))

/-! ### The steps -/

/-- The step `REGISTER_WRITE`. -/
def execRegisterWrite (s : State) : Host.Outcome State Fault Refusal :=
  finish s (registerWriteRun s)

/-- The step `STATUS`. -/
def execStatus (s : State) : Host.Outcome State Fault Refusal :=
  finish s (statusRun s)

/-- The step `QREG`. -/
def execQreg (s : State) : Host.Outcome State Fault Refusal :=
  finish s (qregRun s)

/-- The step `QUNREG`. -/
def execQunreg (s : State) : Host.Outcome State Fault Refusal :=
  finish s (qunregRun s)

/-- The step `PART`. -/
def execPart (s : State) : Host.Outcome State Fault Refusal :=
  finish s (partRun s)

/-- The step `SAVEREG`. -/
def execSavereg (s : State) : Host.Outcome State Fault Refusal :=
  finish s (saveregRun s)

/-- The step `INVAL`. -/
def execInval (s : State) : Host.Outcome State Fault Refusal :=
  finish s (invalRun s)

/-- The step `LMETA`. -/
def execLmeta (s : State) : Host.Outcome State Fault Refusal :=
  finish s (lmetaRun s)

/-- The step `SCRUB`. -/
def execScrub (s : State) : Host.Outcome State Fault Refusal :=
  finish s (scrubRun s)

/-- The step `ERRCNT`. -/
def execErrcnt (s : State) : Host.Outcome State Fault Refusal :=
  finish s (errcntRun s)

/-- The step `HOREAD`. -/
def execHoread (s : State) : Host.Outcome State Fault Refusal :=
  finish s (horeadRun s)

end Sys2Proof.Machine
end

