-- ==== Sys2Proof/Machine/Firmware.lean ====
section
/-!
DEFINITION. Patch-set images, the staged start, the layered identity and live replacement
(24 R424-R427, R431-R441).
-/

namespace Sys2Proof.Machine

/-! ### The staging area (24 R431) -/

/-- n bytes of host memory read over the host link (25 R445). -/
def Run.hostBytes (r : Run) (a n : Nat) : Io (List Byte) :=
  match linkState r.s .host with
  | some true => .fault 0x45 a 0 r
  | some false => .wait r
  | none => .ok (readBytes r.s.mem (physKey .host a) n) r

/-- An entry of the staging directory. -/
structure DirEntry where
  offset : Nat
  len    : Nat
  layer  : Nat
  boot   : Bool
deriving DecidableEq, Repr

/-- Entry k of a directory's bytes. -/
def dirEntry (bs : List Byte) (k : Nat) : DirEntry :=
  let d := dwordsOf ((bs.drop (32 * k)).take 32)
  { offset := field (dw d 0) 31 0, len := field (dw d 0) 63 32, layer := field (dw d 1) 7 0,
    boot := bitAt (dw d 1) 8 }

/-- The directory of the staging area. -/
def Run.directory (r : Run) : Io (List DirEntry) :=
  (r.hostBytes r.s.mgmt.stagBase 512).bind fun bs r => .ok ((List.range 16).map (dirEntry bs)) r

/-! ### Images (24 R424, R426, R427) -/

/-- The patch entries that a layer may hold. -/
def layerQuota (l : Nat) : Nat := if l = 1 ∨ l = 2 then 192 else if l = 3 then 128 else 0

/-- The control-store addresses of a layer: the first, and the first beyond. -/
def layerRegion (l : Nat) : Nat × Nat :=
  if l = 1 then (0x100, 0x600) else if l = 2 then (0x600, 0xC00)
  else if l = 3 then (0xC00, 0x1000) else (0, 0x100)

/-- The patch-RAM entries of a layer: the first, and the first beyond. -/
def layerEntries (l : Nat) : Nat × Nat :=
  if l = 1 then (0, 192) else if l = 2 then (192, 384) else if l = 3 then (384, 512) else (0, 0)

/-- Entry n of the patch RAM, when it is valid: the entries of the images installed, in their layers'
places (24 R424). -/
def Mgmt.patch (m : Mgmt) (n : Nat) : Option (BitVec 12 × BitVec 128) :=
  firstSome (fun l =>
    let (lo, hi) := layerEntries l
    if lo ≤ n ∧ n < hi then (mapFind m.images l).bind fun i => i.entries[n - lo]? else none) [1, 2, 3]

/-- The microword that the sequencer executes at a control-store address: that of a valid entry which
names it, else the mask ROM's (24 R424). -/
def Mgmt.microword (m : Mgmt) (a : BitVec 12) : BitVec 128 :=
  (firstSome (fun n => (m.patch n).bind fun e => if e.1 = a then some e.2 else none) (List.range 512)).getD
    (Config.rom a)

/-- The bytes of an image of n entries. -/
def imageLen (n : Nat) : Nat := 0x40 + 32 * n + 1024

/-- The entry at byte 0x40 + 32k of an image: its dwords, and its address and microword. -/
def imageEntry (bs : List Byte) (k : Nat) : List Word := dwordsOf ((bs.drop (0x40 + 32 * k)).take 32)

/-- Address and microword of entry k. -/
def patchEntry (bs : List Byte) (k : Nat) : BitVec 12 × BitVec 128 :=
  let e := imageEntry bs k
  ((dw e 0).setWidth 12, BitVec.ofNat 128 ((dw e 2).toNat + (dw e 3).toNat * 2 ^ 64))

/-- An image read from its bytes. -/
def parseImage (bs : List Byte) : Image :=
  let d := dwordsOf (bs.take 0x40)
  { layer := field (dw d 0) 7 0, major := (dw d 0).extractLsb' 32 16,
    minor := (dw d 0).extractLsb' 16 16, svn := (dw d 0).extractLsb' 8 8,
    hmajor := (dw d 1).extractLsb' 32 16, hminmin := (dw d 1).extractLsb' 48 16,
    hschema := (dw d 1).extractLsb' 0 32,
    entries := (List.range (field (dw d 0) 63 48)).map (patchEntry bs), measure := sha512 bs }

/-- Whether two numbers of a list are equal. -/
def hasTwice (l : List (BitVec 12)) : Bool :=
  match l with
  | [] => false
  | a :: r => r.contains a || hasTwice r

/-- Check step 1 on the first 64 bytes: whether LEN, a reserved field, LAYER or COUNT fails. -/
def headerFails (h : List Byte) (e : DirEntry) (size : Nat) : Bool :=
  let d := dwordsOf h
  let count := field (dw d 0) 63 48
  let layer := field (dw d 0) 7 0
  field (dw d 2) 31 0 != imageLen count || e.len != imageLen count || field (dw d 2) 63 32 != 0
    || ((fromTo 3 5).any fun i => dw d i != 0) || decide (layer < 1) || decide (3 < layer)
    || layer != e.layer || decide (layerQuota layer < count) || decide (size < e.offset + e.len)

/-- Whether a reserved field of an entry is not zero. -/
def entriesFail (bs : List Byte) (count : Nat) : Bool :=
  (List.range count).any fun k =>
    let e := imageEntry bs k
    field (dw e 0) 63 12 != 0 || dw e 1 != 0

/-- The first check step after the header's that an image fails. -/
def imageFails (bs : List Byte) (i : Image) : Option Nat :=
  let count := i.entries.length
  let modulus := (bs.drop (0x40 + 32 * count)).take 512
  let (lo, hi) := layerRegion i.layer
  if entriesFail bs count then some 1
  else if sha512 modulus ≠ Config.keyHash then some 2
  else if ! rsaVerifies modulus (bs.drop (bs.length - 512)) (sha512 (bs.take (bs.length - 512))) then
    some 3
  else if (i.entries.any fun e => decide (e.1.toNat < lo) || decide (hi ≤ e.1.toNat))
      || hasTwice (i.entries.map Prod.fst) then some 4
  else if i.svn.toNat < Config.minSvn i.layer then some 5
  else none

/-- RESULT of a failing check step. -/
def stepResult (n : Nat) : Nat := if n = 2 ∨ n = 3 then 6 else if n = 5 then 7 else 4

/-- The image of a directory entry, or the check step at which it fails. -/
def Run.loadImage (r : Run) (e : DirEntry) : Io (Except Nat Image) :=
  let m := r.s.mgmt
  (r.hostBytes (m.stagBase + e.offset) 0x40).bind fun h r =>
    if headerFails h e m.stagSize then .ok (.error 1) r
    else (r.hostBytes (m.stagBase + e.offset) e.len).bind fun bs r =>
      let i := parseImage bs
      match imageFails bs i with
      | some n => .ok (.error n) r
      | none => .ok (.ok i) r

/-! ### Identity (24 R433) -/

/-- The measurement of a layer that runs with no image. -/
def noImage : List Byte := List.replicate 64 0

/-- The bytes of the mask ROM: its words in the order of their addresses, little-endian (24 R424; log 10). -/
def romBytes : List Byte := (List.range 4096).flatMap fun a => toBytes 16 (Config.rom (BitVec.ofNat 12 a)).toNat

/-- M0: the measurement of the mask ROM. -/
def romMeasure : List Byte := sha512 romBytes

/-- M[L]: the measurement of layer L; M[0] is that of the mask ROM. -/
def measureOf (images : Map Image) (l : Nat) : List Byte :=
  if l = 0 then romMeasure
  else match mapFind images l with
    | some i => i.measure
    | none => noImage

/-- CDI[L]. -/
def cdi (images : Map Image) : Nat → List Byte
  | 0 => hmac512 Config.uds romMeasure
  | l + 1 => hmac512 (cdi images l) (measureOf images (l + 1))

/-- Key L of the layers as they stand. -/
def layerKey (images : Map Image) (l : Nat) : RsaKey := rsaKey (cdi images l) l

/-- A key held. -/
def Mgmt.key (m : Mgmt) (l : Nat) : RsaKey := (mapFind m.keys l).getD { p := 0, q := 0 }

/-- The security version of a layer: its image's, 0 without one. -/
def layerSvn (m : Mgmt) (l : Nat) : Nat :=
  match mapFind m.images l with
  | some i => i.svn.toNat
  | none => 0

/-- MAJOR and MINOR of a layer: its image's, 0 without one. -/
def layerNumbers (m : Mgmt) (l : Nat) : Nat × Nat :=
  match mapFind m.images l with
  | some i => (i.major.toNat, i.minor.toNat)
  | none => (0, 0)

/-- Certificate L as it is issued now, by key L - 1, for L from 1 to 3. -/
def Mgmt.issue (m : Mgmt) (l : Nat) : List Byte :=
  certificate l (m.key l) (m.key (l - 1))
    (tcbInfo (measureOf m.images l) (layerNumbers m l).1 (layerNumbers m l).2 (layerSvn m l))

/-- A record that holds key L, derived now, and from key 1 on its certificate. -/
def Mgmt.withKey (m : Mgmt) (l : Nat) : Mgmt :=
  let m := { m with keys := mapPut m.keys l (layerKey m.images l) }
  if l = 0 then m else { m with certs := mapPut m.certs l (m.issue l) }

/-- The chain of slot 0: the DeviceID certificate, and those issued. -/
def Mgmt.chain (m : Mgmt) : List Byte := Config.deviceCertificate ++ m.certs.flatMap Prod.snd

/-! ### Firmware records (24 R440) -/

/-- OLD of a group's leading record. -/
def groupOld (m : Mgmt) (code : BitVec 8) (layer : Nat) : Nat :=
  code.toNat + layer * 2 ^ 8 + (layerNumbers m layer).2 * 2 ^ 16 + (layerNumbers m layer).1 * 2 ^ 32

/-- A group of five records: the leading one, and the four parts of a digest. -/
def firmwareGroup (m : Mgmt) (kind : Nat) (code : BitVec 8) (layer : Nat) (digest : List Byte) :
    List EventRec :=
  { kind := kind, cause := 0, domain := layer, old := groupOld m code layer, new := 4 } ::
    (List.range 4).map fun p =>
      { kind := kind + 1, cause := 0, domain := p, old := ofBytes ((digest.drop (16 * p)).take 8),
        new := ofBytes ((digest.drop (16 * p + 8)).take 8) }

/-- The re-measure group of a layer, written to every partition. -/
def Run.remeasure (r : Run) (code : BitVec 8) (layer : Nat) : Run :=
  let m := r.s.mgmt
  let x := measureOf m.images layer
  (r.modMgmt fun m => { m with announced := mapPut m.announced layer x }).eventsAll
    (firmwareGroup m 0x10 code layer x)

/-! ### The staged start (24 R432) -/

/-- The images of the lowest boot entries of each layer that pass their checks. -/
def Run.bootImages (r : Run) (dir : List DirEntry) : List Nat → Map Image → Io (Map Image)
  | [], l => .ok l r
  | k :: ks, l =>
    match dir.find? fun e => e.layer == k && e.boot with
    | none => r.bootImages dir ks l
    | some e => (r.loadImage e).bind fun x r =>
        r.bootImages dir ks (match x with
          | .ok i => mapPut l k i
          | .error _ => l)

/-- LOADING entered with these images: the derivation of keys 1 to 3 begins. -/
def Run.enterLoading (r : Run) (images : Map Image) : Run :=
  r.modMgmt fun m => { m with
    stage := 4, images := images,
    announced := (fromTo 1 3).map fun l => (l, measureOf images l),
    derive := some { next := 1, code := 0, layer := 0 } }

/-- LOADING entered once key 0 is derived and STAGING has been written; a link that is down keeps it
waiting. -/
def Run.tryLoading (r : Run) : Run :=
  if r.s.mgmt.stage ≠ 3 ∨ ! r.s.mgmt.staged then r
  else match r.directory.bind fun d r => r.bootImages d [1, 2, 3] [] with
    | .ok l r => r.enterLoading l
    | .wait r => r
    | .fault _ _ _ r => r.enterLoading []

/-- The step `STAGING`: host-physical base and size. -/
def stagingRun (s : State) : Option (List Eff) :=
  command s 0x0A 1 [] fun r =>
    let r := r.modMgmt fun m => { m with
      stagBase := (request s 0).toNat, stagSize := (request s 8).toNat, staged := true }
    some (r.endCommand (.done [])).tryLoading

/-- FULL entered: a link that is up retrains, with what the host supported before (24 R432, 25 R442). -/
def Run.enterFull (r : Run) : Run :=
  let r := r.modMgmt fun m => { m with stage := 5 }
  let (num, aux, yes) := r.s.link.offer
  if r.s.link.up then r.emit (.due .linkTraining { num := num, aux := aux, yes := yes }) else r

/-- The step `KEY_DERIVATION_COMPLETE`: the key that is being derived is there (24 R433, R440). -/
def keyDerivationCompleteRun (s : State) : Option (List Eff) :=
  match s.mgmt.derive with
  | none => none
  | some d =>
    let r := (Run.start s).modMgmt fun m => { m.withKey d.next with
      derive := if d.next = 0 ∨ 3 ≤ d.next then none else some { d with next := d.next + 1 } }
    if d.next = 0 then some (r.modMgmt fun m => { m with stage := 3 }).tryLoading.done
    else if d.next < 3 then some r.done
    else if s.mgmt.stage = 4 then some r.enterFull.done
    else
      let m := r.s.mgmt
      some (r.eventsAll (firmwareGroup m 0x12 d.code d.layer (sha512 m.chain))).done

/-! ### Live replacement (24 R435-R439) -/

/-- The step `STAGE`: directory index. One received in any state but IDLE is refused (24 R435). -/
def stageRun (s : State) : Option (List Eff) :=
  let k := (request s 0).toNat
  command s 0x0B 5 [(0, decide (15 < k))] fun r =>
    if s.mgmt.repl ≠ 0 ∨ s.mgmt.late then some (r.endCommand (.refuse 8 0))
    else match r.directory.bind fun d r =>
        match d[k]? with
        | some e => r.loadImage e
        | none => .ok (.error 1) r with
      | .wait _ => none
      | .fault cause _ _ r => some (r.endCommand (.refuse 5 cause.toNat))
      | .ok (.error n) r => some (r.endCommand (.refuse (stepResult n) (0xD200 + n)))
      | .ok (.ok i) r => some (r.modMgmt fun m => { m with
          repl := 2,
          replace := some { image := i, since := s.time.toNat, next := 0, missed := 0,
                            beatAt := none, redo := none, before := [] } })

/-- The hand-over record that the old image writes: its version, schema, length and body are the
image's own, and so free values (log 28). -/
def handoverRecord (m : Mgmt) (layer free : Nat) : List Byte :=
  let len := 0x50 + (Config.bits free 1).toNat % (65536 - 0x50 + 1)
  toBytes 8 (Config.bits free 0).toNat ++ toBytes 8 (len + layer * 2 ^ 32 + 2 ^ 40)
    ++ measureOf m.images layer
    ++ (List.range (len - 0x50)).map fun i => BitVec.ofNat 8 (Config.bits free (i + 2)).toNat

/-- STATE of the hand-over record. -/
def Mgmt.recordState (m : Mgmt) : Nat := (m.handover.getD 13 0).toNat

/-- Measurement of the replaced image in the hand-over record. -/
def Mgmt.prev (m : Mgmt) : List Byte := (m.handover.drop 0x10).take 64

/-- Whether an image reads a hand-over record. -/
def Image.reads (i : Image) (m : Mgmt) : Bool :=
  let d := wordOf (m.handover.take 8)
  field d 31 0 == i.hschema.toNat && field d 63 48 == i.hmajor.toNat
    && decide (i.hminmin.toNat ≤ field d 47 32)

/-- FALLBACK entered: no entry of the patch RAM is valid any more, and the derivation in progress is
abandoned (24 R439). -/
def Run.enterFallback (r : Run) : Run :=
  r.modMgmt fun m => { m with
    repl := 5, derive := none, images := [],
    replace := m.replace.map fun p => { p with redo := m.derive.map Derive.next, before := m.images } }

/-- The derivation of keys that begins at a hand-over: with one in progress, from the lower key. -/
def Mgmt.deriveFrom (m : Mgmt) (code : BitVec 8) (layer : Nat) : Derive :=
  { next := match m.derive with
      | some d => min d.next layer
      | none => layer,
    code := code, layer := layer }

/-- The step `QUIESCE_SAFE_POINT`: HANDOVER, and PROBATION begins. -/
def quiesceSafePointRun (s : State) : Option (List Eff) :=
  match s.mgmt.replace with
  | none => none
  | some p =>
    if s.mgmt.repl ≠ 2 ∨ p.since + 10000000 ≤ s.time.toNat then none
    else
      let l := p.image.layer
      let r := ((Run.start s).modMgmt fun m => { m with
        handover := handoverRecord m l s.free, images := mapPut m.images l p.image,
        derive := some (m.deriveFrom 0xD0 l), repl := 4,
        replace := some { p with since := s.time.toNat, next := 1, missed := 0,
                                 beatAt := none } }).emit .free
      let r := (r.remeasure 0xD0 l).endCommand (.done [])
      some (if p.image.reads r.s.mgmt then r else r.enterFallback).done

/-- The step `QUIESCE_TIMEOUT`: 10 ms without a safe point. -/
def quiesceTimeoutRun (s : State) : Option (List Eff) :=
  match s.mgmt.replace with
  | none => none
  | some p =>
    if s.mgmt.repl ≠ 2 ∨ s.time.toNat < p.since + 10000000 then none
    else some (((Run.start s).modMgmt fun m => { m with repl := 0, replace := none }).endCommand
      (.refuse 9 0xD3)).done

/-- The TIME of the deadline that comes next. -/
def Replace.deadline (p : Replace) : Nat := p.since + p.next * 1000000

/-- The step `HEARTBEAT`: the new image writes a heartbeat, or, when `sel.write`, STATE of the
hand-over record: 2 when `sel.yes`, else 3. -/
def heartbeatRun (s : State) : Option (List Eff) :=
  match s.mgmt.replace with
  | none => none
  | some p =>
    if s.mgmt.repl ≠ 4 ∨ p.deadline ≤ s.time.toNat then none
    else if s.sel.write then
      let v : Byte := if s.sel.yes then 2 else 3
      let r := (Run.start s).modMgmt fun m => { m with handover := overlay 13 [v] m.handover }
      some (if s.sel.yes then r else r.enterFallback).done
    else some ((Run.start s).modMgmt fun m => { m with
      replace := some { p with beatAt := some s.time.toNat } }).done

/-- The step `PROBATION_DEADLINE` (24 R438). -/
def probationDeadlineRun (s : State) : Option (List Eff) :=
  match s.mgmt.replace with
  | none => none
  | some p =>
    if s.mgmt.repl ≠ 4 ∨ s.time.toNat < p.deadline then none
    else
      let r := Run.start s
      let missed := if p.beatAt.isSome then 0 else p.missed + 1
      if 3 ≤ missed ∨ (p.next = 3 ∧ s.mgmt.recordState ≠ 2) ∨ (100 ≤ p.next ∧ missed ≠ 0) then
        some r.enterFallback.done
      else if 100 ≤ p.next then
        some (r.modMgmt fun m => { m with repl := 0, replace := none }).done
      else some (r.modMgmt fun m => { m with
        replace := some { p with next := p.next + 1, missed := missed, beatAt := none } }).done

/-- The image in the directory whose measurement is given, if one passes its checks. -/
def Run.findImage (r : Run) (layer : Nat) (x : List Byte) : List DirEntry → Io (Option Image)
  | [] => .ok none r
  | e :: l =>
    if e.layer ≠ layer then r.findImage layer x l
    else (r.loadImage e).bind fun y r =>
      match y with
      | .ok i => if i.measure = x then .ok (some i) r else r.findImage layer x l
      | .error _ => r.findImage layer x l

/-- The images that FALLBACK reinstalls, in layer order, of those that stood before. -/
def Run.reinstall (r : Run) (dir : List DirEntry) (replaced : Nat) (before : Map Image) : List Nat → Map Image →
    Io (Map Image)
  | [], l => .ok l r
  | k :: ks, l =>
    let x := if k = replaced then r.s.mgmt.prev else measureOf before k
    if x = noImage then r.reinstall dir replaced before ks l
    else (r.findImage k x dir).bind fun i r =>
      r.reinstall dir replaced before ks (match i with
        | some i => mapPut l k i
        | none => l)

/-- The lower of two layers, if any. -/
def lowerOf (a b : Option Nat) : Option Nat :=
  match a, b with
  | some a, some b => some (min a b)
  | some a, none => some a
  | none, b => b

/-- FALLBACK ended with these images: re-measure groups for the layers whose measurement differs
from the one last announced; keys from the lowest layer whose measurement has changed, or from where
the abandoned derivation stood. -/
def Run.endFallback (r : Run) (images : Map Image) : Run :=
  let old := r.s.mgmt
  let before := (old.replace.map Replace.before).getD []
  let changed := (fromTo 1 3).find? fun l => measureOf images l ≠ measureOf before l
  let r := r.modMgmt fun m => { m with
    images := images, repl := 0, replace := none,
    derive := (lowerOf changed (old.replace.bind Replace.redo)).map fun l =>
      { next := l, code := 0xD1, layer := changed.getD l } }
  let r := (fromTo 1 3).foldl (fun r l =>
    if mapFind r.s.mgmt.announced l = some (measureOf images l) then r else r.remeasure 0xD1 l) r
  r.dropUnknown

/-- The step `FALLBACK` (24 R439). -/
def fallbackRun (s : State) : Option (List Eff) :=
  match s.mgmt.replace with
  | none => none
  | some p =>
    if s.mgmt.repl ≠ 5 then none
    else match (Run.start s).directory.bind fun d r => r.reinstall d p.image.layer p.before [1, 2, 3] [] with
      | .wait _ => none
      | .fault _ _ _ r => some (r.endFallback []).done
      | .ok l r => some (r.endFallback l).done

/-! ### The SPDM responder (24 R434) -/

/-- What a reply carries, as a transcript names it. -/
def SpdmReply.data : SpdmReply → List (List Byte)
  | .digests d => [d]
  | .certificate bs _ => [bs]
  | .measurements l _ => l.map Prod.snd
  | _ => []

/-- A request, by its number and parameters, answered over the host link; the exchange joins the
transcript, which GET_VERSION begins anew. -/
def spdm (s : State) (code : Nat) (args : List Nat) (nonce : List Byte) (f : Mgmt → SpdmReply) :
    Option (List Eff) :=
  if s.link.up then
    some ((Run.start s).modMgmt fun m => { m with
      spdm := f m,
      heard := (if code = 0 then [] else m.heard) ++
        [{ code := code, args := args, data := nonce :: (f m).data }] }).done
  else none

/-- Whether key 3 is not there to sign with: it is being derived, or has never been. -/
def Mgmt.unsigned (m : Mgmt) : Bool := m.derive.isSome || (mapFind m.keys 3).isNone

/-- The last measurements asked for and not signed, among exchanges. -/
def openMeasurements (l : List Config.SpdmTurn) : List Config.SpdmTurn :=
  (l.reverse.takeWhile fun x => x.code == 6 && x.args.getD 1 0 == 0).reverse

/-- The exchanges that a signed reply covers, with its own: the negotiation, then for a challenge the digests
and certificates read, for measurements those asked for since the last that were signed (log 10). -/
def Mgmt.covered (m : Mgmt) (x : Config.SpdmTurn) : List Config.SpdmTurn :=
  if x.code = 5 then (m.heard.filter fun y => decide (y.code ≤ 4)) ++ [x]
  else (m.heard.filter fun y => decide (y.code ≤ 2)) ++ openMeasurements m.heard ++ [x]

/-- A signature made with key 3 over what SPDM 1.2 forms of the exchanges that a reply covers (log 10). -/
def Mgmt.sign (m : Mgmt) (x : Config.SpdmTurn) : List Byte :=
  (m.key 3).sign (spdmSigned
    (if x.code = 5 then "responder-challenge_auth signing" else "responder-measurements signing")
    (Config.spdmBytes (m.covered x)))

/-- The step `GET_VERSION`: SPDM 1.2. -/
def getVersionRun (s : State) : Option (List Eff) := spdm s 0 [] [] fun _ => .version [(1, 2)]

/-- The step `GET_CAPABILITIES`: certificates, challenges and signed measurements; no key exchange and no
session. -/
def getCapabilitiesRun (s : State) : Option (List Eff) := spdm s 1 [] [] fun _ => .capabilities true true true

/-- The algorithms of the responder. -/
def algorithms : String × String × String := ("RSASSA_4096", "SHA-512", "SHA-512")

/-- The step `NEGOTIATE_ALGORITHMS`; `sel.yes` when the requester offers RSASSA_4096 and SHA-512. -/
def negotiateAlgorithmsRun (s : State) : Option (List Eff) :=
  spdm s 2 [if s.sel.yes then 1 else 0] [] fun _ => .algorithms (if s.sel.yes then some algorithms else none)

/-- The step `GET_DIGESTS`. -/
def getDigestsRun (s : State) : Option (List Eff) := spdm s 3 [] [] fun m => .digests (sha512 m.chain)

/-- The step `GET_CERTIFICATE` for slot `sel.slot`: at most `sel.aux` bytes from offset `sel.num`. -/
def getCertificateRun (s : State) : Option (List Eff) :=
  spdm s 4 [s.sel.slot, s.sel.num, s.sel.aux] [] fun m =>
    let c := m.chain
    if s.sel.slot ≠ 0 ∨ c.length < s.sel.num then .invalid
    else
      let bs := (c.drop s.sel.num).take s.sel.aux
      .certificate bs (c.length - s.sel.num - bs.length)

/-- The step `CHALLENGE` for slot `sel.slot` with the nonce `sel.data`. -/
def challengeRun (s : State) : Option (List Eff) :=
  spdm s 5 [s.sel.slot] s.sel.data fun m =>
    if s.sel.slot ≠ 0 then .invalid
    else if m.unsigned then .notReady
    else .challenge (m.sign { code := 5, args := [s.sel.slot], data := [s.sel.data, sha512 m.chain] })

/-- Measurement blocks 1 to 4. -/
def Mgmt.blocks (m : Mgmt) : List (Nat × List Byte) :=
  (List.range 4).map fun l => (l + 1, measureOf m.images l)

/-- The step `GET_MEASUREMENTS`: block `sel.num`, 1 to 4, or all for 0xFF, signed with the nonce
`sel.data` when `sel.yes`. -/
def getMeasurementsRun (s : State) : Option (List Eff) :=
  let args := [s.sel.num, if s.sel.yes then 1 else 0]
  spdm s 6 args s.sel.data fun m =>
    let l := m.blocks.filter fun b => s.sel.num == 0xFF || b.1 == s.sel.num
    if l = [] ∧ s.sel.num ≠ 0 then .invalid
    else if ! s.sel.yes then .measurements l []
    else if m.unsigned then .notReady
    else .measurements l (m.sign { code := 6, args := args, data := s.sel.data :: l.map Prod.snd })

/-! ### The steps -/

/-- The step `STAGING`. -/
def execStaging (s : State) : Host.Outcome State Fault Refusal :=
  finish s (stagingRun s)

/-- The step `KEY_DERIVATION_COMPLETE`. -/
def execKeyDerivationComplete (s : State) : Host.Outcome State Fault Refusal :=
  finish s (keyDerivationCompleteRun s)

/-- The step `STAGE`. -/
def execStage (s : State) : Host.Outcome State Fault Refusal :=
  finish s (stageRun s)

/-- The step `QUIESCE_SAFE_POINT`. -/
def execQuiesceSafePoint (s : State) : Host.Outcome State Fault Refusal :=
  finish s (quiesceSafePointRun s)

/-- The step `QUIESCE_TIMEOUT`. -/
def execQuiesceTimeout (s : State) : Host.Outcome State Fault Refusal :=
  finish s (quiesceTimeoutRun s)

/-- The step `HEARTBEAT`. -/
def execHeartbeat (s : State) : Host.Outcome State Fault Refusal :=
  finish s (heartbeatRun s)

/-- The step `PROBATION_DEADLINE`. -/
def execProbationDeadline (s : State) : Host.Outcome State Fault Refusal :=
  finish s (probationDeadlineRun s)

/-- The step `FALLBACK`. -/
def execFallback (s : State) : Host.Outcome State Fault Refusal :=
  finish s (fallbackRun s)

/-- The step `GET_VERSION`. -/
def execGetVersion (s : State) : Host.Outcome State Fault Refusal :=
  finish s (getVersionRun s)

/-- The step `GET_CAPABILITIES`. -/
def execGetCapabilities (s : State) : Host.Outcome State Fault Refusal :=
  finish s (getCapabilitiesRun s)

/-- The step `NEGOTIATE_ALGORITHMS`. -/
def execNegotiateAlgorithms (s : State) : Host.Outcome State Fault Refusal :=
  finish s (negotiateAlgorithmsRun s)

/-- The step `GET_DIGESTS`. -/
def execGetDigests (s : State) : Host.Outcome State Fault Refusal :=
  finish s (getDigestsRun s)

/-- The step `GET_CERTIFICATE`. -/
def execGetCertificate (s : State) : Host.Outcome State Fault Refusal :=
  finish s (getCertificateRun s)

/-- The step `CHALLENGE`. -/
def execChallenge (s : State) : Host.Outcome State Fault Refusal :=
  finish s (challengeRun s)

/-- The step `GET_MEASUREMENTS`. -/
def execGetMeasurements (s : State) : Host.Outcome State Fault Refusal :=
  finish s (getMeasurementsRun s)

end Sys2Proof.Machine
end

