-- ==== Sys2Proof/Machine/Lapse.lean ====
section
/-!
DEFINITION. What waits at the stations for the host link, or for a failed peer, when it has been down for
10 ms: every read returns poisoned data, every write is dropped, and every page request is rejected when
the link is the host's (25 R445, R447).
-/

namespace Sys2Proof.Machine

/-- A step taken now when it makes an access for which it has waited: with the link given up it does what
it did not do while the link might still come back, as `old` says. -/
def Run.lapse (r : Run) (old : Link) (x : Sel) (f : State → Option (List Eff)) : Run :=
  let late := f { r.s with sel := x }
  if late = f { r.s with sel := x, link := { r.s.link with expired := old.expired, failed := old.failed } } then r
  else match late with
    | some l => r.emits l
    | none => r

/-- What waits in a slot: its loads, its atomics, its full/empty operations, the head of its store buffer, its stream ports, its forks,
and the fetch of its next bundle. -/
def Run.lapseSlot (r : Run) (old : Link) (c sl : Nat) : Run :=
  let x := r.s.slot c sl
  let r := x.async.foldl (fun r o =>
    let sel : Sel := { core := c, slot := sl, num := o.seq }
    [asyncResultWriteRun, homeAtomicRun, feHomeOperationRun, forkRecordPushRun].foldl
      (fun r f => r.lapse old sel f) r) r
  let r := r.lapse old { core := c, slot := sl } storeBufferDrainRun
  let r := x.streams.foldl (fun r b =>
    r.lapse old { core := c, slot := sl, num := b.1 } streamElementArrivalRun) r
  let y := r.s.slot c sl
  if slotBarred r.s c sl ∨ y.faults ≠ [] ∨ y.park.isSome then r
  else r.lapse old r.s.sel fun s => some ((Run.start s).fetchIssue c sl).done

/-- What waits in a core: its engines' commands, and the record that an idle slot would take. -/
def Run.lapseCore (r : Run) (old : Link) (c : Nat) : Run :=
  let r := (List.range 4).foldl (fun r e => r.lapse old { core := c, num := e } engineCommandCompleteRun) r
  match lowestIdle r.s c with
  | some sl => r.lapse old r.s.sel fun s => some ((Run.start s).seek c sl).done
  | none => r

/-- What waits for a queue: the read of its pending packet, and the signals of the packet that holds it. -/
def Run.lapseQueue (r : Run) (old : Link) (k : Nat) (q : Queue) : Run :=
  let sel : Sel := { num := k }
  let r := [waitRun, barrierAndRun, signalRun, signalRereadRun, launchRun].foldl (fun r f => r.lapse old sel f) r
  if q.slot ∧ q.packet.isNone ∧ q.pending ∧ ! q.stopped then
    r.lapse old sel fun s => some ((Run.start s).startPacket k q).done
  else r

/-- Everything that waits for a link which has given up since `old` gives up. -/
def Run.lapseAll (r : Run) (old : Link) : Run :=
  let r := r.s.slots.foldl (fun r e => r.lapseSlot old (e.1 / 16) (e.1 % 16)) r
  let r := r.s.cores.foldl (fun r e => r.lapseCore old e.1) r
  let r := (List.range r.s.colls.length).reverse.foldl (fun r i => r.lapse old { num := i } collectiveCompleteRun) r
  let r := r.s.gaffer.ctxs.foldl (fun r e =>
    [layerInstructionPerformRun, frameEndRun, frameStartRun].foldl (fun r f => r.lapse old { num := e.1 } f) r) r
  let r := r.s.gaffer.queues.foldl (fun r e => r.lapseQueue old e.1 e.2) r
  let r := r.s.gaffer.launches.foldl (fun r e =>
    [cohortWriteRun, launchCompleteRun].foldl (fun r f => r.lapse old { num := e.1 } f) r) r
  [stageRun, fallbackRun].foldl (fun r f => r.lapse old {} f) r

/-! ### Giving up (25 R445, R447) -/

/-- Whether a time lies 10 ms back. -/
def State.past10ms (s : State) (t : Nat) : Bool := decide (t + 10000000 ≤ s.time.toNat)

/-- Whether the host link has been down for 10 ms and what waits for it has not given up. -/
def hostLapses (s : State) : Bool := ! s.link.up && ! s.link.expired && s.past10ms s.link.downAt

/-- Whether a peer has been failed for 10 ms and what waits for it has not given up. -/
def PeerDown.lapses (s : State) (p : PeerDown) : Bool := ! p.expired && s.past10ms p.since

/-- Whether something gives up now. -/
def linkLapses (s : State) : Bool := hostLapses s || s.link.failed.any (PeerDown.lapses s)

/-- The links once what has been down for 10 ms is given up. -/
def Link.givenUp (s : State) (l : Link) : Link :=
  { l with
    expired := l.expired || hostLapses s,
    failed := l.failed.map fun p => { p with expired := p.expired || p.lapses s } }

/-- What has waited 10 ms for the host link or for a failed peer gives up. -/
def Run.giveUp (r : Run) : Run :=
  if ! linkLapses r.s then r
  else
    let s := r.s
    let r := r.emit (.link (s.link.givenUp s))
    let r := if hostLapses s then r.rejectAll else r
    (r.lapseAll s.link).tryLoading

end Sys2Proof.Machine
end

