-- ==== Sys2Proof/Machine/Links.lean ====
section
/-!
DEFINITION. The host link and Kenlink: training, failure, and the accesses that arrive over them
(25 R442-R447).
-/

namespace Sys2Proof.Machine

/-- A run with the links' record changed. -/
def Run.modLink (r : Run) (f : Link → Link) : Run := r.emit (.link (f r.s.link))

/-! ### The host link (25 R442, R443, R445) -/

/-- The widest of the link's widths that a width holds. -/
def linkWidth (w : Nat) : Option Nat := [16, 8, 4].find? fun x => decide (x ≤ w)

/-- The step `LINK_TRAINING`: the host supports generations up to `sel.num` (5, 6 or 7, by their rates
of 32, 64 and 128 GT/s per lane), widths up to `sel.aux`, and the CXL protocols when `sel.yes`.
Before FULL the link trains at PCIe 5.0 rate. What has waited 10 ms gives up first. -/
def linkTrainingRun (s : State) : Option (List Eff) :=
  match linkWidth s.sel.aux with
  | none => none
  | some w =>
    if s.sel.num < 5 then none
    else
      let full := decide (s.mgmt.stage = 5)
      let r := (Run.start s).giveUp.modLink fun l => { l with
        cxl := s.sel.yes && full, gen := if full then min s.sel.num 7 else 5, width := w,
        up := true, offer := (s.sel.num, s.sel.aux, s.sel.yes), expired := false }
      some r.tryLoading.done

/-- The step `LINK_DOWN`. -/
def linkDownRun (s : State) : Option (List Eff) :=
  if s.link.up then
    some ((Run.start s).modLink fun l => { l with
      up := false, downAt := s.time.toNat, expired := false }).done
  else none

/-- The step `LINK_DOWN_TIMEOUT`: 10 ms down, and everything that waits for the host, or for a peer that has
failed, gives up. -/
def linkDownTimeoutRun (s : State) : Option (List Eff) :=
  if linkLapses s then some (Run.start s).giveUp.done else none

/-! ### Accesses that arrive (22 R409, 25 R443, R446) -/

/-- The tier that an access from outside names. -/
def outsideTier (tier2 : Bool) : Tier := if tier2 then .tier2 else .hbm

/-- Whether n bytes at an address lie in a tier that is attached (00 R2, R3). -/
def inTier (tier2 : Bool) (pa n : Nat) : Bool :=
  if tier2 then Config.secondTier && decide (pa + n ≤ Config.tier2Bytes) else decide (pa + n ≤ hbmBytes)

/-- Whether the line at an address is stored compressed, so that the access decodes it. -/
def storedCompressed (s : State) (t : Tier) (pa : Nat) : Bool :=
  decide (tagOf (lineMetaOf s (physKey t pa)) ≠ 0)

/-- The pieces of n bytes at an address, each within one sector; k bounds their number. -/
def sectorPieces (a n : Nat) : Nat → List (Nat × Nat)
  | 0 => []
  | k + 1 =>
    if n = 0 then []
    else
      let m := min n (32 - a % 32)
      (a, m) :: sectorPieces (a + m) (n - m) k

/-- Pieces of sectors read for an agent outside: every sector is verified at the egress, and one that fails is
sent with the link's poison indication, its bytes as they are stored (22 R409; log 80). -/
def Run.readOutside (r : Run) (t : Tier) (decode : Bool) : List (Nat × Nat) → Run × Answer
  | [] => (r, { bytes := [] })
  | (a, n) :: l =>
    let (e, x) := physLoad r.s t a n (decode && storedCompressed r.s t a)
    let y : Answer := match x with
      | .ok bs => { bytes := bs }
      | .error _ => { bytes := readBytes r.s.mem (physKey t a) n, poison := [a / 32 * 32] }
    let (r, z) := (r.emits e).readOutside t decode l
    (r, { bytes := y.bytes ++ z.bytes, poison := y.poison ++ z.poison })

/-- Pieces written for an agent outside, the sectors that they cover as whole sectors (22 R409; log 73);
the answer says whether one failed. -/
def Run.writeOutside (r : Run) (t : Tier) (decode : Bool) (base : Nat) (bs : List Byte) :
    List (Nat × Nat) → Run × Bool
  | [] => (r, false)
  | (a, n) :: l =>
    let (e, x) := physWrite r.s t a ((bs.drop (a - base)).take n)
      (decode && storedCompressed r.s t a) true
    let bad := match x with
      | .ok _ => false
      | .error _ => true
    let (r, b) := (r.emits e).writeOutside t decode base bs l
    (r, bad || b)

/-- A plain access from outside, and its answer. -/
def Run.outside (r : Run) (t : Tier) (decode write : Bool) (pa n : Nat) (bs : List Byte) : Run × Answer :=
  if write then
    let (r, bad) := r.writeOutside t decode pa bs (pieces pa bs.length (lineCount bs.length))
    (r, { bytes := [], failed := bad })
  else r.readOutside t decode (sectorPieces pa n (n / 32 + 2))

/-- Whether the host can make an access: to its own memory, when `own`, or over the link to HBM or the
second tier. -/
def hostReaches (s : State) (own tier2 : Bool) (pa n : Nat) : Bool :=
  if own then decide (pa + n ≤ 2 ^ 52)
  else s.link.up && decide (2 ≤ s.mgmt.stage.toNat) && inTier tier2 pa n

/-- The step `HOST_DEVICE_MEMORY_ACCESS`: the host reads `sel.aux` bytes, or writes `sel.data` when
`sel.write`, at physical address `sel.num` of HBM, or of the second tier when `sel.yes`; or, when
`sel.slot` is 1, of its own memory (11 R313). When `sel.slot` is 2 it reads `sel.aux` bytes of BAR 0 at
offset `sel.num` (24 R428). -/
def hostDeviceMemoryAccessRun (s : State) : Option (List Eff) :=
  let x := s.sel
  let n := if x.write then x.data.length else x.aux
  let own := decide (x.slot = 1)
  if x.slot = 2 then
    if s.link.up ∧ ! x.write ∧ x.num + n ≤ 0x2000 then
      some ((Run.start s).modLink fun l => { l with hostReply := some { bytes := s.mgmt.barRead x.num n } }).done
    else none
  else if ! hostReaches s own x.yes x.num n then none
  else
    let t := if own then .host else outsideTier x.yes
    let (r, y) := (Run.start s).outside t (! own) x.write x.num n x.data
    some (r.modLink fun l => { l with hostReply := some y }).done

/-- What a peer's access does: it reads or writes plainly, or acts on one word at its home. -/
inductive PeerKind where
  | plain
  | amo (op : BitVec 4) (bytes : Nat)
  | cas (bytes : Nat)
  | fe (k : FeKind)
  | stff
  | feset (full : Bool)
deriving DecidableEq, Repr

/-- The kind that `sel.slot` names; `sel.core` is op of an `amo`, `sel.aux` its bytes. -/
def peerKind (x : Sel) : Option PeerKind :=
  let bytes := if x.aux = 4 ∨ x.aux = 8 then some x.aux else none
  match x.slot with
  | 0 => some .plain
  | 1 => if x.core < 9 then bytes.map fun n => .amo (BitVec.ofNat 4 x.core) n else none
  | 2 => bytes.map .cas
  | 3 => some (.fe .ldfe)
  | 4 => some (.fe .ldfx)
  | 5 => some (.fe .fepoll)
  | 6 => some (.fe .stfe)
  | 7 => some .stff
  | 8 => some (.feset false)
  | 9 => some (.feset true)
  | _ => none

/-- A word read and replaced at its home for a peer, and the old word sent to it: `f` gives the new word
of the old one, if it writes one. -/
def Run.peerWord (r : Run) (t : Tier) (pa n : Nat) (f : Word → Option Word) : Run :=
  match physRead r.s t pa n false with
  | (e, .error _) => (r.emits e).replyPeer .fails
  | (e, .ok bs) =>
    let r := r.emits e
    let (r, bad) := match f (wordOf bs) with
      | none => (r, false)
      | some v =>
        let (e, x) := physWrite r.s t pa (toBytes n v.toNat) false false
        (r.emits e, match x with
          | .ok _ => false
          | .error _ => true)
    if bad then r.replyPeer .fails
    else
      let (e, y) := sendWord r.s (physKey t pa) bs
      (r.emits e).replyPeer y

/-- The tag of the word at a key set for a peer; the wait list is walked when it changes. -/
def Run.peerTag (r : Run) (key : Nat) (full : Bool) : Run :=
  let r := r.replyPeer { bytes := [] }
  if tagFull r.s key = full then r else (r.emit (.tag key full)).walk key

/-- An access of a peer performed; a full/empty operation whose condition fails joins the word's wait
list (06 R175). -/
def Run.peerAccess (r : Run) (x : Sel) (k : PeerKind) : Run :=
  let t := outsideTier x.yes
  let key := physKey t x.num
  let a := wordOf (x.data.take 8)
  let b := wordOf ((x.data.drop 8).take 8)
  match k with
  | .plain =>
    let (r, y) := r.outside t false x.write x.num x.aux x.data
    r.replyPeer y
  | .amo op n => r.peerWord t x.num n fun v => some (amoValue op (8 * n) v a)
  | .cas n => r.peerWord t x.num n fun v =>
      if zextLow v (8 * n) = zextLow a (8 * n) then some b else none
  | .fe k =>
    match peerFe r.s k key a with
    | some (e, y, changed) =>
      let r := (r.emits e).replyPeer y
      if changed then r.walk key else r
    | none => r.emit (.waits (r.s.feWaits ++
        [{ key, core := remoteCore, slot := 0, seq := 0, peer := some (k, a) }]))
  | .stff =>
    match physWrite r.s t x.num (wordBytes a) false false with
    | (e, .ok _) => (r.emits e).peerTag key true
    | (e, .error _) => (r.emits e).replyPeer .fails
  | .feset b => r.peerTag key b

/-- The bytes that a peer's access covers. -/
def peerBytes (x : Sel) (k : PeerKind) : Nat :=
  match k with
  | .plain => if x.write then x.data.length else x.aux
  | .amo _ n => n
  | .cas n => n
  | _ => 8

/-- The step `PEER_GL_ACCESS`: an access that a peer package has translated to this one arrives, at
physical address `sel.num` of HBM, or of the second tier when `sel.yes`; `sel.slot` says what it
does, `sel.data` holds its operands. -/
def peerGlAccessRun (s : State) : Option (List Eff) :=
  let x := s.sel
  match peerKind x with
  | none => none
  | some k =>
    if ! s.link.trained ∨ s.mgmt.stage.toNat < 2 ∨ ! inTier x.yes x.num (peerBytes x k)
        ∨ (k ≠ .plain ∧ x.num % peerBytes x k ≠ 0) then none
    else
      some (((Run.start s).modLink fun l => { l with peerReply := [] }).peerAccess x k).done

/-! ### Kenlink (25 R446, R447) -/

/-- The step `KENLINK_TRAINING`: the ports train to a pod switch that assigns device number `sel.num`
when `sel.yes`, else to none. Peers that had failed are reached again, and accesses to them go on; what has
waited 10 ms gives up first (25 R445, R447; log 90). -/
def kenlinkTrainingRun (s : State) : Option (List Eff) :=
  some ((Run.start s).giveUp.modLink fun l => { l with
    failed := [], trained := s.sel.yes, device := if s.sel.yes then BitVec.ofNat 21 s.sel.num else 0 }).done

/-- The step `PEER_DEVICE_FAILED`: device `sel.num` has been unreachable on every port for 1 ms, and from
now on accesses to it wait as they do for a host link that is down (25 R447). -/
def peerDeviceFailedRun (s : State) : Option (List Eff) :=
  let d := BitVec.ofNat 21 s.sel.num
  if s.link.failed.any fun p => p.device == d then none
  else some ((Run.start s).modLink fun l => { l with
    failed := l.failed ++ [{ device := d, since := s.time.toNat, expired := false }] }).done

/-! ### The steps -/

/-- The step `LINK_TRAINING`. -/
def execLinkTraining (s : State) : Host.Outcome State Fault Refusal :=
  finish s (linkTrainingRun s)

/-- The step `LINK_DOWN`. -/
def execLinkDown (s : State) : Host.Outcome State Fault Refusal :=
  finish s (linkDownRun s)

/-- The step `LINK_DOWN_TIMEOUT`. -/
def execLinkDownTimeout (s : State) : Host.Outcome State Fault Refusal :=
  finish s (linkDownTimeoutRun s)

/-- The step `HOST_DEVICE_MEMORY_ACCESS`. -/
def execHostDeviceMemoryAccess (s : State) : Host.Outcome State Fault Refusal :=
  finish s (hostDeviceMemoryAccessRun s)

/-- The step `PEER_GL_ACCESS`. -/
def execPeerGlAccess (s : State) : Host.Outcome State Fault Refusal :=
  finish s (peerGlAccessRun s)

/-- The step `KENLINK_TRAINING`. -/
def execKenlinkTraining (s : State) : Host.Outcome State Fault Refusal :=
  finish s (kenlinkTrainingRun s)

/-- The step `PEER_DEVICE_FAILED`. -/
def execPeerDeviceFailed (s : State) : Host.Outcome State Fault Refusal :=
  finish s (peerDeviceFailedRun s)

end Sys2Proof.Machine
end

