-- ==== Sys2Proof/Machine/Thermal.lean ====
section
/-!
DEFINITION. Thermal protection, and the loss and return of power (25 R448-R451, 24 R432, 00 R2).
-/

namespace Sys2Proof.Machine

/-! ### Levels (25 R448, R451) -/

/-- The sensors: one in each boost domain, and sixteen on the base die. -/
def sensorCount : Nat := 80

/-- The threshold of a level, in °C. -/
def threshold (l : Nat) : Nat :=
  if l ≤ 1 then 95 else if l = 2 then 105 else if l = 3 then 115 else 125

/-- The levels that the microcode sets: emergency save only with a second tier (00 R2). -/
def levelLimit : Nat := if Config.secondTier then 3 else 2

/-- The hottest of some readings. -/
def hottest (m : Map Nat) : Nat := m.foldl (fun t e => max t e.2) 0

/-- The highest level whose threshold a temperature reaches. -/
def levelOf (t : Nat) : Nat := ((fromTo 1 levelLimit).filter fun l => decide (threshold l ≤ t)).length

/-- The times since which every sensor has been 5 °C below each level's threshold. -/
def coolTimes (m : Map Nat) (hot now : Nat) : Map Nat :=
  (fromTo 1 3).filterMap fun l =>
    if hot + 5 ≤ threshold l then some (l, (mapFind m l).getD now) else none

/-- A reading of a sensor taken. -/
def Run.reading (r : Run) (sensor temp : Nat) : Run :=
  let p := r.s.power
  let temps := mapSet 0 p.temps sensor temp
  r.emit (.power { p with
    temps := temps, cool := coolTimes p.cool (hottest temps) r.s.time.toNat })

/-- A change of level recorded in every partition's ring. -/
def Run.setThermal (r : Run) (l sensor : Nat) : Run :=
  let old := r.s.power.thermal
  (r.emit (.power { r.s.power with thermal := l })).eventsAll
    [{ kind := 0x20, cause := 0, domain := sensor, old := old, new := l }]

/-- The partition of a domain. -/
def partOf (s : State) (d : Nat) : Option Nat :=
  (s.power.parts.find? fun e => e.2.dmask.getLsbD d).map Prod.fst

/-- A domain above level 12 falls to it at once. -/
def Run.throttleDomain (r : Run) (d : Nat) : Run :=
  let old := domainLevel r.s d
  if old ≤ 12 then r
  else
    let r := r.setDomain d 12
    match partOf r.s d with
    | some k => r.event k r.s.time.toNat { kind := 2, cause := 4, domain := d, old := old, new := 12 }
    | none => r

/-- Every core that holds a context pre-empted at emergency save (25 R449). -/
def Run.emergency (r : Run) : Run :=
  r.s.cores.foldl (fun r e => (r.interrupt e.1 true).getD r) r

/-- Whether an area is complete where it outlives the trip: in the second tier, whose self-refresh is
held on the standby rail. -/
def SaveArea.survives (a : SaveArea) : Bool :=
  a.complete && ! a.left && Config.secondTier && (regionPlace a.addr).1 == .tier2

/-- What the context table holds: the save areas, then the cores that hold a context without one, then what
an earlier trip left and no context has taken up. -/
def contextTable (s : State) : List Retained :=
  let areas := (s.gaffer.saves.filter fun e => ! e.2.left).map fun e =>
    { pid := e.2.pid, pos := e.2.pos, kept := e.2.survives, area := some e.2, region := saveRegion s }
  let cores := (s.cores.filter fun e => e.2.ctx.isSome
      && ! s.gaffer.saves.any fun a => ! a.2.left && a.2.pos == e.1 && some a.2.ctx == e.2.ctx).map
    fun e => { pid := s.pidOf e.1, pos := e.1, kept := false, area := none, region := saveRegion s }
  areas ++ cores ++ s.power.retained.filter fun e => e.kept && e.area.isSome

/-- The power cut by the comparator (25 R448). -/
def cutPower (s : State) : List Eff :=
  [.power { s.power with retained := contextTable s }, .powered false]

/-- The step `HARD_TRIP`: sensor `sel.num` reads `sel.aux` °C, at least 125, and the comparator cuts
the power. -/
def hardTripRun (s : State) : Option (List Eff) :=
  if sensorCount ≤ s.sel.num ∨ s.sel.aux < threshold 4 then none else some (cutPower s)

/-- The step `THERMAL_LEVEL_ENTER`: sensor `sel.num` reads `sel.aux` °C, which raises the level. The
comparator does not wait for the microcode: at the threshold of the hard trip it cuts the power. -/
def thermalLevelEnterRun (s : State) : Option (List Eff) :=
  if sensorCount ≤ s.sel.num then none
  else if threshold 4 ≤ s.sel.aux then some (cutPower s)
  else
    let r := (Run.start s).reading s.sel.num s.sel.aux
    let l := levelOf (hottest r.s.power.temps)
    if l ≤ s.power.thermal then none
    else
      let r := r.setThermal l s.sel.num
      let r := if 2 ≤ l then (List.range 64).foldl Run.throttleDomain r else r
      some (if 3 ≤ l then r.emergency else r).done

/-- Whether a level has been left: every sensor has stayed 5 °C below its threshold for 1 ms. -/
def levelLeft (p : Power) (now l : Nat) : Bool :=
  match mapFind p.cool l with
  | some t => decide (t + 1000000 ≤ now)
  | none => false

/-- The level that is left in force when those above it are left. -/
def levelAfter (p : Power) (now : Nat) : Nat → Nat
  | 0 => 0
  | l + 1 => if levelLeft p now (l + 1) then levelAfter p now l else l + 1

/-- The step `THERMAL_LEVEL_LEAVE`: sensor `sel.num` reads `sel.aux` °C, which raises no level; the
level falls when every sensor has stayed low for 1 ms (log 30). A reading at the threshold of the hard trip
cuts the power. -/
def thermalLevelLeaveRun (s : State) : Option (List Eff) :=
  if sensorCount ≤ s.sel.num then none
  else if threshold 4 ≤ s.sel.aux then some (cutPower s)
  else
    let r := (Run.start s).reading s.sel.num s.sel.aux
    let p := r.s.power
    if s.power.thermal < levelOf (hottest p.temps) then none
    else
      let l := levelAfter p s.time.toNat s.power.thermal
      some (if l < s.power.thermal then r.setThermal l s.sel.num else r).done

/-! ### The next start (25 R450) -/

/-- The keys of the save areas that the context table names. -/
def namedKeys (l : List Retained) : List (Nat × Nat) :=
  l.filterMap fun e => e.area.map fun a =>
    (physKey (regionPlace a.addr).1 (regionPlace a.addr).2, a.size)

/-- The keys of those whose bytes the standby rail has kept: they lie in the second tier. -/
def keptKeys (l : List Retained) : List (Nat × Nat) :=
  namedKeys (l.filter fun e => match e.area with
    | some a => Config.secondTier && (regionPlace a.addr).1 == .tier2
    | none => false)

/-- The keys of everything outside the package: host memory and the peers'. -/
def outsideKeys : Nat × Nat := (3 * 2 ^ 60, (1 + 2 ^ 21) * 2 ^ 60)

/-- The power controller at power good: what retention memory held. -/
def powerGood (p : Power) : Power := { Power.reset with retained := p.retained }

/-- The step `POWER_GOOD`: power has returned, and the mask ROM runs in stage SAFE. -/
def powerGoodRun (s : State) : Option (List Eff) :=
  if s.powered then none
  else some [.restart (outsideKeys :: keptKeys s.power.retained) (powerGood s.power)]

/-- The step `MEMORY_TRAINED`: every line is written but the save areas that the table names, and the
derivation of key 0 begins. A part with a bad HBM site stays in SAFE (00 R3). -/
def memoryTrainedRun (s : State) : Option (List Eff) :=
  if s.mgmt.stage ≠ 1 ∨ Config.badSites ≠ 0 then none
  else some [.fresh (namedKeys s.power.retained),
    .mgmt { s.mgmt with stage := 2, derive := some { next := 0, code := 0, layer := 0 } }]

/-- The outcome of a step that comes about with the power cut as well. -/
def always (s : State) (l : Option (List Eff)) : Host.Outcome State Fault Refusal :=
  .next (after s l)

/-- The step `STANDBY_RAIL_LOSS`: nothing survives. -/
def standbyRailLossRun (s : State) : Option (List Eff) :=
  some [.power { s.power with retained := [] }]

/-! ### The steps -/

/-- The step `THERMAL_LEVEL_ENTER`. -/
def execThermalLevelEnter (s : State) : Host.Outcome State Fault Refusal :=
  finish s (thermalLevelEnterRun s)

/-- The step `THERMAL_LEVEL_LEAVE`. -/
def execThermalLevelLeave (s : State) : Host.Outcome State Fault Refusal :=
  finish s (thermalLevelLeaveRun s)

/-- The step `HARD_TRIP`. -/
def execHardTrip (s : State) : Host.Outcome State Fault Refusal :=
  finish s (hardTripRun s)

/-- The step `MEMORY_TRAINED`. -/
def execMemoryTrained (s : State) : Host.Outcome State Fault Refusal :=
  finish s (memoryTrainedRun s)

/-- The step `POWER_GOOD`. -/
def execPowerGood (s : State) : Host.Outcome State Fault Refusal :=
  always s (powerGoodRun s)

/-- The step `STANDBY_RAIL_LOSS`. -/
def execStandbyRailLoss (s : State) : Host.Outcome State Fault Refusal :=
  always s (standbyRailLossRun s)

end Sys2Proof.Machine
end

