-- ==== Sys2Proof/Machine/Dispatch.lean ====
section
/-!
DEFINITION. The meaning of every step: one arm for each row of the opcode table.
-/

namespace Sys2Proof.Machine

/-- The step that an instruction or an event of the part makes. -/
def exec (i : Instr) (s : State) : Host.Outcome State Fault Refusal :=
  match i with
  | .nop => Sys2Proof.Machine.execNop s
  | .j o => Sys2Proof.Machine.execJ o s
  | .jal o => Sys2Proof.Machine.execJal o s
  | .jr a im => Sys2Proof.Machine.execJr a im s
  | .jalr d a im => Sys2Proof.Machine.execJalr d a im s
  | .bEq a b o => Sys2Proof.Machine.execBEq a b o s
  | .bNe a b o => Sys2Proof.Machine.execBNe a b o s
  | .bLt a b o => Sys2Proof.Machine.execBLt a b o s
  | .bGe a b o => Sys2Proof.Machine.execBGe a b o s
  | .bLtu a b o => Sys2Proof.Machine.execBLtu a b o s
  | .bGeu a b o => Sys2Proof.Machine.execBGeu a b o s
  | .loop v c n => Sys2Proof.Machine.execLoop v c n s
  | .lbrk v => Sys2Proof.Machine.execLbrk v s
  | .lbrkStay v => Sys2Proof.Machine.execLbrkStay v s
  | .fork a b o => Sys2Proof.Machine.execFork a b o s
  | .join d a im => Sys2Proof.Machine.execJoin d a im s
  | .susp a im => Sys2Proof.Machine.execSusp a im s
  | .yield => Sys2Proof.Machine.execYield s
  | .halt => Sys2Proof.Machine.execHalt s
  | .ldB d a sx o => Sys2Proof.Machine.execLdB d a sx o s
  | .ldBu d a sx o => Sys2Proof.Machine.execLdBu d a sx o s
  | .ldH d a sx o => Sys2Proof.Machine.execLdH d a sx o s
  | .ldHu d a sx o => Sys2Proof.Machine.execLdHu d a sx o s
  | .ldW d a sx o => Sys2Proof.Machine.execLdW d a sx o s
  | .ldWu d a sx o => Sys2Proof.Machine.execLdWu d a sx o s
  | .ldD d a sx o => Sys2Proof.Machine.execLdD d a sx o s
  | .stB d a sx o => Sys2Proof.Machine.execStB d a sx o s
  | .stH d a sx o => Sys2Proof.Machine.execStH d a sx o s
  | .stW d a sx o => Sys2Proof.Machine.execStW d a sx o s
  | .stD d a sx o => Sys2Proof.Machine.execStD d a sx o s
  | .vld d a sx o => Sys2Proof.Machine.execVld d a sx o s
  | .vst d a sx o => Sys2Proof.Machine.execVst d a sx o s
  | .vldm d a sx m o => Sys2Proof.Machine.execVldm d a sx m o s
  | .vstm d a sx m o => Sys2Proof.Machine.execVstm d a sx m o s
  | .vgat d a b z sx => Sys2Proof.Machine.execVgat d a b z sx s
  | .vsca d a b z sx => Sys2Proof.Machine.execVsca d a b z sx s
  | .pref a sx o => Sys2Proof.Machine.execPref a sx o s
  | .ldfe d a sx o => Sys2Proof.Machine.execLdfe d a sx o s
  | .ldfx d a sx o => Sys2Proof.Machine.execLdfx d a sx o s
  | .stfe d a sx o => Sys2Proof.Machine.execStfe d a sx o s
  | .stff d a sx o => Sys2Proof.Machine.execStff d a sx o s
  | .fepoll d a sx o => Sys2Proof.Machine.execFepoll d a sx o s
  | .fesetE a sx o => Sys2Proof.Machine.execFesetE a sx o s
  | .fesetF a sx o => Sys2Proof.Machine.execFesetF a sx o s
  | .amo d a b sx z o => Sys2Proof.Machine.execAmo d a b sx z o s
  | .cas d a b c sx z => Sys2Proof.Machine.execCas d a b c sx z s
  | .fenceAcq a v r => Sys2Proof.Machine.execFenceAcq a v r s
  | .fenceRel a v r => Sys2Proof.Machine.execFenceRel a v r s
  | .fenceAr a v r => Sys2Proof.Machine.execFenceAr a v r s
  | .fenceSc a v r => Sys2Proof.Machine.execFenceSc a v r s
  | .bar d a b v r n => Sys2Proof.Machine.execBar d a b v r n s
  | .barnb d a b v r n => Sys2Proof.Machine.execBarnb d a b v r n s
  | .send a b n => Sys2Proof.Machine.execSend a b n s
  | .recv d n => Sys2Proof.Machine.execRecv d n s
  | .rprobe d n => Sys2Proof.Machine.execRprobe d n s
  | .sbind d a => Sys2Proof.Machine.execSbind d a s
  | .sclose d => Sys2Proof.Machine.execSclose d s
  | .xcopy a b c fe q => Sys2Proof.Machine.execXcopy a b c fe q s
  | .xcopyFill a b c fe q => Sys2Proof.Machine.execXcopyFill a b c fe q s
  | .xgat a b c => Sys2Proof.Machine.execXgat a b c s
  | .xgatSca a b c => Sys2Proof.Machine.execXgatSca a b c s
  | .xgatScadd a b c => Sys2Proof.Machine.execXgatScadd a b c s
  | .xform a b c => Sys2Proof.Machine.execXform a b c s
  | .xformRans a b c => Sys2Proof.Machine.execXformRans a b c s
  | .xcoll a b c => Sys2Proof.Machine.execXcoll a b c s
  | .xcollBcast a b c => Sys2Proof.Machine.execXcollBcast a b c s
  | .xwait d a => Sys2Proof.Machine.execXwait d a s
  | .xwaitPoll d a => Sys2Proof.Machine.execXwaitPoll d a s
  | .tlrchk a b => Sys2Proof.Machine.execTlrchk a b s
  | .lnew a b c => Sys2Proof.Machine.execLnew a b c s
  | .lfree a => Sys2Proof.Machine.execLfree a s
  | .lpose a b => Sys2Proof.Machine.execLpose a b s
  | .lcommit a b => Sys2Proof.Machine.execLcommit a b s
  | .lsplit a b c => Sys2Proof.Machine.execLsplit a b c s
  | .lmerge a b c => Sys2Proof.Machine.execLmerge a b c s
  | .lerr a b => Sys2Proof.Machine.execLerr a b s
  | .lerrHdr a b => Sys2Proof.Machine.execLerrHdr a b s
  | .lprice a b => Sys2Proof.Machine.execLprice a b s
  | .lorder a b => Sys2Proof.Machine.execLorder a b s
  | .llight a b c => Sys2Proof.Machine.execLlight a b c s
  | .llightBump a => Sys2Proof.Machine.execLlightBump a s
  | .lshadow a b => Sys2Proof.Machine.execLshadow a b s
  | .lreqTmpl a b => Sys2Proof.Machine.execLreqTmpl a b s
  | .lreqNow a => Sys2Proof.Machine.execLreqNow a s
  | .lreqClr a => Sys2Proof.Machine.execLreqClr a s
  | .twput d fe im => Sys2Proof.Machine.execTwput d fe im s
  | .twget d fe im => Sys2Proof.Machine.execTwget d fe im s
  | .twtest d w => Sys2Proof.Machine.execTwtest d w s
  | .crd d r => Sys2Proof.Machine.execCrd d r s
  | .cwr a r => Sys2Proof.Machine.execCwr a r s
  | .crx d a r => Sys2Proof.Machine.execCrx d a r s
  | .trap a n => Sys2Proof.Machine.execTrap a n s
  | .rte => Sys2Proof.Machine.execRte s
  | .wrd d a b => Sys2Proof.Machine.execWrd d a b s
  | .wwr d a b => Sys2Proof.Machine.execWwr d a b s
  | .walloc d => Sys2Proof.Machine.execWalloc d s
  | .wallocRel a => Sys2Proof.Machine.execWallocRel a s
  | .slotctlKill d a => Sys2Proof.Machine.execSlotctlKill d a s
  | .slotctlStat d a => Sys2Proof.Machine.execSlotctlStat d a s
  | .slotctlStop d a => Sys2Proof.Machine.execSlotctlStop d a s
  | .slotctlGo d a => Sys2Proof.Machine.execSlotctlGo d a s
  | .tsc d im => Sys2Proof.Machine.execTsc d im s
  | .wspx d a b => Sys2Proof.Machine.execWspx d a b s
  | .mlicQ d => Sys2Proof.Machine.execMlicQ d s
  | .mlicAcq d => Sys2Proof.Machine.execMlicAcq d s
  | .mlicRel d => Sys2Proof.Machine.execMlicRel d s
  | .add d a b => Sys2Proof.Machine.execAdd d a b s
  | .sub d a b => Sys2Proof.Machine.execSub d a b s
  | .and d a b => Sys2Proof.Machine.execAnd d a b s
  | .or d a b => Sys2Proof.Machine.execOr d a b s
  | .xor d a b => Sys2Proof.Machine.execXor d a b s
  | .shl d a b => Sys2Proof.Machine.execShl d a b s
  | .shr d a b => Sys2Proof.Machine.execShr d a b s
  | .sra d a b => Sys2Proof.Machine.execSra d a b s
  | .mul d a b => Sys2Proof.Machine.execMul d a b s
  | .mulh d a b => Sys2Proof.Machine.execMulh d a b s
  | .mulhu d a b => Sys2Proof.Machine.execMulhu d a b s
  | .div d a b => Sys2Proof.Machine.execDiv d a b s
  | .divu d a b => Sys2Proof.Machine.execDivu d a b s
  | .rem d a b => Sys2Proof.Machine.execRem d a b s
  | .remu d a b => Sys2Proof.Machine.execRemu d a b s
  | .min d a b => Sys2Proof.Machine.execMin d a b s
  | .max d a b => Sys2Proof.Machine.execMax d a b s
  | .minu d a b => Sys2Proof.Machine.execMinu d a b s
  | .maxu d a b => Sys2Proof.Machine.execMaxu d a b s
  | .slt d a b => Sys2Proof.Machine.execSlt d a b s
  | .sltu d a b => Sys2Proof.Machine.execSltu d a b s
  | .clz d a => Sys2Proof.Machine.execClz d a s
  | .ctz d a => Sys2Proof.Machine.execCtz d a s
  | .popc d a => Sys2Proof.Machine.execPopc d a s
  | .revB d a => Sys2Proof.Machine.execRevB d a s
  | .revBit d a => Sys2Proof.Machine.execRevBit d a s
  | .ext d a u n => Sys2Proof.Machine.execExt d a u n s
  | .ins d a u n => Sys2Proof.Machine.execIns d a u n s
  | .sel d a b c => Sys2Proof.Machine.execSel d a b c s
  | .addi d a im => Sys2Proof.Machine.execAddi d a im s
  | .andi d a im => Sys2Proof.Machine.execAndi d a im s
  | .ori d a im => Sys2Proof.Machine.execOri d a im s
  | .xori d a im => Sys2Proof.Machine.execXori d a im s
  | .shli d a n => Sys2Proof.Machine.execShli d a n s
  | .shri d a n => Sys2Proof.Machine.execShri d a n s
  | .srai d a n => Sys2Proof.Machine.execSrai d a n s
  | .slti d a im => Sys2Proof.Machine.execSlti d a im s
  | .kon d im => Sys2Proof.Machine.execKon d im s
  | .konh d im => Sys2Proof.Machine.execKonh d im s
  | .sltiu d a im => Sys2Proof.Machine.execSltiu d a im s
  | .vadd d a b sx r t => Sys2Proof.Machine.execVadd d a b sx r t s
  | .vsub d a b sx r t => Sys2Proof.Machine.execVsub d a b sx r t s
  | .vmul d a b sx r t => Sys2Proof.Machine.execVmul d a b sx r t s
  | .vmulh d a b sx r t => Sys2Proof.Machine.execVmulh d a b sx r t s
  | .vfma d a b sx r t => Sys2Proof.Machine.execVfma d a b sx r t s
  | .vfms d a b sx r t => Sys2Proof.Machine.execVfms d a b sx r t s
  | .vfnma d a b sx r t => Sys2Proof.Machine.execVfnma d a b sx r t s
  | .vdiv d a b sx r t => Sys2Proof.Machine.execVdiv d a b sx r t s
  | .vsqrt d a sx r t => Sys2Proof.Machine.execVsqrt d a sx r t s
  | .vmin d a b sx r t => Sys2Proof.Machine.execVmin d a b sx r t s
  | .vmax d a b sx r t => Sys2Proof.Machine.execVmax d a b sx r t s
  | .vminn d a b sx r t => Sys2Proof.Machine.execVminn d a b sx r t s
  | .vmaxn d a b sx r t => Sys2Proof.Machine.execVmaxn d a b sx r t s
  | .vabs d a sx r t => Sys2Proof.Machine.execVabs d a sx r t s
  | .vneg d a sx r t => Sys2Proof.Machine.execVneg d a sx r t s
  | .vand d a b => Sys2Proof.Machine.execVand d a b s
  | .vor d a b => Sys2Proof.Machine.execVor d a b s
  | .vxor d a b => Sys2Proof.Machine.execVxor d a b s
  | .vnot d a => Sys2Proof.Machine.execVnot d a s
  | .vshl d a b sx r t => Sys2Proof.Machine.execVshl d a b sx r t s
  | .vshr d a b sx r t => Sys2Proof.Machine.execVshr d a b sx r t s
  | .vsra d a b sx r t => Sys2Proof.Machine.execVsra d a b sx r t s
  | .vcmp d a b c u t => Sys2Proof.Machine.execVcmp d a b c u t s
  | .vsel d a b c => Sys2Proof.Machine.execVsel d a b c s
  | .vsplat d a u t => Sys2Proof.Machine.execVsplat d a u t s
  | .vins d a b u t => Sys2Proof.Machine.execVins d a b u t s
  | .vext d a b u t => Sys2Proof.Machine.execVext d a b u t s
  | .vshuf d a b => Sys2Proof.Machine.execVshuf d a b s
  | .vzip d a b h u t => Sys2Proof.Machine.execVzip d a b h u t s
  | .vunzip d a b h u t => Sys2Proof.Machine.execVunzip d a b h u t s
  | .vred d a o sx r t => Sys2Proof.Machine.execVred d a o sx r t s
  | .vdot d a b sx r t => Sys2Proof.Machine.execVdot d a b sx r t s
  | .vsad d a b sx r t => Sys2Proof.Machine.execVsad d a b sx r t s
  | .vcvt d a sx r t => Sys2Proof.Machine.execVcvt d a sx r t s
  | .vpack d a n sx c => Sys2Proof.Machine.execVpack d a n sx c s
  | .vunpack d a n c => Sys2Proof.Machine.execVunpack d a n c s
  | .vrcp d a sx r t => Sys2Proof.Machine.execVrcp d a sx r t s
  | .vrsq d a sx r t => Sys2Proof.Machine.execVrsq d a sx r t s
  | .vexp2 d a sx r t => Sys2Proof.Machine.execVexp2 d a sx r t s
  | .vlog2 d a sx r t => Sys2Proof.Machine.execVlog2 d a sx r t s
  | .vsin d a sx r t => Sys2Proof.Machine.execVsin d a sx r t s
  | .vcos d a sx r t => Sys2Proof.Machine.execVcos d a sx r t s
  | .vclass d a t => Sys2Proof.Machine.execVclass d a t s
  | .vmov d a => Sys2Proof.Machine.execVmov d a s
  | .mand d a b => Sys2Proof.Machine.execMand d a b s
  | .mandNot d a b => Sys2Proof.Machine.execMandNot d a b s
  | .mor d a b => Sys2Proof.Machine.execMor d a b s
  | .morG d a b => Sys2Proof.Machine.execMorG d a b s
  | .mxor d a b => Sys2Proof.Machine.execMxor d a b s
  | .mnot d a => Sys2Proof.Machine.execMnot d a s
  | .mcnt d a => Sys2Proof.Machine.execMcnt d a s
  | .mcntRaw d a => Sys2Proof.Machine.execMcntRaw d a s
  | .mfirst d a => Sys2Proof.Machine.execMfirst d a s
  | .bbind a b => Sys2Proof.Machine.execBbind a b s
  | .bget d im => Sys2Proof.Machine.execBget d im s
  | .bgetv d a => Sys2Proof.Machine.execBgetv d a s
  | .bpeek d im => Sys2Proof.Machine.execBpeek d im s
  | .bskip a im => Sys2Proof.Machine.execBskip a im s
  | .bpos d => Sys2Proof.Machine.execBpos d s
  | .bposLeft d => Sys2Proof.Machine.execBposLeft d s
  | .bposState d => Sys2Proof.Machine.execBposState d s
  | .ansd d a b => Sys2Proof.Machine.execAnsd d a b s
  | .mma a b c fe q x y => Sys2Proof.Machine.execMma a b c fe q x y s
  | .mmac a b c fe q x y => Sys2Proof.Machine.execMmac a b c fe q x y s
  | .mmz a w => Sys2Proof.Machine.execMmz a w s
  | .mmd a b fe q k w => Sys2Proof.Machine.execMmd a b fe q k w s
  | .munf a b c => Sys2Proof.Machine.execMunf a b c s
  | .qld d g sx => Sys2Proof.Machine.execQld d g sx s
  | .qst a g sx => Sys2Proof.Machine.execQst a g sx s
  | .qcomp d a b => Sys2Proof.Machine.execQcomp d a b s
  | .qinv d a => Sys2Proof.Machine.execQinv d a s
  | .qrnd d => Sys2Proof.Machine.execQrnd d s
  | .qid d => Sys2Proof.Machine.execQid d s
  | .qapp a g v => Sys2Proof.Machine.execQapp a g v s
  | .qtile a g => Sys2Proof.Machine.execQtile a g s
  | .qcyc a g => Sys2Proof.Machine.execQcyc a g s
  | .qchk g d sx => Sys2Proof.Machine.execQchk g d sx s
  | .barrelTurn => Sys2Proof.Machine.execBarrelTurn s
  | .asyncResultWrite => Sys2Proof.Machine.execAsyncResultWrite s
  | .deferredTrap => Sys2Proof.Machine.execDeferredTrap s
  | .trapRecordEnqueue => Sys2Proof.Machine.execTrapRecordEnqueue s
  | .storeBufferDrain => Sys2Proof.Machine.execStoreBufferDrain s
  | .stationWrite => Sys2Proof.Machine.execStationWrite s
  | .homeAtomic => Sys2Proof.Machine.execHomeAtomic s
  | .feHomeOperation => Sys2Proof.Machine.execFeHomeOperation s
  | .waitLimitTrap => Sys2Proof.Machine.execWaitLimitTrap s
  | .twinWaitLimitTrap => Sys2Proof.Machine.execTwinWaitLimitTrap s
  | .barrierArrival => Sys2Proof.Machine.execBarrierArrival s
  | .channelDelivery => Sys2Proof.Machine.execChannelDelivery s
  | .streamElementArrival => Sys2Proof.Machine.execStreamElementArrival s
  | .engineCommandStart => Sys2Proof.Machine.execEngineCommandStart s
  | .engineCommandComplete => Sys2Proof.Machine.execEngineCommandComplete s
  | .collectiveComplete => Sys2Proof.Machine.execCollectiveComplete s
  | .matrixOperationRetire => Sys2Proof.Machine.execMatrixOperationRetire s
  | .routeSolveComplete => Sys2Proof.Machine.execRouteSolveComplete s
  | .licenceService => Sys2Proof.Machine.execLicenceService s
  | .licenceQuantumExpiry => Sys2Proof.Machine.execLicenceQuantumExpiry s
  | .licencePass => Sys2Proof.Machine.execLicencePass s
  | .forkRecordPush => Sys2Proof.Machine.execForkRecordPush s
  | .idleSlotSeek => Sys2Proof.Machine.execIdleSlotSeek s
  | .hangDetected => Sys2Proof.Machine.execHangDetected s
  | .slotLevelApply => Sys2Proof.Machine.execSlotLevelApply s
  | .boostIntervalBoundary => Sys2Proof.Machine.execBoostIntervalBoundary s
  | .widxUpdate => Sys2Proof.Machine.execWidxUpdate s
  | .gafferServiceStep => Sys2Proof.Machine.execGafferServiceStep s
  | .launch => Sys2Proof.Machine.execLaunch s
  | .wait => Sys2Proof.Machine.execWait s
  | .signal => Sys2Proof.Machine.execSignal s
  | .barrierAnd => Sys2Proof.Machine.execBarrierAnd s
  | .sceneFrame => Sys2Proof.Machine.execSceneFrame s
  | .cohortWrite => Sys2Proof.Machine.execCohortWrite s
  | .signalReread => Sys2Proof.Machine.execSignalReread s
  | .launchComplete => Sys2Proof.Machine.execLaunchComplete s
  | .dieReport => Sys2Proof.Machine.execDieReport s
  | .qholdExpiry => Sys2Proof.Machine.execQholdExpiry s
  | .pageRequestReply => Sys2Proof.Machine.execPageRequestReply s
  | .pageRequestTimeout => Sys2Proof.Machine.execPageRequestTimeout s
  | .preemptionInterrupt => Sys2Proof.Machine.execPreemptionInterrupt s
  | .preemptionSave => Sys2Proof.Machine.execPreemptionSave s
  | .contextResume => Sys2Proof.Machine.execContextResume s
  | .messageForward => Sys2Proof.Machine.execMessageForward s
  | .layerInstructionPerform => Sys2Proof.Machine.execLayerInstructionPerform s
  | .frameStart => Sys2Proof.Machine.execFrameStart s
  | .frameEnd => Sys2Proof.Machine.execFrameEnd s
  | .status => Sys2Proof.Machine.execStatus s
  | .qreg => Sys2Proof.Machine.execQreg s
  | .qunreg => Sys2Proof.Machine.execQunreg s
  | .part => Sys2Proof.Machine.execPart s
  | .savereg => Sys2Proof.Machine.execSavereg s
  | .inval => Sys2Proof.Machine.execInval s
  | .lmeta => Sys2Proof.Machine.execLmeta s
  | .scrub => Sys2Proof.Machine.execScrub s
  | .errcnt => Sys2Proof.Machine.execErrcnt s
  | .staging => Sys2Proof.Machine.execStaging s
  | .stage => Sys2Proof.Machine.execStage s
  | .horead => Sys2Proof.Machine.execHoread s
  | .registerWrite => Sys2Proof.Machine.execRegisterWrite s
  | .quiesceSafePoint => Sys2Proof.Machine.execQuiesceSafePoint s
  | .quiesceTimeout => Sys2Proof.Machine.execQuiesceTimeout s
  | .heartbeat => Sys2Proof.Machine.execHeartbeat s
  | .probationDeadline => Sys2Proof.Machine.execProbationDeadline s
  | .fallback => Sys2Proof.Machine.execFallback s
  | .keyDerivationComplete => Sys2Proof.Machine.execKeyDerivationComplete s
  | .powerGood => Sys2Proof.Machine.execPowerGood s
  | .memoryTrained => Sys2Proof.Machine.execMemoryTrained s
  | .getVersion => Sys2Proof.Machine.execGetVersion s
  | .getCapabilities => Sys2Proof.Machine.execGetCapabilities s
  | .negotiateAlgorithms => Sys2Proof.Machine.execNegotiateAlgorithms s
  | .getDigests => Sys2Proof.Machine.execGetDigests s
  | .getCertificate => Sys2Proof.Machine.execGetCertificate s
  | .challenge => Sys2Proof.Machine.execChallenge s
  | .getMeasurements => Sys2Proof.Machine.execGetMeasurements s
  | .linkTraining => Sys2Proof.Machine.execLinkTraining s
  | .hostDeviceMemoryAccess => Sys2Proof.Machine.execHostDeviceMemoryAccess s
  | .linkDown => Sys2Proof.Machine.execLinkDown s
  | .linkDownTimeout => Sys2Proof.Machine.execLinkDownTimeout s
  | .kenlinkTraining => Sys2Proof.Machine.execKenlinkTraining s
  | .peerGlAccess => Sys2Proof.Machine.execPeerGlAccess s
  | .peerDeviceFailed => Sys2Proof.Machine.execPeerDeviceFailed s
  | .thermalLevelEnter => Sys2Proof.Machine.execThermalLevelEnter s
  | .thermalLevelLeave => Sys2Proof.Machine.execThermalLevelLeave s
  | .hardTrip => Sys2Proof.Machine.execHardTrip s
  | .standbyRailLoss => Sys2Proof.Machine.execStandbyRailLoss s

end Sys2Proof.Machine
end

