-- ==== Sys2Proof/Machine/Step.lean ====
section
/-!
DEFINITION. One step of the part, and a machine that runs a given word next.
-/

namespace Sys2Proof.Machine

/-- The steps that the part takes of itself. Every other step without a word is the act of an outside
agent: the host, a peer, a sensor, the supply. -/
def ownSteps : List Instr :=
  [.barrelTurn, .asyncResultWrite, .deferredTrap, .trapRecordEnqueue, .storeBufferDrain,
   .stationWrite, .homeAtomic, .feHomeOperation, .waitLimitTrap, .twinWaitLimitTrap,
   .barrierArrival, .channelDelivery, .streamElementArrival, .engineCommandStart,
   .engineCommandComplete, .collectiveComplete, .matrixOperationRetire, .routeSolveComplete,
   .licenceService, .licenceQuantumExpiry, .licencePass, .forkRecordPush, .idleSlotSeek,
   .hangDetected, .slotLevelApply, .boostIntervalBoundary, .widxUpdate, .gafferServiceStep,
   .launch, .wait, .signal, .barrierAnd, .sceneFrame, .cohortWrite, .signalReread, .launchComplete,
   .dieReport, .qholdExpiry, .pageRequestTimeout, .preemptionInterrupt, .preemptionSave,
   .contextResume, .messageForward, .layerInstructionPerform, .frameStart, .frameEnd, .status,
   .qreg, .qunreg, .part, .savereg, .inval, .lmeta, .scrub, .errcnt, .staging, .stage, .horead,
   .quiesceSafePoint, .quiesceTimeout, .heartbeat, .probationDeadline, .fallback,
   .keyDerivationComplete, .linkDownTimeout]

/-- Free number j of this step (log 1). -/
def State.pick (s : State) (j : Nat) : Nat := Config.choice (8 * s.free + j)

/-- What a step of the part's own acts on, as free choices name it. -/
def State.pickSel (s : State) : Sel :=
  { core := s.pick 1 % 4096, slot := s.pick 2 % 16, num := s.pick 3, aux := s.pick 4,
    yes := (s.pick 5).testBit 0, write := (s.pick 5).testBit 1, data := [] }

/-- TIME advanced by 1 ns (04 R133). -/
def advance (s : State) : State := applyAll s ((Run.start s).emit (.time (s.time + 1))).sample.done

/-- TIME goes on: it does not pass a boundary of the power controller's intervals that has not been
treated, nor the 10 ms for which an access waits for a link (20 R401, 25 R445). -/
def tick (s : State) : Host.Outcome State Fault Refusal :=
  if s.power.boundary ≤ s.time.toNat then exec .boostIntervalBoundary s
  else if linkLapses s then exec .linkDownTimeout s
  else .next (advance s)

/-- A step that nothing has put on the agenda: TIME goes on, or a step of the part's own is taken
where it is due, or a core takes its turn (log 1). -/
def freeStep (s : State) : Host.Outcome State Fault Refusal :=
  let k := s.pick 0
  let t := { s with free := s.free + 1, sel := s.pickSel }
  if k = 0 then tick t
  else match ownSteps[(k - 1) % ownSteps.length]? with
    | none => exec .barrelTurn t
    | some i =>
      match exec i t with
      | .next u => .next u
      | _ => exec .barrelTurn t

/-- One step of the part. -/
def step (s : State) : Host.Outcome State Fault Refusal :=
  match s.agenda with
  | (i, x) :: rest => exec i { s with agenda := rest, sel := x }
  | [] => if s.powered then freeStep s else .fault .powerOff

/-! ### A given word as the next instruction -/

/-- Where `withFetchWord` puts its translation root, its range table and its bundle. -/
def probeRoot : Nat := 0x1000

/-- The physical address of the range table, one entry. -/
def probeTable : Nat := 0x2000

/-- The virtual and physical address of the bundle, 8-aligned. -/
def probePc : Nat := 0x10000

/-- The words of the bundle that holds a word: a lone word, the first word of a pair, or the second,
beside `nop` or `add g0, g0, g0`. -/
def probeWords (w : Nat) : List Nat :=
  let x : BitVec 32 := BitVec.ofNat 32 w
  if x.getLsbD 31 then [w % 2 ^ 32]
  else if x.getLsbD 30 then [0, w % 2 ^ 32]
  else [w % 2 ^ 32, 0x40000000]

/-- The context of the probe: every address of the first GiB of HBM may be fetched. -/
def probeContext : Context :=
  { addr := 0, pid := 0, xlat := BitVec.ofNat 64 probeRoot, rootBad := false, rtab := probeTable, rcnt := 1, pt0 := 0, ovfb := 0x20000,
    ovfs := 6, ovfTop := 0, ovfLaunch := [], groups := [], qw := 0, sceneAddr := 0, sgt := 0,
    scene := none, armed := [], rejected := [], sceneLaunch := none, given := true, moved := [], ended := false }

/-- The effects that place the tables and the bundle in HBM. -/
def probeMemory (s : State) (w : Nat) : List Eff :=
  let put (a : Nat) (l : List Nat) : List Eff :=
    (lineWrite s (physKey .hbm a) ((l.map (toBytes 8)).flatten) false true).1
  put probeRoot [probeTable + 2 ^ 57, 0, 0, 0, 0, 0, 0, 0]
    ++ put probeTable [0, 0x40000000, 0, 1 + 4 + 8 + 16, 0, 0, 0, 0]
    ++ (lineWrite s (physKey .hbm probePc)
      (((probeWords w).map (toBytes 4)).flatten ++ List.replicate 32 0 |>.take 32) false true).1

/-- The machine whose next step is the turn of core 0's slot 0 with a given word in its bundle: the
core holds a context, its supervisor stands at the bundle, and that turn is on the agenda
(log 2). -/
def State.withFetchWord (s : State) (_nbits w : Nat) : State :=
  let x := s.core 0
  let s := applyAll s (probeMemory s w)
  let s := applyAll s
    [.gaffer { s.gaffer with ctxs := mapPut s.gaffer.ctxs 0 probeContext },
     .core 0 { x with ctx := some 0, cycle := x.cycle &&& ~~~ 0xF, pre := none },
     .slot 0 0 { Slot.reset with wspV := true, synced := List.range s.oldWords.length },
     setPc 0 0 probePc]
  { s with powered := true, agenda := [(.barrelTurn, { core := 0 })] }

end Sys2Proof.Machine
end

