-- ==== Sys2Proof/Safety.lean ====
section
/-!
DEFINITION. The terms in which claims are made: the invariant of the state, when an instruction
issues on a turn, what the turn leaves unchanged, and the forms that results take.
-/

namespace Sys2Proof.Machine

/-! ### The invariant -/

/-- The canonical forms of the state: equal contents are equal data, and a read gives what was last
written. -/
structure State.Inv (s : State) : Prop where
  mem      : Memory.wf s.mem = true
  empties  : rising s.empties = true
  lineMeta : mapWf 0 s.lineMeta = true
  slots    : mapWf Slot.reset s.slots = true
  cores    : mapWf CoreSt.reset s.cores = true
  quads    : mapWf Quad.reset s.quads = true

/-! ### The turn of the core that `sel` names -/

/-- The core whose turn it is. -/
def State.hereCore (s : State) : Nat := s.sel.core

/-- The slot that has the turn (02 R37). -/
def State.hereSlot (s : State) : Nat := turnSlot s s.hereCore

/-- The slot's record. -/
def State.here (s : State) : Slot := s.slot s.hereCore s.hereSlot

/-- The workspace block of the slot's thread. -/
def State.hereBlock (s : State) : Nat := s.here.block

/-- The address of the bundle that the thread issues. -/
def State.herePc (s : State) : Nat := fetchPc s s.hereCore s.hereSlot

/-- The core's record. -/
def State.hereOf (s : State) : CoreSt := s.core s.hereCore

/-- g register r of the thread. -/
def State.g (s : State) (r : Reg) : Word := gReg s s.hereCore s.hereBlock r

/-- v register r of the thread. -/
def State.v (s : State) (r : Reg) : Vec := vReg s s.hereCore s.hereBlock r

/-- m register r of the thread. -/
def State.m (s : State) (r : Reg) : BitVec 16 := mReg s s.hereCore s.hereBlock r

/-- q register r of the thread. -/
def State.q (s : State) (r : BitVec 3) : BitVec 384 := qReg s s.hereCore s.hereBlock r

/-- The word of an instruction standing alone. -/
def loneWord (i : Instr) : BitVec 32 := (encodeLone i false).getD 0

/-- The codes of the queue ports e0 to e3 that an instruction pushes or pops, each as often as it
does. -/
def queuePorts (i : Instr) : List Nat :=
  (writesOf i ++ readsOf i).filter fun c => decide (60 ≤ c ∧ c < 64)

/-- THE TURN REACHES THE INSTRUCTION as a lone word: the part has power; the slot holds a thread
that is not held, stopped, ending, trapped or pre-empted; no fault awaits it and it is not parked; no change
of its core's level is due (20 R398);
the instruction is well formed and the slot has the right to it (04 R126); none of its registers
is pending (02 R61); it takes no queue port twice (02 R49); the ports that it reads give the
elements `vals`, taken by the effects `pops`; and n more operations do not exceed 16 (02 R43). -/
structure Reaches (s : State) (i : Instr) (n : Nat) (vals : List (Nat × Vec)) (pops : List Eff) :
    Prop where
  powered : s.powered = true
  free    : slotBarred s s.hereCore s.hereSlot = false
  faults  : s.here.faults = []
  park    : s.here.park = none
  level   : s.hereSlot ≠ 0 ∨ setLevel s s.hereCore = s.hereOf.level
  formed  : wellFormed i = true
  right   : s.hereSlot = 0 ∨ privileged i = false
  clear   : pendingOf s.here (readsOf i ++ writesOf i) = []
  once    : ∀ p ∈ queuePorts i, (queuePorts i).count p ≤ 1
  ports   : gatherPorts s.hereCore s.hereSlot s.here (portCodes (readsOf i)).eraseDups = .ok vals pops
  fits    : s.here.outstanding + n ≤ 16

/-- THE INSTRUCTION ISSUES on this turn: the turn reaches it, and a `susp` or `yield` finds nothing of its
thread outstanding (02 R42). -/
structure Issues (s : State) (i : Instr) (n : Nat) (vals : List (Nat × Vec)) (pops : List Eff) : Prop
    extends Reaches s i n vals pops where
  settled : needsIdle i = true → s.here.outstanding = 0

/-- The instruction issues, starts no operation and reads no port. -/
def Plain (s : State) (i : Instr) : Prop := Issues s i 0 [] []

/-- A vector operand: a register below 24, else the element that its port gives. -/
def State.vIn (s : State) (vals : List (Nat × Vec)) (r : Reg) : Vec :=
  if r.toNat < 24 then s.v r else (mapFind vals r.toNat).getD 0

/-- The operands of the instruction as its meaning sees them. -/
def State.env (s : State) (i : Instr) (vals : List (Nat × Vec)) : Env :=
  { s := s, c := s.hereCore, sl := s.hereSlot, b := s.hereBlock, pc := s.herePc, npc := s.herePc + 4,
    word := loneWord i, idx := 0, pair := false, ports := vals }

/-- The state after the turn on which a lone word with these effects issues. -/
def State.issued (s : State) (r : Res) (pops : List Eff) : State :=
  applyAll s (((Run.start s).commit s.hereCore s.hereSlot s.herePc (s.herePc + 4) false false [r]
    pops).tick s.hereCore).done

/-! ### The end of a bundle -/

/-- Whether a loop level ends at the bundle (04 R108). -/
def State.loopEnds (s : State) : Bool :=
  (List.range 3).any fun l =>
    let x := loopState s s.hereCore s.hereBlock l
    x.active && x.lastWord == s.herePc

/-- The address after the bundle of a lone word. -/
def State.nextPc (s : State) : Nat := s.herePc + 4

/-- The loop levels in a workspace. -/
def loopBytes : List (Nat × Nat) := [(0x290, 48)]

/-- The loop levels, when one ends at the bundle. -/
def State.endBytes (s : State) : List (Nat × Nat) := if s.loopEnds then loopBytes else []

/-- The PC image in a workspace. -/
def pcBytes : List (Nat × Nat) := [(0x2E0, 8)]

/-! ### What a turn leaves unchanged -/

/-- Whether a key lies in one of some byte ranges of a workspace, each an offset and a count. -/
def inWorkspace (c b : Nat) (l : List (Nat × Nat)) (k : Nat) : Bool :=
  inRanges (l.map fun r => (localKey c .wm (b * 2048 + r.1), r.2)) k

/-- What an instruction changes beside its memory accesses: byte ranges of its thread's workspace, its
slot's record, its core's record, and the records of the quads. -/
structure Delta where
  l : List (Nat × Nat) := []
  f : Slot → Slot := id
  g : CoreSt → CoreSt := id
  h : Map Quad → Map Quad := id

/-- A slot whose thread does not sleep. -/
def Slot.roused (x : Slot) : Slot := { x with asleep := none }

/-- The Gaffer's record once a thread of a launch runs on: a launch found hung may be found hung again
(09 R281). -/
def Gaffer.woken (y : Gaffer) (l : Option Nat) : Gaffer :=
  match l with
  | none => y
  | some k =>
    match mapFind y.launches k with
    | some z => if z.hung then { y with launches := mapPut y.launches k { z with hung := false } } else y
    | none => y

/-- NOTHING ELSE CHANGES: between s and t, of all bytes of memory only the ranges that d names in the
thread's workspace and the PC image; the slot's record becomes d.f of it, as one that has issued; the
core's becomes d.g of it, with one cycle more and its set of lines that are not clean left open; the quads'
become d.h of them; the Gaffer notes that the thread's launch runs on, when it does so woken; and all other state is as it was. -/
structure Turned (s t : State) (d : Delta) : Prop where
  bytes : ∀ k, inWorkspace s.hereCore s.hereBlock (d.l ++ pcBytes) k = false →
    readByte t.mem k = readByte s.mem k
  slots : ∀ k, mapGet Slot.reset t.slots k =
    if k = slotKey s.hereCore s.hereSlot then (d.f s.here).awake else mapGet Slot.reset s.slots k
  core  : t.core s.hereCore = { d.g s.hereOf with
    cycle := s.hereOf.cycle + 1, dirty := (t.core s.hereCore).dirty }
  cores : ∀ k, k ≠ s.hereCore → t.core k = s.core k
  quads : t.quads = d.h s.quads
  gaffer : t.gaffer = s.gaffer.woken (wokenLaunch s s.hereCore s.here)
  rest  : { t with mem := s.mem, slots := s.slots, cores := s.cores, quads := s.quads,
                   gaffer := s.gaffer } = s

/-- As `Turned`, and of other memory only the bytes in some ranges, each a key and a count. -/
def Touched (s t : State) (a : List (Nat × Nat)) (d : Delta) : Prop :=
  Turned s { t with mem := s.mem } d ∧ ∀ k, inRanges a k = false →
    inWorkspace s.hereCore s.hereBlock (d.l ++ pcBytes) k = false → readByte t.mem k = readByte s.mem k

/-- Control is at an address. -/
def State.pcAt (t s : State) (a : Nat) : Prop := pcImage t s.hereCore s.hereBlock = a % 2 ^ 57

/-- The end step of a bundle whose last word lies at `last` (04 R108), on the loop levels x from level l - 1 down: the
levels afterwards, and where control goes, which is `pc` when no level goes round. -/
def levelsEnd (last pc : Nat) : Nat → (Nat → LoopState) → (Nat → LoopState) × Nat
  | 0, x => (x, pc)
  | l + 1, x =>
    if (x l).active = true ∧ (x l).lastWord = (last : Int) then
      if (x l).count = 1 then
        levelsEnd last pc l fun k => if k = l then { x l with active := false, count := 0 } else x k
      else (fun k => if k = l then { x l with count := if (x l).count = 0 then 2 ^ 48 - 1 else (x l).count - 1 }
        else if l < k then { x k with active := false } else x k, (x l).start)
    else levelsEnd last pc l x

/-- Ranges that hold neither a loop level nor the PC image. -/
def Aside (l : List (Nat × Nat)) : Prop :=
  ∀ x ∈ l, (x.1 + x.2 ≤ 0x290 ∨ 0x2C0 ≤ x.1) ∧ (x.1 + x.2 ≤ 0x2E0 ∨ 0x2E8 ≤ x.1)

/-- Control falls through to the next bundle, unless a loop level ends here; and a bundle that writes, in the ranges l,
no loop level and no PC image of its own leaves the levels and the PC as the end step does (04 R108). -/
def FallsThrough (s t : State) (l : List (Nat × Nat)) : Prop :=
  (s.loopEnds = false → t.pcAt s s.nextPc) ∧
  (Aside l → t.pcAt s (levelsEnd s.herePc s.nextPc 3 (fun k => loopState s s.hereCore s.hereBlock k)).2 ∧
    ∀ k, k < 3 → loopState t s.hereCore s.hereBlock k =
      (levelsEnd s.herePc s.nextPc 3 (fun k => loopState s s.hereCore s.hereBlock k)).1 k)

/-! ### The forms of results -/

/-- The instruction completes, control falls through, what d names changes, and of the state afterwards
P holds. -/
def Does (s : State) (i : Instr) (d : Delta) (P : State → Prop) : Prop :=
  ∃ t, exec i s = .next t ∧ FallsThrough s t d.l ∧ Turned s t { d with l := d.l ++ s.endBytes } ∧ P t

/-- The instruction completes, control goes to an address, what d names changes, and of the state
afterwards P holds. -/
def Goes (s : State) (i : Instr) (a : Nat) (d : Delta) (P : State → Prop) : Prop :=
  ∃ t, exec i s = .next t ∧ t.pcAt s a ∧ Turned s t d ∧ P t

/-- The state with one cycle of a core passed. -/
def State.ticked (s : State) (c : Nat) : State :=
  s.setCore c { s.core c with cycle := (s.core c).cycle + 1 }

/-- The state t after a precise trap of the bundle that stands next in s (02 R47, 12 R316): the slot holds the record
made, its park ends unless the cause keeps its waits, and one cycle has passed; all else is as in t. -/
def State.trapsFrom (t s : State) (cause : BitVec 8) (aux : Word) (aux2 : BitVec 32) : State :=
  (t.setSlot s.hereCore s.hereSlot { (t.slot s.hereCore s.hereSlot).unparked cause with
    trap := some { record := { trapRecord t s.hereSlot cause aux aux2 s.herePc false false with
                     launch := (t.slot s.hereCore s.hereSlot).launch, tid := (t.slot s.hereCore s.hereSlot).tid },
                   queued := false },
    asleep := none }).ticked s.hereCore

/-- The state after a precise trap of the thread's next bundle. -/
def State.trapsWith (s : State) (cause : BitVec 8) (aux : Word) (aux2 : BitVec 32) : State :=
  s.trapsFrom s cause aux aux2

/-- The instruction traps precisely with this cause and these auxiliary values. -/
def Traps (s : State) (i : Instr) (cause : BitVec 8) (aux : Word) (aux2 : BitVec 32) : Prop :=
  exec i s = .next (s.trapsWith cause aux aux2)

/-- The bytes of g register r. -/
def gBytes (r : Reg) : List (Nat × Nat) := if r = 0 then [] else [(8 * r.toNat, 8)]

/-- The bytes of v register r. -/
def vBytes (r : Reg) : List (Nat × Nat) := [(0x100 + 16 * r.toNat, 16)]

/-- The bytes of m register r. -/
def mBytes (r : Reg) : List (Nat × Nat) := [(0x280 + 2 * r.toNat, 2)]

/-- The FFLAGS byte. -/
def flagBytes : List (Nat × Nat) := [(0x2F0, 1)]

/-- g register r of the thread holds v in t: g0 reads zero (04 R93). -/
def State.gIs (t s : State) (r : Reg) (v : Word) : Prop :=
  gReg t s.hereCore s.hereBlock r = if r = 0 then 0 else v

/-- A slot from whose ports a bundle has taken an element (06 R192, 08 R231). -/
def Slot.pop (x : Slot) (e : Eff) : Slot :=
  match e with
  | .popResult _ _ p => x.setPort p { x.port p with results := (x.port p).results.drop 1 }
  | .popStream _ _ t =>
    match mapFind x.streams t with
    | none => x
    | some b => { x with streams := mapPut x.streams t { b with fifo := b.fifo.drop 1, taken := b.taken + 1 } }
  | _ => x

/-- A slot from whose ports a bundle has taken elements. -/
def Slot.pops (x : Slot) (l : List Eff) : Slot := l.foldl Slot.pop x

/-- The instruction completes: g register d holds v afterwards, control falls through, the ports read have
given their elements, and nothing else changes. -/
def SetsG (s : State) (i : Instr) (d : Reg) (v : Word) (pops : List Eff := []) : Prop :=
  Does s i { l := gBytes d, f := fun x => x.pops pops } fun t => t.gIs s d v

/-- The instruction completes: m register d holds v afterwards, control falls through, the ports read have
given their elements, and nothing else changes. -/
def SetsM (s : State) (i : Instr) (d : Reg) (v : BitVec 16) (pops : List Eff := []) : Prop :=
  Does s i { l := mBytes d, f := fun x => x.pops pops } fun t =>
    mReg t s.hereCore s.hereBlock d = v

/-- FFLAGS afterwards: the flags raised are set, every other bit is as it was (03 R85). -/
def State.raised (t s : State) (fl : Nat) : Prop :=
  fflagsOf t s.hereCore s.hereBlock = fflagsOf s s.hereCore s.hereBlock ||| BitVec.ofNat 14 (fl % 2 ^ 8)

/-- A division whose divisor is zero and whose trap is not enabled (04 R95): g register d holds v, DZ is
raised, control falls through, and nothing else changes. -/
def RaisesDZ (s : State) (i : Instr) (d : Reg) (v : Word) : Prop :=
  Does s i { l := gBytes d ++ flagBytes } fun t => t.gIs s d v ∧ t.raised s 8

/-- No enabled trap is among the flags that the elements raise (03 R86). -/
def State.quiet (s : State) (fl : List Nat) : Prop :=
  flagTrap (fflagsOf s s.hereCore s.hereBlock) 0 fl = none

/-- SRG afterwards: the state after the draws made, or as it was. -/
def State.drew (t s : State) (g : Option (BitVec 32)) : Prop :=
  srgOf t s.hereCore s.hereBlock = g.getD (srgOf s s.hereCore s.hereBlock)

/-- The bytes that the flags raised and the draws made change. -/
def besides (fl : Nat) (g : Option (BitVec 32)) : List (Nat × Nat) :=
  (if fl = 0 then [] else flagBytes) ++ (if g.isSome then [(0x2F8, 4)] else [])

/-! ### Effects that follow a bundle -/

/-- The state after a turn on which the thread's bundle does not issue: one cycle has passed, and a sleep that the
thread slept has ended. -/
def State.stays (s : State) : State :=
  (if s.here.asleep.isSome then s.setSlot s.hereCore s.hereSlot s.here.roused else s).ticked s.hereCore

/-- The bundle does not issue on this turn (02 R42), and nothing else happens. -/
def Stalls (s : State) (i : Instr) : Prop := exec i s = .next s.stays

/-- The instruction completes, and more follows its bundle: d changes and P holds of a state u in which control falls
through; u stands in relation K to a state v; and the state afterwards is v with the turn's cycle passed. -/
def Then (s : State) (i : Instr) (d : Delta) (P : State → Prop) (K : State → State → Prop) : Prop :=
  ∃ u v, exec i s = .next (v.ticked s.hereCore) ∧ FallsThrough s (u.ticked s.hereCore) d.l ∧
    Turned s (u.ticked s.hereCore) { d with l := d.l ++ s.endBytes } ∧ P u ∧ K u v

/-- The thread's earlier loads are satisfied before a load that is satisfied at issue (11 R303). -/
def Satisfied (s u v : State) : Prop :=
  v = ((Run.start u).satisfyBefore s.hereCore s.hereSlot s.here.tid s.here.seq).s

/-- Whether a read of the thread that comes before this bundle cannot be made on this turn: its page, its peer or a
barrier before it is awaited (11 R303; log 64). -/
def State.readsHeld (s : State) : Bool :=
  (((Run.start s).satisfyBefore s.hereCore s.hereSlot s.here.tid s.here.seq).s.slot s.hereCore
    s.hereSlot).unreadBefore s.here.tid s.here.seq

/-- A bundle that loads at issue (11 R303): the thread's earlier reads are made before it, and it waits for those that
cannot be; else it completes, with what d changes and P. -/
def Loads (s : State) (i : Instr) (d : Delta) (P : State → Prop) : Prop :=
  (s.readsHeld = true → Stalls s i) ∧ (s.readsHeld = false → Then s i d P (Satisfied s))

/-- The state with the thread's earlier loads satisfied (11 R303). -/
def State.satisfied (s : State) : State :=
  ((Run.start s).satisfyBefore s.hereCore s.hereSlot s.here.tid s.here.seq).s

/-- A bundle that a load at issue makes trap: the thread's earlier reads are made before it, and it waits for those that
cannot be (11 R303; log 64). -/
def TrapsAfterLoads (s : State) (i : Instr) (cause : BitVec 8) (aux : Word) (aux2 : BitVec 32) : Prop :=
  (s.readsHeld = true → Stalls s i) ∧
  (s.readsHeld = false → exec i s = .next (s.satisfied.trapsFrom s cause aux aux2))

/-- A load at issue from a space of the core: those of WM stand in the thread's order of loads, those of the buffers do
not (11 R303, 16 R364). -/
def LoadsIn (sp : Space) (s : State) (i : Instr) (d : Delta) (P : State → Prop) : Prop :=
  (sp = .wm → Loads s i d P) ∧ (sp ≠ .wm → Does s i d P)

/-- A trap that a load at issue from a space of the core gives. -/
def TrapsIn (sp : Space) (s : State) (i : Instr) (cause : BitVec 8) (aux : Word) (aux2 : BitVec 32) : Prop :=
  (sp = .wm → TrapsAfterLoads s i cause aux aux2) ∧ (sp ≠ .wm → Traps s i cause aux aux2)

/-- A VECTOR RESULT IS DELIVERED (02 R53, 05 R136) to destination d, with flags raised and draws made:
a v register is written; a push to a stream port traps 0x63; a push to a queue port adds an operand element to the
command that is open there, or opens a command with the header that acceptance lets through; a header whose own
checks fail traps, and one whose records' checks do so once they are read; where there is no room, or a q register that
is being solved, the bundle does not issue. -/
structure Delivers (s : State) (i : Instr) (vals : List (Nat × Vec)) (pops : List Eff) (d : Reg) (v : Vec)
    (fl : Nat) (g : Option (BitVec 32)) : Prop where
  reg : d.toNat < 24 →
    Does s i { l := vBytes d ++ besides fl g, f := fun x => x.pops pops } fun t =>
      vReg t s.hereCore s.hereBlock d = v ∧ t.raised s fl ∧ t.drew s g
  stream : 24 ≤ d.toNat → d.toNat < 28 →
    Traps s i 0x63 (BitVec.ofNat 64 (loneWord i).toNat) (BitVec.ofNat 32 d.toNat)
  operand : 28 ≤ d.toNat → ∀ cmd, (s.here.port (d.toNat - 28)).opened = some cmd →
    (s.here.port (d.toNat - 28)).used < 8 →
    Does s i { l := besides fl g, f := fun x => (x.operand (d.toNat - 28) v).pops pops } fun t =>
      t.raised s fl ∧ t.drew s g
  header : 28 ≤ d.toNat → (s.here.port (d.toNat - 28)).opened = none →
    (s.env i vals).headerFault (d.toNat - 28) v = none →
    ∀ cmd, (s.env i vals).accept (d.toNat - 28) v = .ok cmd →
    (s.here.port (d.toNat - 28)).used + 1 + field v 19 16 ≤ 8 →
    Loads s i { l := besides fl g,
                f := fun x => Slot.pops { x.accept (d.toNat - 28) { cmd with seq := x.seq } with
                       seq := x.seq + 1 } pops } fun t =>
      t.raised s fl ∧ t.drew s g
  refused : 28 ≤ d.toNat → (s.here.port (d.toNat - 28)).opened = none →
    ∀ a b c, (s.env i vals).headerFault (d.toNat - 28) v = some (a, b, c) → Traps s i a b c
  barred : 28 ≤ d.toNat → (s.here.port (d.toNat - 28)).opened = none →
    (s.env i vals).headerFault (d.toNat - 28) v = none →
    ∀ a b c, (s.env i vals).accept (d.toNat - 28) v = .error (.trap a b c) → isTrapN a = false →
      TrapsAfterLoads s i a b c
  full : 28 ≤ d.toNat → (∃ cmd, (s.here.port (d.toNat - 28)).opened = some cmd ∧
      8 ≤ (s.here.port (d.toNat - 28)).used) ∨
    ((s.here.port (d.toNat - 28)).opened = none ∧ (s.env i vals).headerFault (d.toNat - 28) v = none ∧
      ((s.env i vals).accept (d.toNat - 28) v = .error (.stall [] none) ∨
        ∃ cmd, (s.env i vals).accept (d.toNat - 28) v = .ok cmd ∧
          8 < (s.here.port (d.toNat - 28)).used + 1 + field v 19 16)) → Stalls s i

/-- The operation that the instruction starts. -/
def State.newOp (s : State) (dst : Dst) (kind : OpKind) (st : OpState := .sent) : AsyncOp :=
  { seq := s.here.seq, tid := s.here.tid, block := s.hereBlock, pc := s.herePc, pair := false,
    dst := dst, kind := kind, st := st, tries := 0, past := false, cycle := s.hereOf.cycle.toNat,
    launch := s.here.launch }

/-- A slot with one more outstanding operation (02 R41). -/
def Slot.starts (x : Slot) (o : AsyncOp) : Slot := { x with async := x.async ++ [o], seq := x.seq + 1 }

/-- The instruction completes: an operation is outstanding, control falls through, the ports read have given their
elements, and nothing else changes. -/
def Starts (s : State) (i : Instr) (dst : Dst) (kind : OpKind) (pops : List Eff := []) : Prop :=
  Does s i { f := fun x => (x.starts (s.newOp dst kind)).pops pops } fun _ => True

/-- The store-buffer entry that the instruction makes. -/
def State.newEntry (s : State) (kind : SbKind) : SbEntry :=
  { seq := s.here.seq, tid := s.here.tid, pc := s.herePc, pair := false, kind := kind, held := false,
    tries := 0, launch := s.here.launch, cycle := s.hereOf.cycle.toNat }

/-- A slot with one more entry at the tail of its store buffer (06 R166). -/
def Slot.buffers (x : Slot) (e : SbEntry) : Slot := { x with sb := x.sb ++ [e], seq := x.seq + 1 }

/-- The instruction completes: an entry stands at the tail of the store buffer, control falls through, the ports read
have given their elements, and nothing else changes. -/
def Buffers (s : State) (i : Instr) (kind : SbKind) (pops : List Eff := []) : Prop :=
  Does s i { f := fun x => (x.buffers (s.newEntry kind)).pops pops } fun _ => True

/-! ### Control -/

/-- The target at a signed word offset from the word (04 R101, R103). -/
def State.wordTarget {n : Nat} (s : State) (o : BitVec n) : Word :=
  BitVec.ofNat 64 s.herePc + o.signExtend 64 * 4

/-- The target at a register plus a signed word offset, bits [1:0] ignored (04 R103). -/
def State.regTarget (s : State) (a : Reg) (o : BitVec 12) : Word :=
  (s.g a + o.signExtend 64 * 4) &&& ~~~ 3#64

/-- Control goes to a target; a target with a bit of [63:57] set traps 0x42 instead (04 R104). -/
def GoesTo (s : State) (i : Instr) (a : Word) (d : Delta) (P : State → Prop) : Prop :=
  (a.toNat < 2 ^ 57 → Goes s i a.toNat d P) ∧ (2 ^ 57 ≤ a.toNat → Traps s i 0x42 a 0)

/-- The loop levels of the thread. -/
def State.level (t s : State) (l : Nat) : LoopState := loopState t s.hereCore s.hereBlock l

/-- The checks 1 to 5 of `loop` pass (04 R107) for level v, a body of n words after the bundle, and a
count. -/
structure LoopFits (s : State) (v n : Nat) (count : Word) : Prop where
  some   : n ≠ 0
  free   : (s.level s v).active = false
  inner  : ∀ l, v < l → l < 3 → (s.level s l).active = false
  within : ∀ l, l < v → (s.level s l).active = true → s.nextPc + 4 * (n - 1) ≤ (s.level s l).lastWord
  small  : count.toNat < 2 ^ 48

/-- A slot whose thread has parked with a word of its own (02 R60). -/
def Slot.parkedAt (x : Slot) (s : State) (k : ParkKind) : Slot :=
  { x with park := some { kind := k, all := false, pc := s.herePc, pair := false,
                          cycle := s.hereOf.cycle.toNat, first := s.here.seq } }

/-! ### Effects on the core -/

/-- The trap queue of the core becomes q, the head window shows it (12 R319), and nothing else changes. -/
structure Queued (s u v : State) (q : List TrapRec) : Prop where
  queue  : v.core s.hereCore = { u.core s.hereCore with
    trapq := q, dirty := (v.core s.hereCore).dirty }
  window : readBytes v.mem (localKey s.hereCore .wm 0x480) 40 = windowBytes (v.core s.hereCore)
  bytes  : ∀ k, inRanges [(localKey s.hereCore .wm 0x480, 40)] k = false →
    readByte v.mem k = readByte u.mem k
  cores  : ∀ k, k ≠ s.hereCore → v.core k = u.core k
  rest   : { v with mem := u.mem, cores := u.cores } = u

/-- Block b of the core is clean (09 R268): every byte reads zero and every tag is full; its bit buffer holds nothing that
R160 does not allow; the pool becomes p and the displaced threads l; and nothing else changes. -/
structure Cleaned (s u v : State) (b : Nat) (p : List Nat) (l : List LeftThread) : Prop where
  zero  : ∀ n, n < 2048 → readByte v.mem (localKey s.hereCore .wm (b * 2048 + n)) = 0
  full  : ∀ n, n < 2048 → tagFull v (localKey s.hereCore .wm (b * 2048 + n)) = true
  bytes : ∀ k, inRanges [(localKey s.hereCore .wm (b * 2048), 2048)] k = false →
    readByte v.mem k = readByte u.mem k ∧ tagFull v k = tagFull u k
  core  : v.core s.hereCore = { u.core s.hereCore with
    pool := p, left := l, wildBits := (u.core s.hereCore).wildBits.filter (fun k => k ≠ b),
    dirty := (v.core s.hereCore).dirty }
  lines : ∀ l, 32 * b ≤ l → l < 32 * b + 32 → l ∉ (v.core s.hereCore).dirty
  cores : ∀ k, k ≠ s.hereCore → v.core k = u.core k
  rest  : { v with mem := u.mem, empties := u.empties, cores := u.cores } = u

/-- A continuation record of the thread (04 R110): its PC, kind and join counter, the thread's identifiers and
strict mode, and the values of g1 to g5. -/
structure State.Records (s : State) (rec : List Byte) (pc kind join : Nat) (g : List Word) : Prop where
  size   : rec.length = 64
  pc     : recDword rec 0 = BitVec.ofNat 64 (pc % 2 ^ 57)
  cohort : field (recDword rec 1) 63 32 = field (threadDword s s.hereCore s.hereBlock) 63 32
  tidx   : field (recDword rec 1) 31 16 = field (threadDword s s.hereCore s.hereBlock) 31 16
  strict : field (recDword rec 1) 15 8 = natOf (strictOn s s.hereCore s.hereBlock)
  kind   : field (recDword rec 1) 7 0 = kind
  join   : recDword rec 2 = BitVec.ofNat 64 join
  regs   : ∀ k, k < 5 → recDword rec (3 + k) = g.getD k 0

/-- g1 to g5 of the thread. -/
def State.five (s : State) : List Word := [s.g 1, s.g 2, s.g 3, s.g 4, s.g 5]


/-- The bundle does not issue, and its thread is asleep from now on, or still, on an awaited event (09 R279). -/
def Sleeps (s : State) (i : Instr) (kind : Nat) (addr : Word) : Prop :=
  (s.here.asleep = none → exec i s = .next ((s.setSlot s.hereCore s.hereSlot { s.here with
    asleep := some { kind := kind, addr := addr, cycle := s.hereOf.cycle.toNat } }).ticked s.hereCore)) ∧
  (∀ x, s.here.asleep = some x → x.kind = kind → x.addr = addr →
    (kind ≠ 0 ∨ wlimOf s s.hereCore s.hereBlock = 0 ∨
      s.hereOf.cycle.toNat - x.cycle ≤ wlimOf s s.hereCore s.hereBlock) →
    exec i s = .next (s.ticked s.hereCore))

/-- The scope that an instruction names (06 R182): a level, or that of a register. -/
def State.scopeOf (s : State) (r : BitVec 1) (v : BitVec 3) (a : Reg) : Option ScopeName :=
  if r = 0 then some (levelScope s.hereCore s.hereSlot v)
  else resolveScope s s.hereCore s.hereSlot (s.g a)

/-- A slot whose thread parks as the park marker would: unless nothing is outstanding (02 R60). -/
def Slot.parksMarker (x : Slot) (s : State) : Slot :=
  if x.outstanding = 0 then x else x.parkedAt s .marker

/-! ### Memory -/

/-- Whether an access is asynchronous when it loads (06 R163): to GL, or to the WM of a peer rank. -/
def State.remote (s : State) (sp : Space) (a : Nat) : Bool :=
  sp == .gl || (sp == .wm && ! ownRank s.hereCore a)

/-- The key of a byte of the core's own memories. -/
def State.ownKey (s : State) (sp : Space) (a : Nat) : Nat :=
  localKey s.hereCore sp (if sp = .wm then a % 2 ^ 17 else a)

/-- n bytes of the core's own memories as the thread loads them (06 R166): of each, the youngest buffered store of the slot
that covers it, else memory. -/
def State.ownBytes (s : State) (sp : Space) (a n : Nat) : List Byte :=
  (List.range n).map fun j =>
    (s.here.forward s.here.seq sp (a + j)).getD (readByte s.mem (s.ownKey sp a + j))

/-- Whether an unretired matrix operation of the thread reads or writes some of the given bytes (07 R199). -/
def State.busy (s : State) (l : List (Space × Nat × Nat)) : Bool :=
  s.hereOf.matq.any fun o => o.slot == s.hereSlot && o.tid == s.here.tid
    && o.footprint.any fun f => l.any (meets f)

/-- The lanes of a gather or scatter, of w bytes each: none for a null lane, else an address (06 R171). -/
def State.lanesOf (s : State) (vals : List (Nat × Vec)) (a b : Reg) (w : Nat) : List (Option Word) :=
  (lanes w (s.vIn vals b)).map fun o =>
    if o = 2 ^ (8 * w) - 1 then none else some (s.g a + BitVec.ofNat 64 o)

/-- The instruction completes: accesses to a memory of the core that no store buffer holds are performed, each an
address and its bytes, in order; control falls through, the ports read have given their elements, and nothing else
changes. -/
def StoresAt (s : State) (i : Instr) (sp : Space) (l : List (Nat × List Byte)) (pops : List Eff) : Prop :=
  let ranges := l.map fun p => (localKey s.hereCore sp p.1, p.2.length)
  ∃ t, exec i s = .next t ∧ FallsThrough s t [] ∧
    Touched s t ranges { l := s.endBytes, f := fun x => x.pops pops } ∧
    ∀ k, inRanges ranges k = true → readByte t.mem k =
      readByte (l.foldl (fun m p => writeBytes m (localKey s.hereCore sp p.1) p.2) s.mem) k

/-- How a store issues (06 R166): to GL and WM through the store buffer, when that has room; to the other memories at
once, unless a matrix operation of the thread is at work on the bytes. -/
def Stores (s : State) (i : Instr) (sp : Space) (k : SbKind) (l : List (Nat × List Byte))
    (pops : List Eff) : Prop :=
  (sp = .gl ∨ sp = .wm →
    (s.here.sb.length < 8 → Buffers s i k pops) ∧ (8 ≤ s.here.sb.length → Stalls s i)) ∧
  (sp ≠ .gl → sp ≠ .wm →
    (s.busy (l.map fun p => (sp, p.1, p.2.length)) = false → StoresAt s i sp l pops) ∧
    (s.busy (l.map fun p => (sp, p.1, p.2.length)) = true → Stalls s i))

/-! ### Vectors -/

/-- Element k, of w bytes, of a 128-bit value (05 R135). -/
def laneOf (w : Nat) (v : Vec) (k : Nat) : Nat := v.toNat / 2 ^ (8 * w * k) % 2 ^ (8 * w)

/-- The value of an element of w bytes, signed or unsigned. -/
def asInt (isSigned : Bool) (w x : Nat) : Int :=
  if isSigned then (BitVec.ofNat (8 * w) x).toInt else ((x % 2 ^ (8 * w) : Nat) : Int)

/-- An exact integer in an element of w bytes: clamped to the type's range when it saturates, else its low
bits (03 R72, 05 R138). -/
def fit (sat isSigned : Bool) (w : Nat) (x : Int) : Nat :=
  (BitVec.ofInt (8 * w) (if sat then
    (if isSigned then max (- 2 ^ (8 * w - 1)) (min x (2 ^ (8 * w - 1) - 1))
      else max 0 (min x (2 ^ (8 * w) - 1))) else x)).toNat

/-- The instruction delivers the vector whose elements of w bytes are the given ones, and raises no flag. -/
def DeliversLanes (s : State) (i : Instr) (vals : List (Nat × Vec)) (pops : List Eff) (d : Reg) (w : Nat)
    (f : Nat → Nat) : Prop :=
  ∀ v, (∀ k, k < 16 / w → laneOf w v k = f k) → Delivers s i vals pops d v 0 none

/-- The rounding mode of a field R (02 R55): none when R names RM and RM holds no mode. -/
def State.modeOf (s : State) (r : BitVec 3) : Option Nat :=
  if r = 7 then
    if rmMode s s.hereCore s.hereBlock < 6 then some (rmMode s s.hereCore s.hereBlock) else none
  else some r.toNat

/-- The draws of n elements, and the generator's state after them (03 R82): SR alone draws. -/
def State.drawsOf (s : State) (mode n : Nat) : List Nat × Option (BitVec 32) :=
  if mode = modeSR then
    ((srgDraws (srgOf s s.hereCore s.hereBlock) n).1, some (srgDraws (srgOf s s.hereCore s.hereBlock) n).2)
  else (List.replicate n 0, none)

/-- The instruction traps for the flags that its elements raise (03 R86). -/
def FlagTraps (s : State) (i : Instr) (fl : List Nat) : Prop :=
  ∀ a b c, flagTrap (fflagsOf s s.hereCore s.hereBlock) 0 fl = some (.trap a b c) → Traps s i a b c

/-- The instruction delivers elements of w bytes with the flags that each raises, or traps for them. -/
def DeliversFlagged (s : State) (i : Instr) (vals : List (Nat × Vec)) (pops : List Eff) (d : Reg) (w : Nat)
    (out : List (Nat × Nat)) (g : Option (BitVec 32)) : Prop :=
  FlagTraps s i (out.map Prod.snd) ∧
  (s.quiet (out.map Prod.snd) → ∀ v, (∀ k, k < 16 / w → laneOf w v k = (out.map Prod.fst).getD k 0 % 2 ^ (8 * w)) →
    Delivers s i vals pops d v (allFlags (out.map Prod.snd)) g)

/-- The instruction delivers exact results rounded into a format under the mode of field R; without a mode it traps
0x02 (02 R55). -/
def Rounds (s : State) (i : Instr) (vals : List (Nat × Vec)) (pops : List Eff) (d : Reg) (f : Fmt)
    (r : BitVec 3) (xs : Nat → List (Machine.Num × Nat)) : Prop :=
  (s.modeOf r = none → Traps s i 0x02 (BitVec.ofNat 64 (loneWord i).toNat) 2) ∧
  ∀ m, s.modeOf r = some m →
    DeliversFlagged s i vals pops d (f.width / 8)
      ((xs m).zipWith (fun x k => f.deliver m k x) (s.drawsOf m (xs m).length).1)
      (s.drawsOf m (xs m).length).2

/-- The generator's state after n draws (03 R81). -/
def generator (g : BitVec 32) : Nat → BitVec 32
  | 0 => g
  | n + 1 =>
    let a := if generator g n = 0 then 0x6A09E667#32 else generator g n
    let b := a ^^^ (a <<< 13)
    let c := b ^^^ (b >>> 17)
    c ^^^ (c <<< 5)

/-- Draw k of a generator, from 0 (03 R81). -/
def drawn (g : BitVec 32) (k : Nat) : Nat := (generator g (k + 1)).toNat / 2 ^ 16

/-! ### Numbers -/

/-- Whether a mode rounds a magnitude away from zero that lies `rest` of `whole` above its neighbour nearer zero, whose code
is odd or even, with draw r (03 R79, R80). -/
def away (mode r : Nat) (neg odd : Bool) (rest whole : Nat) : Bool :=
  match mode with
  | 1 => false
  | 2 => neg
  | 3 => ! neg
  | 4 => decide (whole ≤ 2 * rest)
  | 5 => decide (2 ^ 16 ≤ rest * 2 ^ 16 / whole + r)
  | _ => decide (whole < 2 * rest) || (decide (whole = 2 * rest) && odd)

/-- The value of magnitude code c in units of 2^u, u at most the exponent of the smallest step (03 R75). -/
def Fmt.unitsAt (f : Fmt) (u : Int) (c : Nat) : Nat :=
  if c < 2 ^ f.m then c * 2 ^ (1 - f.bias - f.m - u).toNat
  else (2 ^ f.m + c % 2 ^ f.m) * 2 ^ (((c / 2 ^ f.m : Nat) : Int) - f.bias - f.m - u).toNat

/-- A format with exponents whose fields are as R73 and R74 ask, and some finite value that is normal. -/
def Fmt.floats (f : Fmt) : Prop := f.sign ≤ 1 ∧ 0 < f.e ∧ f.spec < 3 ∧ (f.spec = 1 → 2 ≤ f.e ∧ 0 < f.m) ∧ 2 ^ f.m ≤ f.maxCode

/-! ### The bit buffer -/

/-- The bytes of the bit buffer in a workspace. -/
def bitBytes : List (Nat × Nat) := [(0x2C0, 32)]

/-- The bit buffer of the thread. -/
def State.bits (s : State) : BitBuf := bitBuf s s.hereCore s.hereBlock

/-- The buffer's counts are as a supervisor must keep them: it holds no bit past the stream's end (05 R160). -/
def BitBuf.fits (x : BitBuf) : Prop := x.valid ≤ 128 ∧ x.pos + x.valid ≤ x.len ∧ x.len ≤ 0x100000

/-- The buffer is as a supervisor must keep it (05 R160): NEXT points at byte (POS + VALID) ÷ 8 of a stream that
lies in core c's own WM. -/
def BitBuf.kept (x : BitBuf) (c : Nat) : Prop :=
  x.fits ∧ (x.len = 0 ∨ ∃ a, a < 2 ^ 19 ∧ ownRank c a = true ∧ a % 2 ^ 17 + (x.len + 7) / 8 ≤ 2 ^ 17 ∧
    x.next = (a + (x.pos + x.valid) / 8) % 2 ^ 19)

/-- Bit j of the stream from the position on (05 R157, R159): zero at the stream's end and after it; a bit that the buffer
holds; else a bit of the byte where it stands, as the thread loads it. -/
def State.streamBit (s : State) (j : Nat) : Bool :=
  let x := s.bits
  let p := x.pos + j
  if x.len ≤ p then false
  else if j < x.valid then x.buf.testBit j
  else ((s.ownBytes .wm (x.next + (p / 8 - (x.pos + x.valid) / 8)) 1).getD 0 0).getLsbD (p % 8)

/-- The position, overrun, length and bound of the buffer after n bits have been taken from what it was in s, or only
looked at. -/
def BitBuf.after (y : BitBuf) (s : State) (n : Nat) (consume : Bool) : Prop :=
  y.pos = (if consume then min (s.bits.pos + n) s.bits.len else s.bits.pos) ∧
  y.ovr = (s.bits.ovr || decide (s.bits.len < s.bits.pos + n)) ∧
  y.len = s.bits.len ∧ y.bound = s.bits.bound

/-- The instruction completes; one free value is used, what d names changes and P holds; nothing else changes. -/
def DoesFree (s : State) (i : Instr) (d : Delta) (P : State → Prop) : Prop :=
  ∃ t, exec i s = .next t ∧ t.free = s.free + 1 ∧ FallsThrough s t d.l ∧
    Turned s { t with free := s.free } { d with l := d.l ++ s.endBytes } ∧ P t

/-- As `Loads`, and one free value is used. -/
def LoadsFree (s : State) (i : Instr) (d : Delta) (P : State → Prop) : Prop :=
  (s.readsHeld = true → Stalls s i) ∧
  (s.readsHeld = false → ∃ u v, exec i s = .next (v.ticked s.hereCore) ∧ u.free = s.free + 1 ∧
    FallsThrough s (u.ticked s.hereCore) d.l ∧
    Turned s (({ u with free := s.free } : State).ticked s.hereCore) { d with l := d.l ++ s.endBytes } ∧
    P u ∧ Satisfied s u v)

/-! ### Matrix operations -/

/-- The first of some conditions that holds traps with a cause; each stands with the auxiliary values it gives. Where
none holds, K does. -/
def TrapsFirst (s : State) (i : Instr) (l : List (Bool × BitVec 8 × Word × Nat)) (K : Prop) : Prop :=
  (∀ e, l.find? (fun x => x.1) = some e → Traps s i e.2.1 e.2.2.1 (BitVec.ofNat 32 e.2.2.2)) ∧
  ((∀ e ∈ l, e.1 = false) → K)

/-- As `TrapsFirst`, of conditions on a record that is read as ordinary loads (14 R332). -/
def TrapsFirstAfterLoads (s : State) (i : Instr) (l : List (Bool × BitVec 8 × Word × Nat)) (K : Prop) : Prop :=
  (∀ e, l.find? (fun x => x.1) = some e → TrapsAfterLoads s i e.2.1 e.2.2.1 (BitVec.ofNat 32 e.2.2.2)) ∧
  ((∀ e ∈ l, e.1 = false) → K)

/-- A misplaced operand (07 R203): a condition, the register's value, the operand's number and a reason. -/
def misplaced (x : Bool × Word × Nat × Nat) : Bool × BitVec 8 × Word × Nat :=
  (x.1, 0x70, x.2.1, x.2.2.1 + x.2.2.2 * 16)

/-- Whether a q register of the thread is being solved (07 R221). -/
def State.solving (s : State) (q : BitVec 3) : Bool :=
  s.here.solves.any fun x => x.q == q && x.block == s.hereBlock

/-- Whether the head of an operation's way into the dispatch queue is free: its q register, if it uses one, is solved; the
queue has room; and its bytes meet no operation of the thread (07 R197, R199). -/
def State.opFree (s : State) (o : MatOp) (qr : Option (BitVec 3)) : Bool :=
  (match qr with | some r => ! s.solving r | none => true) && decide (s.hereOf.matq.length < 16)
    && ! s.busy o.footprint

/-- The last cases of R197, and acceptance: a bundle that must wait does not issue; one whose quad does not hold the
licence asks for it and sleeps; else the operation stands at the queue's tail, and the quad's arbiter may grant it. -/
def Accepts (s : State) (i : Instr) (o : MatOp) (qr : Option (BitVec 3)) : Prop :=
  let q := quadOf s.hereCore
  let y := s.quad q
  (s.opFree o qr = false → Stalls s i) ∧
  (s.opFree o qr = true → o.kind.licensed = true → licenceReady s q = false →
    ∃ t, exec i s = .next t ∧ t.mem = s.mem ∧
      t.quads = (if y.held || y.wait then s.quads else mapSet Quad.reset s.quads q { y with wait := true }) ∧
      ∃ z, (t.slot s.hereCore s.hereSlot).asleep = some z ∧ z.kind = 5 ∧ z.addr = 0) ∧
  (s.opFree o qr = true → (o.kind.licensed = true → licenceReady s q = true) →
    Then s i { g := fun x => { x with matq := x.matq ++ [o] } } (fun _ => True) fun u v =>
      v = ((Run.start u).arbitrate q).s)

/-- The operation as the instruction finds its settings: a copy of all it uses (07 R198). -/
def State.matOp (s : State) (kind : MatKind) (xop : BitVec 7) (a b c : Word) (q : BitVec 384) : MatOp :=
  { kind := kind, slot := s.hereSlot, tid := s.here.tid, pc := s.herePc, pair := false, xop := xop,
    ga := a, gb := b, gc := c, sca := s.here.sca, scb := s.here.scb, nf := s.hereOf.nf,
    munf := s.here.munf, q := q.setWidth 352 }

/-- An access to an index vector (07 R223): its address is checked, a peer rank's traps 0x41, bytes that a matrix
operation is at work on hold the bundle back, and else K holds. -/
def VectorAccess (s : State) (i : Instr) (sp : Space) (a : Word) (K : Prop) : Prop :=
  (∀ c, addrFault sp a 64 = some c → Traps s i c a 0) ∧
  (addrFault sp a 64 = none → sp = .wm → ownRank s.hereCore a.toNat = false → Traps s i 0x41 a 0) ∧
  (addrFault sp a 64 = none → (sp = .wm → ownRank s.hereCore a.toNat = true) →
    (s.busy [(sp, a.toNat, 64)] = true → Stalls s i) ∧ (s.busy [(sp, a.toNat, 64)] = false → K))

/-- The 64 numbers of an index vector, as the thread loads them. -/
def State.indices (s : State) (sp : Space) (a : Word) : List Nat :=
  (s.ownBytes sp a.toNat 64).map BitVec.toNat

/-- The first index i that breaks a bijection, its value, and whether it is out of range (07 R223). -/
def Breaks (l : List Nat) (i x reason : Nat) : Prop :=
  i < l.length ∧ x = l.getD i 0 ∧ (reason = 1 ∧ 63 < x ∨ reason = 0 ∧ x ≤ 63 ∧ ∃ j, j < i ∧ l.getD j 0 = x) ∧
  ∀ j, j < i → l.getD j 0 ≤ 63 ∧ ∀ k, k < j → l.getD k 0 ≠ l.getD j 0

/-- The settings for a permutation are being made for a q register (07 R221). -/
def Slot.solvesFor (x : Slot) (s : State) (d : BitVec 3) (p : List Nat) : Slot :=
  { x with solves := x.solves ++ [{ q := d, block := s.hereBlock, value := solvePerm p }] }

/-! ### The part's other steps -/

/-- The step completes, and of the state afterwards P holds. -/
def Due (s : State) (i : Instr) (P : State → Prop) : Prop := ∃ t, exec i s = .next t ∧ P t

/-- Slot sl of core c becomes x, of memory the bytes in the given ranges may change, the cores' sets of lines that are
not clean are left open, and nothing else changes. -/
structure Alters (s t : State) (c sl : Nat) (x : Slot) (l : List (Nat × Nat)) : Prop where
  slot  : t.slot c sl = x
  slots : ∀ k, k ≠ slotKey c sl → mapGet Slot.reset t.slots k = mapGet Slot.reset s.slots k
  bytes : ∀ k, inRanges l k = false → readByte t.mem k = readByte s.mem k
  cores : ∀ k, t.core k = { s.core k with dirty := (t.core k).dirty }
  rest  : { t with mem := s.mem, slots := s.slots, cores := s.cores } = s

/-- The slot that `sel` names, the core whose turn it is among it. -/
def State.selSlot (s : State) : Slot := s.slot s.sel.core s.sel.slot

/-- An operation whose result is written as it returns. -/
def OpKind.ordinary (k : OpKind) : Bool :=
  match k with
  | .fork _ _ | .join _ | .susp _ _ | .xwait _ _ _ => false
  | _ => true

/-- The bytes of a workspace that an operation's result takes. -/
def AsyncOp.resultBytes (o : AsyncOp) : List (Nat × Nat) :=
  if o.past then [] else match o.dst with
    | .none => []
    | .g r => gBytes r
    | .v r => vBytes r

/-- Byte ranges of a workspace as ranges of keys. -/
def workspaceKeys (c b : Nat) (l : List (Nat × Nat)) : List (Nat × Nat) :=
  l.map fun r => (localKey c .wm (b * 2048 + r.1), r.2)

/-- A slot whose operation has written its result: it is outstanding no more, and takes the place of the results of earlier
operations into its destination (02 R62). -/
def Slot.returned (x : Slot) (o : AsyncOp) : Slot :=
  match o.dst.code with
  | none => x.delOp o
  | some k => (x.delOp o).overwrite o.tid o.seq k

/-- THE RESULT OF AN OPERATION RETURNS (02 R41, R62): its destination in the workspace it was issued from holds v, unless a
later write has taken its place. -/
def Returns (s : State) (o : AsyncOp) (v : Vec) : Prop :=
  let c := s.sel.core
  Due s .asyncResultWrite fun t =>
    Alters s t c s.sel.slot (s.selSlot.returned o) (workspaceKeys c o.block o.resultBytes) ∧
    (o.past = false →
      (∀ r, o.dst = .g r → gReg t c o.block r = if r = 0 then 0 else v.setWidth 64) ∧
      (∀ r, o.dst = .v r → vReg t c o.block r = v))

/-- A slot whose thread is there to take what arrives for it. -/
def Slot.takes (x : Slot) (tid : Nat) : Bool := x.wspV && x.tid == tid && ! x.dying

/-- A slot whose operation has met a fault (02 R65): it is abandoned, and the fault awaits the thread's turn. -/
def Slot.faulted (x : Slot) (o : AsyncOp) (cause : BitVec 8) (aux : Word) (aux2 : BitVec 32) : Slot :=
  { x.delOp o with faults := x.faults ++
      [{ pc := o.pc, pair := o.pair, cause := cause, aux := aux, aux2 := aux2 }] }

/-- The state after the turn's thread, whose slot is x, has been parked by a trap with this record. -/
def State.parkedBy (s : State) (x : Slot) (r : TrapRec) : State :=
  (s.setSlot s.hereCore s.hereSlot { x.unparked r.cause with
    trap := some { record := { r with launch := s.here.launch, tid := s.here.tid }, queued := false },
    asleep := none }).ticked s.hereCore

/-- The turn of `sel`'s slot, on which no change of level is due (20 R399). -/
structure State.onTurn (s : State) : Prop where
  powered : s.powered = true
  slot    : s.sel.slot = s.hereSlot
  level   : s.hereSlot ≠ 0 ∨ setLevel s s.hereCore = s.hereOf.level
  free    : slotBarred s s.hereCore s.hereSlot = false

/-- The bundle at the thread's PC is this instruction alone, and its fetch leaves nothing at a station. -/
def State.fetches (s : State) (i : Instr) : Prop :=
  fetchBundle s s.hereCore s.hereSlot s.herePc = .words [loneWord i] [] ∧ decodeWord (loneWord i) = .ok i

/-! ### Words at their homes -/

/-- The key of a WM address as core c reaches it. -/
def wmKey (c a : Nat) : Nat := localKey (wmCore c a) .wm (a % 2 ^ 17)

/-- Bytes at a WM offset lie outside the head window (12 R319). -/
def clearOfWindow (a n : Nat) : Prop := a % 2 ^ 17 + n ≤ 0x480 ∨ 0x4A8 ≤ a % 2 ^ 17

/-- The new value of an `amo` on n bits (06 R179). -/
def amoNew {n : Nat} (op : BitVec 4) (o b : BitVec n) : BitVec n :=
  match op.toNat with
  | 0 => o + b
  | 1 => o &&& b
  | 2 => o ||| b
  | 3 => o ^^^ b
  | 4 => if o.slt b then o else b
  | 5 => if o.slt b then b else o
  | 6 => if o.ult b then o else b
  | 7 => if o.ult b then b else o
  | _ => b

/-- The old value of a word of n bits as `amo` returns it: sign-extended but for the unsigned orders. -/
def amoOld {n : Nat} (op : BitVec 4) (o : BitVec n) : Word :=
  if op = 6 ∨ op = 7 then o.setWidth 64 else o.signExtend 64

/-- The little-endian value of n bytes at a key. -/
def State.wordAt (s : State) (k n : Nat) : BitVec (8 * n) := BitVec.ofNat (8 * n) (ofBytes (readBytes s.mem k n))

/-- A slot whose operation has been performed with this result. -/
def Slot.performed (x : Slot) (o : AsyncOp) (v : Word) : Slot :=
  x.setOp { o with st := .done (v.setWidth 128) }

/-- No operation waits for the word at a key. -/
def State.unawaited (s : State) (k : Nat) : Prop := ∀ w ∈ s.feWaits, w.key ≠ k

/-! ### Memory that nothing has damaged -/

/-- MEMORY IS SOUND: it holds no error, nothing is damaged on its way, no line is poisoned or stored compressed, and every
sector of HBM and the second tier agrees with its check value (22 R408 to R413). -/
structure State.Sound (s : State) : Prop where
  errors : s.ueData = [] ∧ s.ueMeta = [] ∧ s.ceData = [] ∧ s.ceMeta = []
  flight : s.noiseIn = [] ∧ s.noiseOut = []
  lines  : ∀ k, tagOf (lineMetaOf s k) = 0 ∧ ∀ i, i < 4 → poisoned (lineMetaOf s k) i = false ∧
    (memoryKey k = true → checkOf (lineMetaOf s k) i = sectorCheck (readBytes s.mem (lineBase k + 32 * i) 32))

/-- An access of core c to an address of GL or WM reaches the key of its home (16 R360, R371, 25 R445). -/
def State.reaches (s : State) (c : Nat) (sp : Space) (a : Nat) (kind : Access) (k : Nat) : Prop :=
  (sp = .gl ∧ ∃ t pa comp, translate s (s.ctxOf c) a kind = .at t pa comp ∧ linkState s t = none ∧ k = physKey t pa) ∨
  (sp = .wm ∧ peerReach s c (wmCore c a) = some true ∧ k = wmKey c a)

/-- What a load of core c has of n bytes, within one line, at an address of GL or WM: those at their home, or those of
the fill pattern of a sparse range without a feedback map (16 R362). -/
def State.readsAs (s : State) (c : Nat) (sp : Space) (a n : Nat) (bs : List Byte) : Prop :=
  (∃ k, s.reaches c sp a .read k ∧ k % 128 + n ≤ 128 ∧ bs = readBytes s.mem k n) ∨
  (sp = .gl ∧ ∃ v tile, translate s (s.ctxOf c) a .read = .fill v 0 tile ∧
    bs = (List.range n).map fun i => (wordBytes v).getD ((a + i) % 8) 0)

/-- An access of core c to an address of GL or WM is stopped before its home, with a cause and a second auxiliary value
(16 R360, R371, 25 R445). -/
def State.failsAs (s : State) (c : Nat) (sp : Space) (a : Nat) (kind : Access) (cause : BitVec 8)
    (aux2 : BitVec 32) : Prop :=
  (sp = .gl ∧ (translate s (s.ctxOf c) a kind = .fault cause aux2 ∨
    ∃ t pa comp, translate s (s.ctxOf c) a kind = .at t pa comp ∧ linkState s t = some true ∧ cause = 0x45 ∧ aux2 = 0)) ∨
  (sp = .wm ∧ peerReach s c (wmCore c a) = none ∧ cause = 0x43 ∧ aux2 = 0)

/-- The second auxiliary value of a fault that a lane of an access meets: the lane for the causes 0x40 to 0x43 (12 R327). -/
def laneOr (cause : BitVec 8) (lane : Nat) (aux2 : BitVec 32) : BitVec 32 :=
  if cause ∈ [0x40, 0x41, 0x42, 0x43] then BitVec.ofNat 32 lane else aux2

/-! ### Waiters of a word (06 R175, R176) -/

/-- A full/empty load that waits for the WM word at a key, which its core reaches. -/
def State.loadWaits (s : State) (k : Nat) (w : FeWait) (f : FeKind) : Prop :=
  (f = .ldfe ∨ f = .ldfx) ∧ w.peer = none ∧ w.slot < 16 ∧
  ∃ p b d, (s.slot w.core w.slot).findOp w.seq = some p ∧ p.kind = .fe f .wm b d ∧ p.st = .waiting ∧
    wmKey w.core b = k ∧ peerReach s w.core (wmCore w.core b) = some true

/-- An `stfe` of a word, at the head of its slot's store buffer, that waits for the WM word at a key. -/
def State.storeWaits (s : State) (k : Nat) (w : FeWait) (d : Word) : Prop :=
  w.peer = none ∧ w.slot < 16 ∧ (s.slot w.core w.slot).findOp w.seq = none ∧ (s.slot w.core w.slot).dying = false ∧
  ∃ e rest b, (s.slot w.core w.slot).sb = e :: rest ∧ e.seq = w.seq ∧ e.kind = .stfe .wm b d ∧ wmKey w.core b = k ∧
    peerReach s w.core (wmCore w.core b) = some true ∧ clearOfWindow b 8

/-- Every waiter of the word at a key is a full/empty load or an `stfe` of a thread, and no two are of one place. -/
structure State.Waiters (s : State) (k : Nat) : Prop where
  kinds : ∀ w ∈ s.feWaits, w.key = k → (∃ f, s.loadWaits k w f) ∨ ∃ d, s.storeWaits k w d
  apart : ((s.feWaits.filter fun w => w.key == k).map fun w => (w.core, w.slot, w.seq)).Nodup
  heads : ((s.feWaits.filter fun w => w.key == k && ((s.slot w.core w.slot).findOp w.seq).isNone).map fun w =>
    (w.core, w.slot)).Nodup

/-- The walk of a wait list is over: no waiter of the word at a key, of those that stood in s, could be performed. -/
def State.walked (t s : State) (k : Nat) : Prop :=
  ∀ w ∈ t.feWaits, w.key = k → w ∈ s.feWaits ∧ (∀ f, s.loadWaits k w f → tagFull t k = false) ∧
    ∀ d, s.storeWaits k w d → tagFull t k = true

/-! ### Tensors of a core (03 R78, 10 R290 to R297) -/

/-- The bytes of the access to an element of a record. -/
def Tlr.accessed (t : Tlr) : Nat := if t.elem.cont < 8 then 1 else t.elem.cont / 8

/-- The key of the first byte of an element at an inside coordinate of a record in a local space of core c. -/
def Tlr.key (t : Tlr) (c : Nat) (co : List Nat) : Nat :=
  localKey c t.sp ((t.base + (t.locate co).1) % 2 ^ 17)

/-- The code of the element at an inside coordinate: of a record in GL the bytes are those that core c reads there. -/
def Tlr.code (t : Tlr) (gl : Nat → List Byte) (c : Nat) (m : List Host.Cell) (co : List Nat) : Nat :=
  let bs := if t.space = 0 then gl (t.base + (t.locate co).1) else readBytes m (t.key c co) t.accessed
  ofBytes bs / 2 ^ (t.elem.cont * (t.locate co).2) % 2 ^ t.elem.bits

/-- The code that a reader takes for a tensor coordinate, by the fill mode when it is not inside (10 R295). -/
def Tlr.seen (t : Tlr) (gl : Nat → List Byte) (c : Nat) (m : List Host.Cell) (co : List Int) : Nat :=
  if t.inside co then t.code gl c m (co.map Int.toNat)
  else if t.fillm = 1 then t.fillBits
  else if t.fillm = 2 then t.code gl c m (t.clamp co)
  else 0

/-- A code stored at an inside coordinate of a record in a local space: the other slots of its byte stay, and the bits of
its container above it become zero (03 R77). -/
def Tlr.stored (t : Tlr) (c : Nat) (m : List Host.Cell) (co : List Nat) (v : Nat) : List Host.Cell :=
  let x := v % 2 ^ t.elem.bits
  let lo := t.elem.cont * (t.locate co).2
  let b := (readByte m (t.key c co)).toNat
  writeBytes m (t.key c co) (if t.elem.cont < 8 then
    [BitVec.ofNat 8 (b % 2 ^ lo + x % 2 ^ t.elem.cont * 2 ^ lo + b / 2 ^ (lo + t.elem.cont) * 2 ^ (lo + t.elem.cont))]
    else toBytes (t.elem.cont / 8) x)

/-- A code written to a tensor coordinate of a destination, with the count of the elements written: one that is not
inside is discarded. -/
def Tlr.placed (t : Tlr) (c : Nat) (co : List Int) (v : Nat) (p : List Host.Cell × Nat) : List Host.Cell × Nat :=
  if t.inside co then (t.stored c p.1 (co.map Int.toNat) v, p.2 + 1) else p

/-- Memory, and the count of the elements written, after a step for each of n numbers in order. -/
def moved (n : Nat) (f : Nat → List Host.Cell × Nat → List Host.Cell × Nat) (p : List Host.Cell × Nat) :
    List Host.Cell × Nat := (List.range n).foldl (fun p i => f i p) p

/-- The elements of a record's tensor lie where core c reaches them: in its own memories, wholly inside, and in WM outside the
head window if they are written; or, to be read alone, in GL. -/
structure State.Fits (s : State) (t : Tlr) (gl : Nat → List Byte) (c : Nat) (writes : Bool) : Prop where
  core  : c < 4096
  sound : t.space = 0 → s.Sound
  dims  : ∀ d, d < t.rank → 0 < nth t.dims d
  place : ∀ co : List Nat, co.length = t.rank → (∀ d, d < t.rank → nth co d < nth t.dims d) →
    let o := (t.locate co).1
    (t.space = 0 ∧ writes = false ∧ s.readsAs c .gl (t.base + o) t.accessed (gl (t.base + o))) ∨
    (t.space = 1 ∧ ownRank c t.base = true ∧ t.base % 2 ^ 17 + o + t.accessed ≤ 2 ^ 17 ∧
      (writes = true → clearOfWindow (t.base + o) t.accessed)) ∨
    (1 < t.space ∧ t.space < 5 ∧ t.base + o + t.accessed ≤ spaceBytes t.sp)

/-- Neighbours combined, an odd last one carried up (08 R252). -/
def pairs (f : Nat → Nat → Nat) : List Nat → List Nat
  | x :: y :: r => f x y :: pairs f r
  | l => l

/-- A list reduced in n rounds. -/
def tree (f : Nat → Nat → Nat) : Nat → List Nat → Nat
  | 0, l => l.headD 0
  | n + 1, l => tree f n (pairs f l)

/-- The sum of two codes of a format: integers wrap, floats round once under RNE (08 R246). -/
def Elem.plus (e : Elem) (x y : Nat) : Nat :=
  match e.kind with
  | .int _ => (x + y) % 2 ^ e.bits
  | .float f => (f.deliver modeRNE 0 (sumNums modeRNE [f.decode x, f.decode y])).1

/-- The lesser or the greater of two codes of a format (08 R252, 03 R88). -/
def Elem.pick (e : Elem) (most : Bool) (x y : Nat) : Nat :=
  match e.kind with
  | .float f => (chooseFloat f most false x y).1
  | .int sg =>
    let v (z : Nat) : Int := if sg ∧ 2 ^ (e.bits - 1) ≤ z then (z : Int) - 2 ^ e.bits else z
    if (if most then v x < v y else v y < v x) then y else x

/-- THE SYMBOLS OF A CHUNK of a blob: from each of 32 states in turn one step of rANS, which takes a word of the payload when
the state falls below 2^16, until every word is taken (05 R162, 08 R248, R249). -/
def Expands (prec n : Nat) (freq cum : Nat → Nat) (bs : List Byte) (plen syms : Nat) (l : List Nat) : Prop :=
  let num (a k : Nat) := ofBytes ((bs.drop a).take k)
  num 6 2 = 0 ∧ num 8 8 = 0 ∧ crc16 ((bs.drop 0x10).take (0x80 + plen)) = num 4 2 ∧ l.length = syms ∧
  ∃ (x : Nat → Nat → Nat) (p : Nat → Nat), p 0 = 0 ∧ p syms = plen / 2 ∧
    (∀ d, d < 32 → x 0 d = num (0x10 + 4 * d) 4) ∧
    ∀ i, i < syms → let d := i % 32
      let sym := nth l i
      let v := x i d
      let holds (j : Nat) := cum j ≤ v % 2 ^ prec ∧ v % 2 ^ prec < cum j + freq j
      let y := (freq sym * (v / 2 ^ prec) + v % 2 ^ prec - cum sym) % 2 ^ 32
      sym < n ∧ holds sym ∧ (∀ j, j < sym → ¬ holds j) ∧ (∀ k, k < 32 → k ≠ d → x (i + 1) k = x i k) ∧
      (y < 2 ^ 16 → p i < plen / 2 ∧ x (i + 1) d = y * 2 ^ 16 + num (0x90 + 2 * p i) 2 ∧ p (i + 1) = p i + 1) ∧
      (2 ^ 16 ≤ y → x (i + 1) d = y ∧ p (i + 1) = p i)

/-! ### The matrix engine (03 R89 to R92) -/

/-- A product before its group's sum: an integer zero has no sign (03 R90). -/
def product (a b : Elem) (x y : Nat) : Machine.Num :=
  let z := (mulNum (a.decode x) (b.decode y)).1
  let plain (e : Elem) : Bool := match e.kind with | .int _ => true | .float f => f.e == 0
  if plain a && plain b && z.isZero then .fin false 0 0 else z

/-- An accumulator after one exact group sum (03 R89). -/
def accumulated (f : Fmt) (sa sb : Machine.Num) (c : Nat) (terms : List Machine.Num) : Nat :=
  let t := f.deliver modeRNE 0 ((mulNum (mulNum (sumNums modeRNE terms).1 sa).1 sb).1, 0)
  (f.deliver modeRNE 0 ((sumNums modeRNE [f.decode c, f.decode t.1]).1, 0)).1

/-- The first byte, from the start of its row, and the container slot of element j of a row of 64 (03 R78, 07 R205). -/
def inRow (e : Elem) (j : Nat) : Nat × Nat :=
  if e.cont < 8 then
    let n := 128 / e.cont
    (16 * (j / n) + j % n % 16, j % n / 16)
  else (j * (e.cont / 8), 0)

/-- The bytes of a row of 64. -/
def rowLength (e : Elem) : Nat := 64 * e.cont / 8

/-- The code of element j of a row of 64 at a key. -/
def inRowCode (e : Elem) (m : List Host.Cell) (k j : Nat) : Nat :=
  ofBytes (readBytes m (k + (inRow e j).1) (if e.cont < 8 then 1 else e.cont / 8)) / 2 ^ (e.cont * (inRow e j).2) % 2 ^ e.bits

/-! ### Layers (08 R255, 17 R386) -/

/-- Dword i of bytes. -/
def dwordAt (e : List Byte) (i : Nat) : Word := wordOf ((e.drop (8 * i)).take 8)

/-- A dword with a field replaced. -/
def refield (w : Word) (hi lo v : Nat) : Word :=
  BitVec.ofNat 64 (w.toNat % 2 ^ lo + v % 2 ^ (hi + 1 - lo) * 2 ^ lo + w.toNat / 2 ^ (hi + 1) * 2 ^ (hi + 1))

/-- A layer entry that is another with some dwords replaced. -/
def Amends (e e' : List Byte) (l : List (Nat × Word)) : Prop :=
  e'.length = 256 ∧ ∀ i, i < 32 → dwordAt e' i = ((l.find? fun p => p.1 == i).map Prod.snd).getD (dwordAt e i)

/-- Whether caster field f of a dword 0x18 is valid and names a layer. -/
def names (w : Word) (f id : Nat) : Bool := w.getLsbD (13 * f + 12) && field w (13 * f + 11) (13 * f) == id

/-- Whether a layer entry holds a caster field that names a layer. -/
def casts (e : List Byte) (id : Nat) : Bool := (List.range 4).any fun f => names (dwordAt e 3) f id

/-- A dword 0x18 whose caster fields that named layer b name another, or are valid no more. -/
def Recasts (w w' : Word) (b : Nat) (new : Option Nat) : Prop :=
  field w' 63 52 = field w 63 52 ∧ ∀ f, f < 4 → field w' (13 * f + 12) (13 * f) =
    if names w f b then (match new with | some a => 2 ^ 12 + a | none => b) else field w (13 * f + 12) (13 * f)

/-- The entries of a scene's layer table as a run reads them, with no effect. -/
def Run.Tabled (r : Run) (x : Context) (sc : Scene) (e : Nat → List Byte) : Prop :=
  sc.lcount ≤ 4096 ∧ ∀ i, i < sc.lcount → r.gl (some x) (sc.table + 256 * i) 256 = .ok (e i) r ∧ (e i).length = 256

/-- A table of n entries, from one that gives each. -/
def entriesOf (n : Nat) (e : Nat → List Byte) : List (List Byte) := (List.range n).map e

/-- A value rounded once under RNE. -/
def Fmt.rn (f : Fmt) (x : Machine.Num × Nat) : Nat := (f.deliver modeRNE 0 x).1

/-- A colour channel put behind others: acc + (1 - acc.a) × c, in binary32. -/
def behind (alpha acc c : Nat) : Nat :=
  let f := fmt32.rn (sumNums modeRNE [fmt32.decode 0x3F800000, (fmt32.decode alpha).negate])
  let p := fmt32.rn (mulNum (fmt32.decode f) (fmt32.decode c))
  fmt32.rn (sumNums modeRNE [fmt32.decode acc, fmt32.decode p])

/-- Channel i of the colours of a list behind each other, the first in front, and then of the clear colour. -/
def combined (colours : List Nat) (i : Nat) : Nat :=
  let channel (c j : Nat) := fmt32.rn (fmt16.decode (c / 2 ^ (16 * j) % 2 ^ 16), 0)
  (colours.foldl (fun (acc : Nat × Nat) c => (behind acc.2 acc.1 (channel c i), behind acc.2 acc.2 (channel c 3))) (0, 0)).1

/-! ### Replies to page requests (16 R364) -/

/-- A run that differs from s in the page requests outstanding, and in slot sl of core c, which is one of l. -/
structure Run.Beside (r : Run) (s : State) (c sl : Nat) (l : List Slot) : Prop where
  rejects : r.rejects = []
  state   : ∃ p, ∃ y ∈ l, r.s = ({ s with pageReqs := p } : State).setSlot c sl y

/-- NOTHING BUT ONE OPERATION WAITS for the page of a reply: no other operation of its slot, and nothing else there, no
other slot, engine, collective, scene, queue or launch, whatever of l the slot has become. -/
structure OnlyWait (s : State) (p : Reply) (c sl : Nat) (o : AsyncOp) (l : List Slot) : Prop where
  ops     : ∀ q ∈ (s.slot c sl).async, q ≠ o → opWaits p q = none
  head    : ∀ r : Run, r.Beside s c sl l → r.answerHead p c sl = r
  streams : ∀ r : Run, r.Beside s c sl l → ∀ b ∈ (s.slot c sl).streams, r.answerStream p c sl b.1 b.2 = r
  forks   : ∀ r : Run, r.Beside s c sl l → ∀ q ∈ (r.s.slot c sl).async, r.answerFork p c sl q = r
  bundle  : ∀ r : Run, r.Beside s c sl l → r.answerBundle p c sl = r
  slots   : ∀ r : Run, r.Beside s c sl l → ∀ x ∈ slotsOf s p.pid, x ≠ (c, sl) → r.answerSlot p x.1 x.2 = r
  engines : ∀ r : Run, r.Beside s c sl l → ∀ k ∈ coresOf s p.pid, ∀ e, e < 4 → r.answerEngine p k e = r
  colls   : ∀ r : Run, r.Beside s c sl l → ∀ k ∈ s.colls, r.answerCollective p k = r
  scenes  : ∀ r : Run, r.Beside s c sl l → ∀ x ∈ s.gaffer.ctxs, x.2.pid = p.pid →
    r.answerScene p x.1 x.2 = r ∧ r.answerTables p x.1 x.2 = r
  queues  : ∀ r : Run, r.Beside s c sl l → ∀ q ∈ s.gaffer.queues, r.answerQueue p q.1 = r
  launches : ∀ r : Run, r.Beside s c sl l → ∀ y ∈ s.gaffer.launches, r.answerLaunch p y.1 y.2 = r

/-! ### Management -/

/-- The management record once a command has ended (24 R429). -/
def Mgmt.ended (m : Mgmt) (result : BitVec 8) (detail : BitVec 16) (reply : List Byte) : Mgmt :=
  { m with payload := writeBytes m.payload 0 reply, result := result, detail := detail,
           mbcmd := m.mbcmd &&& 0xFF }

/-- The command that the host has started, when no live replacement holds commands back (24 R430, R436). -/
def State.commanded (s : State) (opc : Nat) : Prop :=
  s.powered = true ∧ s.mgmt.go = true ∧ s.mgmt.opc = opc ∧ s.paused = false

/-! ### The turn -/

/-- The slot whose turn it is holds a thread that may look at its next bundle (02 R42): nothing bars it, no fault awaits it,
and it is not parked. -/
structure State.eligible (s : State) : Prop where
  powered : s.powered = true
  free    : slotBarred s s.hereCore s.hereSlot = false
  faults  : s.here.faults = []
  park    : s.here.park = none

/-- A turn on which no change of level is due and the bit buffer is left as it stands (20 R399, 05 R157). -/
structure State.evenTurn (s : State) : Prop where
  powered : s.powered = true
  level   : s.hereSlot ≠ 0 ∨ setLevel s s.hereCore = s.hereOf.level
  ahead   : s.sel.num = 0

end Sys2Proof.Machine
end

