-- ==== Sys2Proof/Certificates/Slice0/Obligations.lean ====
section
/-!
DEFINITION. What is claimed of the machine: the statements for the provers. Each says which rules of the
specification it formalises.
-/

open Sys2Proof Sys2Proof.Machine

/-! ### Scalar instructions -/

/-- R94, R93: the result of each register-register operation; nothing else changes, and g0 keeps
reading zero.

R98, R99: operations with an immediate, and constants. -/
def Obligations.ScalarArithmetic : Prop :=
  (∀ (s : State) (d a b : Reg), s.Inv →
    (Plain s (.add d a b) → SetsG s (.add d a b) d (s.g a + s.g b)) ∧
    (Plain s (.sub d a b) → SetsG s (.sub d a b) d (s.g a - s.g b)) ∧
    (Plain s (.and d a b) → SetsG s (.and d a b) d (s.g a &&& s.g b)) ∧
    (Plain s (.or d a b) → SetsG s (.or d a b) d (s.g a ||| s.g b)) ∧
    (Plain s (.xor d a b) → SetsG s (.xor d a b) d (s.g a ^^^ s.g b)) ∧
    (Plain s (.shl d a b) → SetsG s (.shl d a b) d (s.g a <<< ((s.g b).toNat % 64))) ∧
    (Plain s (.shr d a b) → SetsG s (.shr d a b) d (s.g a >>> ((s.g b).toNat % 64))) ∧
    (Plain s (.sra d a b) → SetsG s (.sra d a b) d ((s.g a).sshiftRight ((s.g b).toNat % 64))) ∧
    (Plain s (.mul d a b) → SetsG s (.mul d a b) d (s.g a * s.g b)) ∧
    (Plain s (.mulh d a b) → SetsG s (.mulh d a b) d
      (((s.g a).signExtend 128 * (s.g b).signExtend 128).extractLsb' 64 64)) ∧
    (Plain s (.mulhu d a b) → SetsG s (.mulhu d a b) d
      (((s.g a).setWidth 128 * (s.g b).setWidth 128).extractLsb' 64 64)) ∧
    (Plain s (.min d a b) → SetsG s (.min d a b) d (if (s.g a).slt (s.g b) then s.g a else s.g b)) ∧
    (Plain s (.max d a b) → SetsG s (.max d a b) d (if (s.g a).slt (s.g b) then s.g b else s.g a)) ∧
    (Plain s (.minu d a b) → SetsG s (.minu d a b) d (if (s.g a).ult (s.g b) then s.g a else s.g b)) ∧
    (Plain s (.maxu d a b) → SetsG s (.maxu d a b) d (if (s.g a).ult (s.g b) then s.g b else s.g a)) ∧
    (Plain s (.slt d a b) → SetsG s (.slt d a b) d (if (s.g a).toInt < (s.g b).toInt then 1 else 0)) ∧
    (Plain s (.sltu d a b) → SetsG s (.sltu d a b) d (if (s.g a).toNat < (s.g b).toNat then 1 else 0))) ∧
  (∀ (s : State) (d a : Reg) (m : BitVec 12) (n : BitVec 6) (k : BitVec 17), s.Inv →
    (Plain s (.addi d a m) → SetsG s (.addi d a m) d (s.g a + m.signExtend 64)) ∧
    (Plain s (.andi d a m) → SetsG s (.andi d a m) d (s.g a &&& m.signExtend 64)) ∧
    (Plain s (.ori d a m) → SetsG s (.ori d a m) d (s.g a ||| m.setWidth 64)) ∧
    (Plain s (.xori d a m) → SetsG s (.xori d a m) d (s.g a ^^^ m.setWidth 64)) ∧
    (Plain s (.shli d a n) → SetsG s (.shli d a n) d (s.g a <<< n.toNat)) ∧
    (Plain s (.shri d a n) → SetsG s (.shri d a n) d (s.g a >>> n.toNat)) ∧
    (Plain s (.srai d a n) → SetsG s (.srai d a n) d ((s.g a).sshiftRight n.toNat)) ∧
    (Plain s (.slti d a m) → SetsG s (.slti d a m) d
      (if (s.g a).toInt < m.toInt then 1 else 0)) ∧
    (Plain s (.sltiu d a m) → SetsG s (.sltiu d a m) d
      (if (s.g a).toNat < (m.signExtend 64).toNat then 1 else 0)) ∧
    (Plain s (.kon d k) → SetsG s (.kon d k) d (k.signExtend 64)) ∧
    (Plain s (.konh d k) → SetsG s (.konh d k) d (s.g d <<< 17 ||| k.setWidth 64)))

/-- R94: bit counts and reversals. A count is given by the bits themselves, a reversal by every bit of
its result.

R96, R97: bit fields and selection. `ins` reads its destination. -/
def Obligations.ScalarBitsAndFields : Prop :=
  (∀ (s : State) (d a : Reg), s.Inv →
    (Plain s (.clz d a) → SetsG s (.clz d a) d
      (BitVec.ofNat 64 ((List.range 64).takeWhile fun j => ! (s.g a).getLsbD (63 - j)).length)) ∧
    (Plain s (.ctz d a) → SetsG s (.ctz d a) d
      (BitVec.ofNat 64 ((List.range 64).takeWhile fun j => ! (s.g a).getLsbD j).length)) ∧
    (Plain s (.popc d a) → SetsG s (.popc d a) d
      (BitVec.ofNat 64 ((List.range 64).filter fun j => (s.g a).getLsbD j).length)) ∧
    (Plain s (.revBit d a) → ∀ v : Word, (∀ j, j < 64 → v.getLsbD j = (s.g a).getLsbD (63 - j)) →
      SetsG s (.revBit d a) d v) ∧
    (Plain s (.revB d a) → ∀ v : Word,
      (∀ k j, k < 8 → j < 8 → v.getLsbD (8 * k + j) = (s.g a).getLsbD (8 * (7 - k) + j)) →
      SetsG s (.revB d a) d v)) ∧
  (∀ (s : State) (d a b c : Reg) (u n : BitVec 6), s.Inv →
    (Plain s (.ext d a u n) → SetsG s (.ext d a u n) d
      (((s.g a).extractLsb' u.toNat (n.toNat + 1)).setWidth 64)) ∧
    (Plain s (.ins d a u n) → ∀ v : Word,
      (∀ j, j < 64 → v.getLsbD j = if u.toNat ≤ j ∧ j ≤ u.toNat + n.toNat
        then (s.g a).getLsbD (j - u.toNat) else (s.g d).getLsbD j) →
      SetsG s (.ins d a u n) d v) ∧
    (Plain s (.sel d a b c) → SetsG s (.sel d a b c) d (if s.g c ≠ 0 then s.g a else s.g b)))

/-- R95: division. By zero it gives all ones and the dividend, with DZ raised, or traps 0x20 with the
dividend; the one signed quotient that overflows wraps, with remainder zero. -/
def Obligations.Division : Prop :=
  ∀ (s : State) (d a b : Reg), s.Inv →
    (∀ i, i ∈ [Instr.div d a b, .divu d a b, .rem d a b, .remu d a b] → Plain s i →
      s.g b = 0 → bitAt (fflagsOf s s.hereCore s.hereBlock) 13 = true → Traps s i 0x20 (s.g a) 0) ∧
    (s.g b = 0 → bitAt (fflagsOf s s.hereCore s.hereBlock) 13 = false →
      (Plain s (.div d a b) → RaisesDZ s (.div d a b) d (BitVec.allOnes 64)) ∧
      (Plain s (.divu d a b) → RaisesDZ s (.divu d a b) d (BitVec.allOnes 64)) ∧
      (Plain s (.rem d a b) → RaisesDZ s (.rem d a b) d (s.g a)) ∧
      (Plain s (.remu d a b) → RaisesDZ s (.remu d a b) d (s.g a))) ∧
    (s.g b ≠ 0 →
      (Plain s (.div d a b) → SetsG s (.div d a b) d ((s.g a).sdiv (s.g b))) ∧
      (Plain s (.divu d a b) → SetsG s (.divu d a b) d ((s.g a).udiv (s.g b))) ∧
      (Plain s (.rem d a b) → SetsG s (.rem d a b) d ((s.g a).srem (s.g b))) ∧
      (Plain s (.remu d a b) → SetsG s (.remu d a b) d ((s.g a).umod (s.g b))))

/-! ### Control -/

/-- R59, R103, R104: `nop` and the jumps. A jump's target that leaves the address space traps 0x42 with
the target as auxiliary value, and then no link is written.

R101, R104: a branch goes to its target when its condition holds and falls through otherwise.

R108: a bundle that falls through ends the loop levels whose last word it is, from level 2 down.

Model's reading, log 34: a taken branch whose target leaves the address space traps 0x42 as a jump does. -/
def Obligations.JumpsAndBranches : Prop :=
  (∀ (s : State) (d a : Reg) (o : BitVec 22) (m : BitVec 12), s.Inv →
    (Plain s .nop → Does s .nop {} fun _ => True) ∧
    (Plain s (.j o) → GoesTo s (.j o) (s.wordTarget o) {} fun _ => True) ∧
    (Plain s (.jal o) → GoesTo s (.jal o) (s.wordTarget o) { l := gBytes 31 } fun t =>
      t.gIs s 31 (BitVec.ofNat 64 s.nextPc)) ∧
    (Plain s (.jr a m) → GoesTo s (.jr a m) (s.regTarget a m) {} fun _ => True) ∧
    (Plain s (.jalr d a m) → GoesTo s (.jalr d a m) (s.regTarget a m) { l := gBytes d } fun t =>
      t.gIs s d (BitVec.ofNat 64 s.nextPc))) ∧
  (∀ (s : State) (a b : Reg) (o : BitVec 12), s.Inv →
    ∀ p ∈ [(Instr.bEq a b o, decide (s.g a = s.g b)), (.bNe a b o, decide (s.g a ≠ s.g b)),
        (.bLt a b o, decide ((s.g a).toInt < (s.g b).toInt)),
        (.bGe a b o, decide ((s.g b).toInt ≤ (s.g a).toInt)),
        (.bLtu a b o, decide ((s.g a).toNat < (s.g b).toNat)),
        (.bGeu a b o, decide ((s.g b).toNat ≤ (s.g a).toNat))], Plain s p.1 →
      (p.2 = true → GoesTo s p.1 (s.wordTarget o) {} fun _ => True) ∧
      (p.2 = false → Does s p.1 {} fun _ => True))

/-- R107, R109: `loop` starts a level when its checks pass and its body's last word, w, is no first word of a
pair; with a count of zero control goes past the body, and a check that fails traps 0x07. A fetch of that word that
faults gives the trap its cause and the word's address, and one that misses a page leaves the bundle unissued. `lbrk`
leaves a level and those inside it, `lbrk.stay` without a transfer of control; an inactive level traps 0x07.

R108: a bundle whose word is the last of the body of level l, and of no level inside it, takes one from the
level's count: with iterations left control goes to the body's start and the levels inside end;
without, the level ends. Of levels that end on the same word the innermost goes first, and one that ends leaves the
turn to the next.

Model's reading, log 34: the targets of `lbrk` and of a count of zero are checked as a jump's are, and `lbrk.stay` of
an inactive level traps. -/
def Obligations.Loops : Prop :=
  (∀ (s : State) (v : BitVec 2) (c : Reg) (n : BitVec 15), s.Inv →
    (Plain s (.loop v c n) →
      let last := s.nextPc + 4 * (n.toNat - 1)
      (∀ w, LoopFits s v.toNat n.toNat (s.g c) → fetchWord s s.hereCore s.hereSlot last = .ok w [] →
        (last % 8 = 0 → w.getLsbD 31 = true) →
        (s.g c ≠ 0 → Does s (.loop v c n) { l := loopBytes } fun t =>
          s.loopEnds = false → t.level s v.toNat =
            { active := true, length := n.toNat, count := (s.g c).toNat, start := s.nextPc }) ∧
        (s.g c = 0 → GoesTo s (.loop v c n) (BitVec.ofNat 64 (s.nextPc + 4 * n.toNat)) {}
          fun _ => True)) ∧
      (∀ w, LoopFits s v.toNat n.toNat (s.g c) → fetchWord s s.hereCore s.hereSlot last = .ok w [] →
        last % 8 = 0 → w.getLsbD 31 = false →
        Traps s (.loop v c n) 0x07 (BitVec.ofNat 64 (loneWord (.loop v c n)).toNat) 0) ∧
      (∀ cause aux2, LoopFits s v.toNat n.toNat (s.g c) →
        fetchWord s s.hereCore s.hereSlot last = .fault cause aux2 [] →
        cause ∈ [0x42, 0x43, 0x45, 0x46, 0x48, 0xC0] →
        Traps s (.loop v c n) cause (BitVec.ofNat 64 last) aux2) ∧
      (LoopFits s v.toNat n.toNat (s.g c) → fetchWord s s.hereCore s.hereSlot last = .page →
        exec (.loop v c n) s = .next (((s.env (.loop v c n) []).pageEff last false).apply s).stays) ∧
      (¬ LoopFits s v.toNat n.toNat (s.g c) →
        Traps s (.loop v c n) 0x07 (BitVec.ofNat 64 (loneWord (.loop v c n)).toNat) 0)) ∧
    (Plain s (.lbrk v) →
      ((s.level s v.toNat).active = true →
        GoesTo s (.lbrk v)
          (BitVec.ofNat 64 ((s.level s v.toNat).start + 4 * (s.level s v.toNat).length))
          { l := loopBytes } fun t => ∀ l, l < 3 → t.level s l =
            if v.toNat ≤ l then { s.level s l with active := false } else s.level s l) ∧
      ((s.level s v.toNat).active = false →
        Traps s (.lbrk v) 0x07 (BitVec.ofNat 64 (loneWord (.lbrk v)).toNat) 0)) ∧
    (Plain s (.lbrkStay v) → (s.level s v.toNat).active = true →
        Does s (.lbrkStay v) { l := loopBytes } fun t => s.loopEnds = false → ∀ l, l < 3 →
          t.level s l = if v.toNat ≤ l then { s.level s l with active := false } else s.level s l) ∧
    (Plain s (.lbrkStay v) → (s.level s v.toNat).active = false →
        Traps s (.lbrkStay v) 0x07 (BitVec.ofNat 64 (loneWord (.lbrkStay v)).toNat) 0)) ∧
  (∀ (last pc : Nat) (x : Nat → LoopState), (x 2).active = true → (x 2).lastWord = last → (x 2).count = 1 →
    (x 1).active = true → (x 1).lastWord = last → (x 1).count ≠ 1 → (x 1).count < 2 ^ 48 →
    (levelsEnd last pc 3 x).2 = (x 1).start ∧ ((levelsEnd last pc 3 x).1 2).active = false ∧
      ((levelsEnd last pc 3 x).1 1).count = ((x 1).count + 2 ^ 48 - 1) % 2 ^ 48 ∧
      (levelsEnd last pc 3 x).1 0 = x 0) ∧
  (∀ (s : State) (l : Nat), s.Inv → Plain s .nop → l < 3 → (s.level s l).active = true →
    (s.level s l).lastWord = s.herePc → (s.level s l).start < 2 ^ 57 →
    (∀ k, l < k → k < 3 → (s.level s k).active = false ∨ (s.level s k).lastWord ≠ s.herePc) →
    ∃ t, exec .nop s = .next t ∧ Turned s t { l := loopBytes } ∧
      ((s.level s l).count ≠ 1 → t.pcAt s (s.level s l).start ∧
        t.level s l = { s.level s l with count := ((s.level s l).count + 2 ^ 48 - 1) % 2 ^ 48 } ∧
        ∀ k, l < k → k < 3 → (t.level s k).active = false) ∧
      ((s.level s l).count = 1 → (t.level s l).active = false))

/-! ### Threads -/

/-- R112: `fork` starts an operation that increments the join counter, if there is one, and pushes the arm's
record; the thread goes on. A counter's address must be aligned to 8 and below 2^57.

R113, R114: `join` starts the decrement and sleeps until it returns; `susp` stalls while an operation is
outstanding, and then starts the write of the thread's record and sleeps.

R42: a `susp` reached while an operation of its thread is outstanding stalls whatever its address.

Model's choice, log 1: the operation stands in State until its home serves it; model's reading, log 35: the record of
a `susp` in the last bundle of a loop body holds the address after the bundle; log 31: a word that traps does so
before it stalls for a place among the operations. -/
def Obligations.ForkJoinSusp : Prop :=
  (∀ (s : State) (a b : Reg) (o : BitVec 12), s.Inv → Issues s (.fork a b o) 1 [] [] →
    (∀ c, s.g a ≠ 0 → addrFault .gl (s.g a) 8 = some c → Traps s (.fork a b o) c (s.g a) 0) ∧
    ((s.g a = 0 ∨ addrFault .gl (s.g a) 8 = none) →
      ∃ rec, s.Records rec (s.wordTarget o).toNat 1 (s.g a).toNat [s.g b, s.g 2, s.g 3, s.g 4, s.g 5] ∧
        Starts s (.fork a b o) .none (.fork (s.g a).toNat rec))) ∧
  (∀ (s : State) (d a : Reg) (m : BitVec 12), s.Inv →
    (Issues s (.join d a m) 1 [] [] → let x := s.g a + m.signExtend 64 * 8
      (∀ c, addrFault .gl x 8 = some c → Traps s (.join d a m) c x 0) ∧
      (addrFault .gl x 8 = none → Does s (.join d a m)
        { f := fun y => (y.starts (s.newOp (.g d) (.join x.toNat))).parkedAt s .join } fun _ => True)) ∧
    (Reaches s (.susp a m) 0 [] [] → s.here.outstanding ≠ 0 → Stalls s (.susp a m)) ∧
    (Plain s (.susp a m) → let x := s.g a + m.signExtend 64 * 64
      (∀ c, addrFault .gl x 64 = some c → Traps s (.susp a m) c x 0) ∧
      (addrFault .gl x 64 = none →
        ∃ rec, s.Records rec s.nextPc 2 0 s.five ∧ Does s (.susp a m)
          { f := fun y => (y.starts (s.newOp .none (.susp x.toNat rec))).parkedAt s .susp }
          fun _ => True)))

/-- R115, R117: `yield` stalls while an operation is outstanding, and has no effect in slot 0 or with an empty deque.
A user thread that finds a record in a deque with room goes onto the top of it, and the bottom record's thread
stands in its slot.

R307: the push releases, so it waits until the thread's stores have left the buffer.

Model's reading: log 34 that the record goes on the top of the deque, log 35 that the record of a thread in the last
bundle of a loop body holds the address after the bundle, log 67 what the push waits for.

R116, R117: `halt` ends a user thread: with nothing outstanding the slot is free and its block is back in the
pool; otherwise the thread ends when its results have returned. In slot 0 it sleeps. -/
def Obligations.YieldAndHalt : Prop :=
  (∀ (s : State), s.Inv → Reaches s .yield 0 [] [] → s.here.outstanding ≠ 0 → Stalls s .yield) ∧
  (∀ (s : State), s.Inv → Plain s .yield →
    (s.here.outstanding = 0 → s.hereSlot = 0 ∨ s.hereOf.depth = 0 → Does s .yield {} fun _ => True) ∧
    (s.here.outstanding = 0 → s.hereSlot ≠ 0 → 0 < s.hereOf.depth →
      s.here.storeBefore s.here.tid s.here.seq = true → Stalls s .yield) ∧
    (s.here.outstanding = 0 → s.hereSlot ≠ 0 → 0 < s.hereOf.depth → s.hereOf.depth < 64 →
      s.here.storeBefore s.here.tid s.here.seq = false →
      (∀ k ∈ setPut s.hereOf.pool s.hereBlock true, reservedBlock k = false) →
      Then s .yield {} (fun _ => True) fun u v =>
        ∃ b, (setPut s.hereOf.pool s.hereBlock true).head? = some b ∧
          let y := dequeRec s s.hereCore (s.hereOf.dqTop + s.hereOf.depth - 1)
          (v.slot s.hereCore s.hereSlot).wspV = true ∧ (v.slot s.hereCore s.hereSlot).block = b ∧
          (v.slot s.hereCore s.hereSlot).tid = s.here.last + 2 ∧
          pcImage v s.hereCore b = (recSeeds y).pc ∧
          (v.core s.hereCore).pool = setPut (setPut s.hereOf.pool s.hereBlock true) b false ∧
          (v.core s.hereCore).depth = s.hereOf.depth ∧
          s.Records (dequeRec v s.hereCore (v.core s.hereCore).dqTop) s.nextPc 3 0 s.five ∧
          ∀ k, k ≠ slotKey s.hereCore s.hereSlot →
            mapGet Slot.reset v.slots k = mapGet Slot.reset u.slots k)) ∧
  (∀ (s : State), s.Inv → Plain s .halt →
    (s.hereSlot = 0 → Does s .halt { f := fun y => y.parkedAt s .halt } fun _ => True) ∧
    (s.hereSlot ≠ 0 → s.here.outstanding ≠ 0 →
      Then s .halt {} (fun _ => True) fun u v => v = u.setSlot s.hereCore s.hereSlot s.here.ending) ∧
    (s.hereSlot ≠ 0 → s.here.outstanding = 0 → reservedBlock s.hereBlock = false →
      Then s .halt {} (fun _ => True) fun u v =>
        (v.slot s.hereCore s.hereSlot).wspV = false ∧ (v.slot s.hereCore s.hereSlot).sb = s.here.sb ∧
        (∀ k, k ≠ slotKey s.hereCore s.hereSlot →
          mapGet Slot.reset v.slots k = mapGet Slot.reset s.slots k) ∧
        (v.core s.hereCore).pool = setPut s.hereOf.pool s.hereBlock true ∧
        (∀ n, n < 2048 → readByte v.mem (localKey s.hereCore .wm (s.hereBlock * 2048 + n)) = 0) ∧
        ∀ k, inRanges [(localKey s.hereCore .wm (s.hereBlock * 2048), 2048)] k = false →
          readByte v.mem k = readByte u.mem k))

/-! ### Traps, control registers and the supervisor -/

/-- R127, R316, R323: `trap n` of a user thread parks it with the record made and its PC image after the bundle;
that of the supervisor joins the queue at once, if one of the 16 places for slot records is free (R320), and the
supervisor goes on.

R128, R321: `rte` removes the head record and brings the head window up to date; unless the record is a machine check,
the supervisor's own or stale, its thread stands parked by the trap no more. With an empty queue it has no effect.

Model's choice, log 65: a record of the supervisor that finds no place is dropped. -/
def Obligations.TrapAndReturn : Prop :=
  (∀ (s : State) (a : Reg) (n : BitVec 4), s.Inv → Plain s (.trap a n) →
    let r := { trapRecord s s.hereSlot (0xE0 + n.setWidth 8) (s.g a) 0 s.herePc false false with
      launch := s.here.launch, tid := s.here.tid }
    ∃ u, u.pcAt s s.nextPc ∧ { u with mem := s.mem, cores := s.cores } = s ∧
      u.core s.hereCore = { s.hereOf with dirty := (u.core s.hereCore).dirty } ∧
      (∀ k, inWorkspace s.hereCore s.hereBlock pcBytes k = false → readByte u.mem k = readByte s.mem k) ∧
      (s.hereSlot ≠ 0 → exec (.trap a n) s = .next ((u.setSlot s.hereCore s.hereSlot { s.here with
        trap := some { record := r, queued := false }, asleep := none }).ticked s.hereCore)) ∧
      (s.hereSlot = 0 → ∃ v, exec (.trap a n) s = .next (v.ticked s.hereCore) ∧
        Queued s u v (if (slotRecords s.hereOf.trapq).length < 16 then s.hereOf.trapq ++ [r]
          else s.hereOf.trapq))) ∧
  (∀ (s : State), s.Inv → Plain s .rte → s.hereSlot = 0 →
    (s.hereOf.trapq = [] → Does s .rte {} fun _ => True) ∧
    (∀ r rest, s.hereOf.trapq = r :: rest → (r.mchk || r.sup || r.stale) = true →
      Then s .rte {} (fun _ => True) fun u v => Queued s u v (freshHead u s.hereCore rest)) ∧
    (∀ r rest, s.hereOf.trapq = r :: rest → (r.mchk || r.sup || r.stale) = false →
      Then s .rte {} (fun _ => True) fun u v =>
        let x := u.slot s.hereCore r.slot.toNat
        Queued s (u.setSlot s.hereCore r.slot.toNat { x with
          async := x.async.map retryFork, trap := none,
          park := x.park.map fun p => { p with cycle := s.hereOf.cycle.toNat } }) v
          (freshHead u s.hereCore rest)))

/-- R118, R120, R121, R123: what `crd` gives for each control register.

R118, R119, R122, R123: `cwr` and `crx` write a control register, and `crx` gives the value it had. A thread's
registers lie in its workspace; SHPEN is also sent to the Lehr, and traps 0x92 in a context without a scene.

R9, R124: reserved bits are stored as given, and read as zero.

Model's reading, log 15: reserved bits are stored as far as the image has room for them. -/
def Obligations.ControlRegisters : Prop :=
  (∀ (s : State) (d : Reg), s.Inv →
    let c := s.hereCore
    ∀ p ∈ [(0x000, BitVec.ofNat 64 (natOf s.here.wspV + s.here.block * 2 ^ 11)),
        (0x001, BitVec.ofNat 64 s.hereSlot),
        (0x002, BitVec.ofNat 64 (c % 32 + c / 32 % 32 * 2 ^ 5 + c / 1024 % 4 * 2 ^ 10
          + (c % 2 + 2 * (c / 32 % 2)) * 2 ^ 12 + colClass (c % 32 / 2) * 2 ^ 14
          + s.link.device.toNat * 2 ^ 16)),
        (0x003, BitVec.ofNat 64 (field (threadDword s c s.hereBlock) 63 32)),
        (0x004, BitVec.ofNat 64 (field (threadDword s c s.hereBlock) 31 16)),
        (0x008, licenceWord s (quadOf c)), (0x010, s.hereOf.nfReg 0 &&& 0x7FF7F),
        (0x011, s.hereOf.nfReg 1 &&& 0x7FF7F), (0x012, s.hereOf.nfReg 2 &&& 0x7FF7F),
        (0x013, s.hereOf.nfReg 3 &&& 0x7FF7F), (0x014, s.hereOf.nfReg 4 &&& 0x7FF7F),
        (0x015, s.hereOf.nfReg 5 &&& 0x7FF7F), (0x016, s.hereOf.nfReg 6 &&& 0x7FF7F),
        (0x017, s.hereOf.nfReg 7 &&& 0x7FF7F), (0x018, s.here.sca &&& 0xFFFFF), (0x019, s.here.scb &&& 0xFFFFF),
        (0x020, BitVec.ofNat 64 (rmMode s c s.hereBlock)),
        (0x021, (fflagsOf s c s.hereBlock).setWidth 64 &&& 0x3F1F), (0x022, (srgOf s c s.hereBlock).setWidth 64),
        (0x030, BitVec.ofNat 64 (wlimOf s c s.hereBlock)),
        (0x031, BitVec.ofNat 64 (natOf (strictOn s c s.hereBlock))), (0x032, s.hereOf.sgm &&& 1),
        (0x040, s.time), (0x050, s.hereOf.shpen &&& 0xFFFFFFFF)],
      Plain s (.crd d p.1) → SetsG s (.crd d p.1) d p.2) ∧
  (∀ (s : State) (d a : Reg) (r : BitVec 12), s.Inv →
    ∀ p ∈ [(Instr.cwr a r, ([] : List (Nat × Nat)), fun _ => True),
        (.crx d a r, gBytes d, fun t : State =>
          t.gIs s d (ctlRead s s.hereCore s.hereSlot s.hereBlock r.toNat))],
      (Plain s p.1 →
        (r = 0x020 → Does s p.1 { l := [(0x2F2, 2)] ++ p.2.1 } fun t => p.2.2 t ∧
          rmMode t s.hereCore s.hereBlock = field (s.g a) 2 0 ∧
          field (ctlDword t s.hereCore s.hereBlock) 31 16 = field (s.g a) 15 0) ∧
        (r = 0x021 → Does s p.1 { l := [(0x2F0, 2)] ++ p.2.1 } fun t => p.2.2 t ∧
          fflagsOf t s.hereCore s.hereBlock = (s.g a).extractLsb' 0 14 ∧
          field (ctlDword t s.hereCore s.hereBlock) 15 0 = field (s.g a) 15 0) ∧
        (r = 0x022 → Does s p.1 { l := [(0x2F8, 8)] ++ p.2.1 } fun t => p.2.2 t ∧
          srgOf t s.hereCore s.hereBlock = (s.g a).extractLsb' 0 32 ∧
          wspDword t s.hereCore s.hereBlock 0x2F8 = s.g a) ∧
        (r = 0x030 → Does s p.1 { l := [(0x2F4, 4)] ++ p.2.1 } fun t => p.2.2 t ∧
          wlimOf t s.hereCore s.hereBlock = field (s.g a) 31 0) ∧
        (r = 0x031 → Does s p.1 { l := [(0x2E8, 2)] ++ p.2.1 } fun t => p.2.2 t ∧
          strictOn t s.hereCore s.hereBlock = bitAt (s.g a) 0 ∧
          field (threadDword t s.hereCore s.hereBlock) 15 0 = field (s.g a) 15 0) ∧
        (r = 0x018 → Does s p.1 { l := p.2.1, f := fun x => { x with sca := s.g a } } p.2.2) ∧
        (r = 0x019 → Does s p.1 { l := p.2.1, f := fun x => { x with scb := s.g a } } p.2.2) ∧
        (r = 0x032 → Does s p.1 { l := p.2.1, g := fun x => { x with sgm := s.g a } } p.2.2) ∧
        (0x010 ≤ r.toNat → r.toNat ≤ 0x017 → Does s p.1
          { l := p.2.1, g := fun x => { x with nf := mapSet 0 x.nf (r.toNat - 0x010) (s.g a) } } p.2.2)) ∧
      (Issues s p.1 1 [] [] → r = 0x050 →
        ((s.ctxOf s.hereCore).bind Context.scene = none →
          Traps s p.1 0x92 (BitVec.ofNat 64 (loneWord p.1).toNat) 0) ∧
        ((s.ctxOf s.hereCore).bind Context.scene ≠ none → Does s p.1
          { l := p.2.1, g := fun x => { x with shpen := s.g a },
            f := fun x => x.starts (s.newOp .none (.layer
              { op := 0x80, xop := 0, a := s.g a, b := 0, c := 0, word := loneWord p.1 })) } p.2.2)))

/-- R129, R319: `wrd` and `wwr` reach a slot's workspace; an offset that is misaligned traps 0x40 and one past the block
0x41; a slot without a workspace gives zero and takes nothing; the head window is not written.

A write of the bit buffer's dwords notes whether the buffer is then as R160 asks.

R131, R221: `wspx` gives a slot's WSP and puts another in its place; the slot then runs the thread whose image the new
workspace holds, or is free. A value with a reserved bit set traps 0x41. It waits for the thread's route solving. A
bundle asleep on waits alone is given up: its waits are no more, and the thread stands before it.

Model's reading, log 68: when the bundle has completed, when `wspx` waits, and that a thread put back by its block is the
one that was displaced, with its launch. -/
def Obligations.Workspaces : Prop :=
  (∀ (s : State) (d a b : Reg), s.Inv → s.hereSlot = 0 →
    let x := s.slot s.hereCore ((s.g a).toNat % 16)
    let o := (s.g b).toNat
    (Plain s (.wrd d a b) →
      (o % 8 ≠ 0 → Traps s (.wrd d a b) 0x40 (s.g b) 0) ∧
      (o % 8 = 0 → 0x800 ≤ o → Traps s (.wrd d a b) 0x41 (s.g b) 0) ∧
      (o % 8 = 0 → o < 0x800 → SetsG s (.wrd d a b) d
        (if x.wspV then wspDword s s.hereCore x.block o else 0))) ∧
    (Plain s (.wwr d a b) →
      (o % 8 ≠ 0 → Traps s (.wwr d a b) 0x40 (s.g b) 0) ∧
      (o % 8 = 0 → 0x800 ≤ o → Traps s (.wwr d a b) 0x41 (s.g b) 0) ∧
      (o % 8 = 0 → o < 0x800 → x.wspV = false → Does s (.wwr d a b) {} fun _ => True) ∧
      (o % 8 = 0 → o < 0x800 → x.wspV = true → ∃ t, exec (.wwr d a b) s = .next t ∧
        Touched s t [(localKey s.hereCore .wm (x.block * 2048 + o), 8)]
          { l := loopBytes, g := fun y => { y with wildBits := (t.core s.hereCore).wildBits } } ∧
        (o < 0x2C0 ∨ 0x2E0 ≤ o → (t.core s.hereCore).wildBits = s.hereOf.wildBits) ∧
        (0x2C0 ≤ o → o < 0x2E0 →
          readWsp t s.hereCore x.block 0x2C0 32 ≠ readWsp s s.hereCore x.block 0x2C0 32 →
          bitsHold t s.hereCore x.block = ((bitBuf t s.hereCore x.block).sound s.hereCore &&
            (bitBuf t s.hereCore x.block).holdsStream x t s.hereCore)) ∧
        ((x.block ≠ s.hereBlock ∨ o < 0x290 ∨ (0x2C0 ≤ o ∧ o < 0x2E0) ∨ 0x2E8 ≤ o) → ∀ n, n < 8 →
          readByte t.mem (localKey s.hereCore .wm (x.block * 2048 + o) + n) =
            if x.block = 0 ∧ 0x480 ≤ o ∧ o < 0x4A8
            then readByte s.mem (localKey s.hereCore .wm (x.block * 2048 + o) + n)
            else (s.g d).extractLsb' (8 * n) 8)))) ∧
  (∀ (s : State) (d a b : Reg), s.Inv → s.hereSlot = 0 → Plain s (.wspx d a b) →
    let k := (s.g a).toNat % 16
    let x := s.slot s.hereCore k
    ((field (s.g b) 63 17 ≠ 0 ∨ field (s.g b) 10 1 ≠ 0) → Traps s (.wspx d a b) 0x41 (s.g b) 0) ∧
    (field (s.g b) 63 17 = 0 → field (s.g b) 10 1 = 0 →
      (wspxWaits s s.hereCore x = true → Stalls s (.wspx d a b)) ∧
      (wspxWaits s s.hereCore x = false → Then s (.wspx d a b) { l := gBytes d }
        (fun u => u.gIs s d (BitVec.ofNat 64 (natOf x.wspV + x.block * 2 ^ 11))) fun u v =>
        let y := v.slot s.hereCore k
        let back := (s.hereOf.displaced k (u.slot s.hereCore k)).putBack (s.g b)
        y.wspV = bitAt (s.g b) 0 ∧ y.block = field (s.g b) 16 11 ∧ y.park = none ∧ y.asleep = none ∧
        y.trap = none ∧ y.faults = [] ∧ y.streams = [] ∧ y.sca = x.sca ∧ y.scb = x.scb ∧
        y.launch = back.bind LeftThread.launch ∧
        y.tid = (match back.filter fun e => e.slot == k with | some e => e.tid | none => x.last + 1) ∧
        (v.core s.hereCore).left =
          (s.hereOf.displaced k (u.slot s.hereCore k)).left.filter (fun e => some e ≠ back) ∧
        (∀ j, j ≠ k → v.slot s.hereCore j = u.slot s.hereCore j) ∧
        (∀ p, x.park = some p →
          let ops := x.own.filter fun o => decide (p.first ≤ o.seq) && o.cancels
          let sts := x.ownStfe.filter fun e => decide (p.first ≤ e.seq)
          let gives := (sleepOf u s.hereCore x).isSome ∧ ops.length + sts.length = x.seq - p.first
          (gives → pcImage v s.hereCore x.block = p.pc % 2 ^ 57 ∧
            (∀ o ∈ ops, ∀ q ∈ y.async, q.tid = o.tid → q.seq ≠ o.seq) ∧
            ∀ e ∈ sts, ∀ q ∈ y.sb, q.seq ≠ e.seq) ∧
          (¬ gives → y.sb = x.sb ∧ pcImage v s.hereCore x.block = pcImage u s.hereCore x.block)) ∧
        (x.park = none → y.sb = x.sb ∧
          pcImage v s.hereCore x.block = pcImage u s.hereCore x.block) ∧
        ∀ j, inRanges [(localKey s.hereCore .wm 0x480, 40),
            (localKey s.hereCore .wm (x.block * 2048 + 0x2E0), 8)] j = false →
          readByte v.mem j = readByte u.mem j)))

/-- R130, R268: `walloc` takes the lowest free block, clean, or gives zero; `walloc.rel` puts a block back, has no
effect on a free one, and traps 0x41 for a block that a slot names or that is never in the pool.

R132, R133: `slotctl.stat` gives a slot's status word; `stop` holds and `go` releases a thread, with the status
word before; `kill` ends a slot's thread and says whether it ended one; the head record that names the slot leaves the
queue either way. Slot 0 is not acted on. The status word holds the slot's STATE, open commands, STRICT, OFF, HOLD,
outstanding operations and active loop levels, each in its place.

Model's reading, log 78: STATE of a thread that is parked without the park marker or whose event has come about. -/
def Obligations.PoolAndSlots : Prop :=
  (∀ (s : State) (d a : Reg), s.Inv → s.hereSlot = 0 →
    (Plain s (.walloc d) →
      (s.hereOf.pool = [] → SetsG s (.walloc d) d 0) ∧
      (∀ b l, s.hereOf.pool = b :: l →
        Then s (.walloc d) { l := gBytes d } (fun u => u.gIs s d (BitVec.ofNat 64 (b * 2 ^ 11 + 1)))
          fun u v => Cleaned s u v b l s.hereOf.left)) ∧
    (Plain s (.wallocRel a) →
      let b := (s.g a).toNat / 2 ^ 11 % 64
      ((b = 0 ∨ 62 ≤ b ∨ ∃ k, k < 16 ∧ (s.slot s.hereCore k).wspV = true ∧
          (s.slot s.hereCore k).block = b) → Traps s (.wallocRel a) 0x41 (s.g a) 0) ∧
      (b ≠ 0 → b < 62 → (∀ k, k < 16 → (s.slot s.hereCore k).wspV = true →
          (s.slot s.hereCore k).block ≠ b) →
        (b ∈ s.hereOf.pool → Does s (.wallocRel a) {} fun _ => True) ∧
        (b ∉ s.hereOf.pool → Then s (.wallocRel a) {} (fun _ => True) fun u v =>
          Cleaned s u v b (setPut s.hereOf.pool b true) (s.hereOf.left.filter fun e => e.block ≠ b))))) ∧
  (∀ (s : State) (d a : Reg), s.Inv → s.hereSlot = 0 →
    let k := (s.g a).toNat % 16
    let x := s.slot s.hereCore k
    (Plain s (.slotctlStat d a) → SetsG s (.slotctlStat d a) d (slotStatus s s.hereCore k)) ∧
    (∀ i ∈ [Instr.slotctlKill d a, .slotctlStop d a, .slotctlGo d a], Plain s i → k = 0 →
      SetsG s i d 0) ∧
    (Plain s (.slotctlStop d a) → k ≠ 0 → Then s (.slotctlStop d a) { l := gBytes d }
      (fun u => u.gIs s d (slotStatus s s.hereCore k)) fun u v =>
        v = if x.wspV then u.setSlot s.hereCore k { x with hold := true } else u) ∧
    (Plain s (.slotctlGo d a) → k ≠ 0 → Then s (.slotctlGo d a) { l := gBytes d }
      (fun u => u.gIs s d (slotStatus s s.hereCore k)) fun u v =>
        v = u.setSlot s.hereCore k { x with hold := false, stopped := false }) ∧
    (Plain s (.slotctlKill d a) → k ≠ 0 → x.wspV = false →
      Then s (.slotctlKill d a) { l := gBytes d } (fun u => u.gIs s d 0) fun u v =>
        (s.hereOf.trapq = [] → v = u) ∧
        ∀ r rest, s.hereOf.trapq = r :: rest → r.slot.toNat = k → Queued s u v (freshHead u s.hereCore rest)) ∧
    (Plain s (.slotctlKill d a) → k ≠ 0 → x.wspV = true → x.dying = true →
      Then s (.slotctlKill d a) { l := gBytes d } (fun u => u.gIs s d 0) fun _ v =>
        (∀ o ∈ (v.slot s.hereCore k).async, o.tid = x.tid → o.awaitsEvent = false) ∧
        ∀ r rest, s.hereOf.trapq = r :: rest → r.slot.toNat = k →
          (v.core s.hereCore).trapq.length = rest.length) ∧
    (Plain s (.slotctlKill d a) → k ≠ 0 → x.wspV = true → x.dying = false →
      Then s (.slotctlKill d a) { l := gBytes d } (fun u => u.gIs s d 1) fun _ v =>
        ((v.slot s.hereCore k).wspV = false ∨ (v.slot s.hereCore k).dying = true) ∧
        (∀ o ∈ (v.slot s.hereCore k).async, o.tid = x.tid → o.awaitsEvent = false) ∧
        (∀ r rest, s.hereOf.trapq = r :: rest → r.slot.toNat = k →
          (v.core s.hereCore).trapq.length = rest.length))) ∧
  (∀ (s : State) (c k : Nat), (s.slot c k).outstanding ≤ 16 →
    let x := s.slot c k
    let w := slotStatus s c k
    field w 2 0 = (if x.wspV = false then 0 else match x.trap with
      | some t => if t.record.defer && ! t.queued then 5 else 4
      | none => if (sleepOf s c x).isSome then 2 else if x.park.isSome || x.dying then 3 else 1) ∧
    bitAt w 3 = false ∧ (∀ p, p < 4 → bitAt w (4 + p) = (x.port p).opened.isSome) ∧
    bitAt w 8 = (x.wspV && strictOn s c x.block) ∧ bitAt w 9 = (! inRotation (s.core c).level k) ∧
    bitAt w 10 = (x.hold || x.stopped) ∧ field w 15 11 = x.outstanding ∧
    field w 17 16 = (if x.wspV then
      ((List.range 3).filter fun l => (loopState s c x.block l).active).length else 0) ∧
    field w 63 18 = 0)

/-- R134, R216: `tsc` reads TIME and the core's cycle count; `mlic.q` reads LICENCE; `mlic.acq` sets the core's hold
once the quad is ready, and until then does not issue; `mlic.rel` clears the hold.

R213: the fields of LICENCE, each in its place. -/
def Obligations.CountersAndLicence : Prop :=
  (∀ (s : State) (q : Nat), queuedLicensed s q ≤ 64 →
    let x := s.quad q
    let w := licenceWord s q
    bitAt w 0 = x.held ∧ bitAt w 1 = x.wait ∧ bitAt w 2 = (s.quad (twinQuad q)).wait ∧
    bitAt w 3 = (x.yield || (x.held && (s.quad (twinQuad q)).wait &&
      decide (50 ≤ (s.time.toNat - x.grant) / 1000))) ∧
    bitAt w 4 = x.pre ∧ field w 15 5 = 0 ∧ field w 19 16 = x.hold.toNat ∧ field w 23 20 = 0 ∧
    field w 31 24 = queuedLicensed s q ∧
    field w 47 32 = (if x.held then 50 - (s.time.toNat - x.grant) / 1000 else 0) ∧ field w 63 48 = 0) ∧
  ∀ (s : State) (d : Reg), s.Inv →
    let q := quadOf s.hereCore
    let y := s.quad q
    let bit := 1#4 <<< coreRank s.hereCore
    (Plain s (.tsc d 0) → SetsG s (.tsc d 0) d s.time) ∧
    (Plain s (.tsc d 1) → SetsG s (.tsc d 1) d s.hereOf.cycle) ∧
    (Plain s (.mlicQ d) → SetsG s (.mlicQ d) d (licenceWord s q)) ∧
    (Plain s (.mlicRel d) → Does s (.mlicRel d)
      { l := gBytes d, h := fun m => mapSet Quad.reset m q { y with hold := y.hold &&& ~~~ bit } }
      fun t => t.gIs s d (licenceWord s q)) ∧
    (Plain s (.mlicAcq d) → licenceReady s q = true → Does s (.mlicAcq d)
      { l := gBytes d, h := fun m => mapSet Quad.reset m q { y with hold := y.hold ||| bit } }
      fun t => t.gIs s d (licenceWord (s.setQuad q { y with hold := y.hold ||| bit }) q)) ∧
    (Plain s (.mlicAcq d) → licenceReady s q = false → ∃ t, exec (.mlicAcq d) s = .next t ∧
      (t.slot s.hereCore s.hereSlot).asleep.isSome ∧ pcImage t s.hereCore s.hereBlock =
        pcImage s s.hereCore s.hereBlock ∧ t.mem = s.mem)

/-! ### Memory -/

/-- R164, R165: the check of an address.

R163, R166, R168: a scalar load from GL or a peer's WM is outstanding; one from the core's own memories gives its
value at once, over which the slot's buffered stores lie. The value is extended from the loaded width.

R303: a load that gives its value at once from WM is satisfied behind the thread's earlier reads; one from WB, AB or CB
stands in no such order.

Model's reading, log 64: it waits while one of those cannot be made; log 31: a trap comes before a stall. -/
def Obligations.ScalarLoads : Prop :=
  (∀ (sp : Space) (a : Word) (n : Nat),
    (a.toNat % n ≠ 0 → addrFault sp a n = some 0x40) ∧
    (a.toNat % n = 0 → sp = .gl →
      addrFault sp a n = if 2 ^ 57 ≤ a.toNat then some 0x42 else none) ∧
    (a.toNat % n = 0 → sp = .wm →
      addrFault sp a n = if 2 ^ 19 ≤ a.toNat then some 0x41 else none) ∧
    (a.toNat % n = 0 → sp = .cb →
      addrFault sp a n = if 2 ^ 16 ≤ a.toNat then some 0x41 else none) ∧
    (a.toNat % n = 0 → sp = .wb ∨ sp = .ab →
      addrFault sp a n = if 2 ^ 17 ≤ a.toNat then some 0x41 else none)) ∧
  (∀ (s : State) (d a : Reg) (sx : BitVec 3) (o : BitVec 9), s.Inv →
    ∀ p ∈ [(Instr.ldB d a sx o, 1, true), (.ldBu d a sx o, 1, false), (.ldH d a sx o, 2, true),
        (.ldHu d a sx o, 2, false), (.ldW d a sx o, 4, true), (.ldWu d a sx o, 4, false),
        (.ldD d a sx o, 8, false)], Issues s p.1 1 [] [] →
      let n := p.2.1
      let sp := spaceCode sx
      let x := s.g a + o.signExtend 64 * BitVec.ofNat 64 n
      let b := BitVec.ofNat (8 * n) (ofBytes (s.ownBytes sp x.toNat n))
      (∀ c, addrFault sp x n = some c → Traps s p.1 c x 0) ∧
      (addrFault sp x n = none → s.remote sp x.toNat = true →
        Starts s p.1 (.g d) (.load sp [⟨x.toNat, n, 0⟩] (if p.2.2 then 8 * n else 0)
          (BitVec.allOnes 128))) ∧
      (addrFault sp x n = none → s.remote sp x.toNat = false →
        (s.busy [(sp, x.toNat, n)] = true → Stalls s p.1) ∧
        (s.busy [(sp, x.toNat, n)] = false → LoadsIn sp s p.1 { l := gBytes d }
          fun u => u.gIs s d (if p.2.2 then b.signExtend 64 else b.setWidth 64))))

/-- R169, R170, R53: vector loads. The lanes that a mask leaves out give zero, and a zero mask makes no access; a
destination t0 to t3 traps 0x63.

R171: a gather reads each lane at its own address; a null lane gives zero and makes no access.

Model's reading: log 31 the order of traps, which come before a stall; log 64 that a load from WM waits for earlier
reads that cannot be made. -/
def Obligations.VectorLoadsAndGathers : Prop :=
  (∀ (s : State) (d a : Reg) (sx m : BitVec 3) (o : BitVec 9) (o6 : BitVec 6), s.Inv →
    let sp := spaceCode sx
    ∀ p ∈ [(Instr.vld d a sx o, s.g a + o.signExtend 64 * 16, BitVec.allOnes 16),
        (.vldm d a sx m o6, s.g a + o6.signExtend 64 * 16, s.m (m.setWidth 5))],
      Issues s p.1 1 [] [] →
      let x := p.2.1
      (24 ≤ d.toNat → Traps s p.1 0x63 (BitVec.ofNat 64 (loneWord p.1).toNat) (BitVec.ofNat 32 d.toNat)) ∧
      (d.toNat < 24 →
        (∀ c, addrFault sp x 16 = some c → Traps s p.1 c x 0) ∧
        (addrFault sp x 16 = none → p.2.2 = 0 →
          Does s p.1 { l := vBytes d } fun t => vReg t s.hereCore s.hereBlock d = 0) ∧
        (addrFault sp x 16 = none → p.2.2 ≠ 0 → s.remote sp x.toNat = true → ∃ keep,
          (∀ k, k < 128 → keep.getLsbD k = p.2.2.getLsbD (k / 8)) ∧
          Starts s p.1 (.v d) (.load sp [⟨x.toNat, 16, 0⟩] 0 keep)) ∧
        (addrFault sp x 16 = none → p.2.2 ≠ 0 → s.remote sp x.toNat = false →
          (s.busy [(sp, x.toNat, 16)] = true → Stalls s p.1) ∧
          (s.busy [(sp, x.toNat, 16)] = false → LoadsIn sp s p.1 { l := vBytes d }
            fun u => ∀ k, k < 16 → (vReg u s.hereCore s.hereBlock d).extractLsb' (8 * k) 8 =
              if p.2.2.getLsbD k then (s.ownBytes sp x.toNat 16).getD k 0 else 0)))) ∧
  (∀ (s : State) (d a b : Reg) (z : BitVec 2) (sx : BitVec 3) (vals : List (Nat × Vec))
      (pops : List Eff), s.Inv → Issues s (.vgat d a b z sx) 1 vals pops →
    let i := Instr.vgat d a b z sx
    let sp := spaceCode sx
    let w := 2 ^ z.toNat
    let as := s.lanesOf vals a b w
    let at_ := as.zipIdx.filterMap fun x => x.1.map fun y => (⟨y.toNat, w, w * x.2⟩ : Lane)
    (24 ≤ d.toNat → Traps s i 0x63 (BitVec.ofNat 64 (loneWord i).toNat) (BitVec.ofNat 32 d.toNat)) ∧
    (d.toNat < 24 →
      (∀ c x k, laneFault sp w 0 as = some (c, x, k) → Traps s i c x (BitVec.ofNat 32 k)) ∧
      (laneFault sp w 0 as = none → (sp = .gl ∨ ∃ x ∈ at_, s.remote sp x.addr = true) →
        Starts s i (.v d) (.load sp at_ 0 (BitVec.allOnes 128)) pops) ∧
      (laneFault sp w 0 as = none → sp ≠ .gl → (∀ x ∈ at_, s.remote sp x.addr = false) →
        (s.busy (at_.map fun x => (sp, x.addr, w)) = true → Stalls s i) ∧
        (s.busy (at_.map fun x => (sp, x.addr, w)) = false →
          LoadsIn sp s i { l := vBytes d, f := fun x => x.pops pops }
            fun u => ∀ k, k < 16 / w →
              ((vReg u s.hereCore s.hereBlock d).extractLsb' (8 * w * k) (8 * w)).toNat =
                match as.getD k none with
                | none => 0
                | some y => ofBytes (s.ownBytes sp y.toNat w)))))

/-- R168, R169, R170, R171, R172: scalar and vector stores and scatters; `pref` changes nothing. The lanes of a scatter
are stored in ascending order, null lanes not at all.

Model's reading, log 31: the order of issue traps, which come before a stall. -/
def Obligations.MemoryStores : Prop :=
  ∀ (s : State) (d a b : Reg) (sx m : BitVec 3) (z : BitVec 2) (o : BitVec 9) (o6 : BitVec 6)
      (vals : List (Nat × Vec)) (pops : List Eff), s.Inv →
    let sp := spaceCode sx
    (∀ p ∈ [(Instr.stB d a sx o, 1), (.stH d a sx o, 2), (.stW d a sx o, 4), (.stD d a sx o, 8)],
      Plain s p.1 →
      let x := s.g a + o.signExtend 64 * BitVec.ofNat 64 p.2
      let l := [(x.toNat, (wordBytes (s.g d)).take p.2)]
      (∀ c, addrFault sp x p.2 = some c → Traps s p.1 c x 0) ∧
      (addrFault sp x p.2 = none → Stores s p.1 sp (.store sp l) l [])) ∧
    (Issues s (.vst d a sx o) 0 vals pops →
      let x := s.g a + o.signExtend 64 * 16
      let l := [(x.toNat, vecBytes (s.vIn vals d))]
      (∀ c, addrFault sp x 16 = some c → Traps s (.vst d a sx o) c x 0) ∧
      (addrFault sp x 16 = none → Stores s (.vst d a sx o) sp (.store sp l) l pops)) ∧
    (Issues s (.vstm d a sx m o6) 0 vals pops →
      let x := s.g a + o6.signExtend 64 * 16
      let k := s.m (m.setWidth 5)
      (∀ c, addrFault sp x 16 = some c → Traps s (.vstm d a sx m o6) c x 0) ∧
      (addrFault sp x 16 = none → k = 0 →
        Does s (.vstm d a sx m o6) { f := fun y => y.pops pops } fun _ => True) ∧
      (addrFault sp x 16 = none → k ≠ 0 →
        Stores s (.vstm d a sx m o6) sp (.masked sp x.toNat (s.vIn vals d) k)
          (maskedParts x.toNat (s.vIn vals d) k) pops)) ∧
    (Issues s (.vsca d a b z sx) 0 vals pops →
      let w := 2 ^ z.toNat
      let as := s.lanesOf vals a b w
      let l := (as.zip (lanes w (s.vIn vals d))).map fun y =>
        ((y.1.map BitVec.toNat).getD 0, if y.1.isSome then toBytes w y.2 else [])
      (∀ c x k, laneFault sp w 0 as = some (c, x, k) →
        Traps s (.vsca d a b z sx) c x (BitVec.ofNat 32 k)) ∧
      (laneFault sp w 0 as = none → Stores s (.vsca d a b z sx) sp (.store sp l) l pops)) ∧
    (Plain s (.pref a sx o) → Does s (.pref a sx o) {} fun _ => True)

/-- R174, R176, R179, R180: full/empty operations and atomics. The loads among them and the atomics are outstanding operations,
the stores among them entries of the store buffer; a full/empty load waits while the buffer holds an entry for its
word.

Model's reading, log 31: a trap comes before a stall. -/
def Obligations.FullEmptyAndAtomics : Prop :=
  ∀ (s : State) (d a b c : Reg) (sx : BitVec 3) (o : BitVec 9) (s2 : BitVec 2) (s1 z : BitVec 1)
      (op : BitVec 4), s.Inv →
    let sp := spaceCode sx
    let x := s.g a + o.signExtend 64 * 8
    (∀ p ∈ [(Instr.ldfe d a sx o, FeKind.ldfe), (.ldfx d a sx o, .ldfx), (.fepoll d a sx o, .fepoll)],
      Issues s p.1 1 [] [] →
      (∀ e, addrFault sp x 8 = some e → Traps s p.1 e x 0) ∧
      (addrFault sp x 8 = none →
        ((s.env p.1 []).wordBuffered sp x.toNat = true → Stalls s p.1) ∧
        ((s.env p.1 []).wordBuffered sp x.toNat = false →
          Starts s p.1 (.g d) (.fe p.2 sp x.toNat 0)))) ∧
    (∀ p ∈ [(Instr.stfe d a sx o, 1, SbKind.stfe sp x.toNat (s.g d)),
        (.stff d a sx o, 0, .stff sp x.toNat (s.g d)), (.fesetE a sx o, 0, .feset sp x.toNat false),
        (.fesetF a sx o, 0, .feset sp x.toNat true)], Issues s p.1 p.2.1 [] [] →
      (∀ e, addrFault sp x 8 = some e → Traps s p.1 e x 0) ∧
      (addrFault sp x 8 = none →
        (s.here.sb.length < 8 → Buffers s p.1 p.2.2) ∧ (8 ≤ s.here.sb.length → Stalls s p.1))) ∧
    (∀ p ∈ [(Instr.amo d a b s2 z op, spaceCode (s2.setWidth 3),
          OpKind.amo op (spaceCode (s2.setWidth 3)) (s.g a).toNat (z == 1) (s.g b)),
        (.cas d a b c s1 z, spaceCode (s1.setWidth 3),
          .cas (spaceCode (s1.setWidth 3)) (s.g a).toNat (z == 1) (s.g b) (s.g c))],
      Issues s p.1 1 [] [] →
      (∀ e, addrFault p.2.1 (s.g a) (if z = 1 then 8 else 4) = some e → Traps s p.1 e (s.g a) 0) ∧
      (addrFault p.2.1 (s.g a) (if z = 1 then 8 else 4) = none → Starts s p.1 (.g d) p.2.2))

/-! ### Synchronisation, channels, streams and engines -/

/-- R182, R183: a fence at lane level has no effect; at another scope it places a marker, parks, or both; a register that
names no scope traps 0x60.

R185, R186: an arrival at a barrier is an outstanding operation, at lane level done at once; `bar` parks for it. A count
of zero or above 32 bits traps 0x62.

Model's reading, log 31: a trap comes before a stall. -/
def Obligations.FencesAndBarriers : Prop :=
  (∀ (s : State) (a : Reg) (v : BitVec 3) (r : BitVec 1), s.Inv →
    ∀ p ∈ [(Instr.fenceAcq a v r, false, fun (x : Slot) (_ : ScopeName) => x.parksMarker s),
        (.fenceRel a v r, true, fun x _ => x), (.fenceAr a v r, true, fun x _ => x.parksMarker s),
        (.fenceSc a v r, false, fun x n => x.parkedAt s (.fenceSc n))], Plain s p.1 →
      (s.scopeOf r v a = none → Traps s p.1 0x60 (s.g a) 0) ∧
      (∀ n, s.scopeOf r v a = some n →
        (n.isLane = true → Does s p.1 {} fun _ => True) ∧
        (n.isLane = false → p.2.1 = false → Does s p.1 { f := fun x => p.2.2 x n } fun _ => True) ∧
        (n.isLane = false → p.2.1 = true → s.here.sb.length < 8 → Does s p.1
          { f := fun x => p.2.2 (x.buffers (s.newEntry .marker)) n } fun _ => True) ∧
        (n.isLane = false → p.2.1 = true → 8 ≤ s.here.sb.length → Stalls s p.1))) ∧
  (∀ (s : State) (d a b : Reg) (v : BitVec 3) (r : BitVec 1) (n : BitVec 2), s.Inv →
    ∀ p ∈ [(Instr.bar d a b v r n, fun x : Slot => x.parkedAt s .marker), (.barnb d a b v r n, id)],
      Issues s p.1 1 [] [] →
      (s.scopeOf r v a = none → Traps s p.1 0x60 (s.g a) 0) ∧
      (∀ sc, s.scopeOf r v a = some sc →
        ((s.g b = 0 ∨ 2 ^ 32 ≤ (s.g b).toNat) → Traps s p.1 0x62 (s.g b) 0) ∧
        (s.g b ≠ 0 → (s.g b).toNat < 2 ^ 32 → Does s p.1
          { f := fun x => p.2 (x.starts (s.newOp (.g d)
              (.barrier { pid := s.pidOf s.hereCore, scope := sc, regForm := r == 1, num := n }
                (s.g b).toNat) (if sc.isLane then .done 0 else .sent))) } fun _ => True)))

/-- R188, R189: `send` queues a message, at most four; `recv` takes the oldest message of its port, or waits for one behind
the core's earlier receives; `rprobe` counts.

Model's reading, log 31: a trap comes before a stall. -/
def Obligations.Channels : Prop :=
  ∀ (s : State) (d a b : Reg) (n : BitVec 6) (vals : List (Nat × Vec)) (pops : List Eff), s.Inv →
    (Issues s (.send a b n) 0 vals pops →
      (2 ^ 12 ≤ (s.g a).toNat → Traps s (.send a b n) 0x61 (s.g a) 0) ∧
      ((s.g a).toNat < 2 ^ 12 → 4 ≤ s.here.outq.length → Stalls s (.send a b n)) ∧
      ((s.g a).toNat < 2 ^ 12 → s.here.outq.length < 4 → Does s (.send a b n)
        { f := fun x => Slot.pops { x with outq := x.outq ++
            [{ dest := (s.g a).toNat, seq := x.seq, tid := x.tid, held := false,
               msg := { pid := s.pidOf s.hereCore, port := n, data := s.vIn vals b, launch := s.here.launch } }] } pops }
        fun _ => True)) ∧
    (Issues s (.recv d n) 1 [] [] →
      (24 ≤ d.toNat → Traps s (.recv d n) 0x63 (BitVec.ofNat 64 (loneWord (.recv d n)).toNat)
        (BitVec.ofNat 32 d.toNat)) ∧
      (d.toNat < 24 → s.hereOf.recvs = [] → (∀ o ∈ s.here.async, o.seq ≠ s.here.seq) →
        (takeMsg (s.pidOf s.hereCore) n s.hereOf.rx = none → Does s (.recv d n)
          { f := fun x => x.starts (s.newOp (.v d) (.recv n)),
            g := fun x => { x with recvs := [(s.hereSlot, s.here.seq)] } } fun _ => True) ∧
        (∀ m rest, takeMsg (s.pidOf s.hereCore) n s.hereOf.rx = some (m, rest) → Does s (.recv d n)
          { f := fun x => x.starts (s.newOp (.v d) (.recv n) (.done m.data)),
            g := fun x => { x with rx := rest, recvs := [] } } fun _ => True)) ∧
      (d.toNat < 24 → Then s (.recv d n) { f := fun x => x.starts (s.newOp (.v d) (.recv n)) }
        (fun _ => True) fun u v => v = ((Run.start (u.setCore s.hereCore { u.core s.hereCore with
          recvs := (u.core s.hereCore).recvs ++ [(s.hereSlot, s.here.seq)] })).serveRecvs
            s.hereCore).s)) ∧
    (Plain s (.rprobe d n) → SetsG s (.rprobe d n) d (BitVec.ofNat 64
      (s.hereOf.rx.filter fun m => m.pid == s.pidOf s.hereCore && m.port == n).length))

/-- R191, R192, R242: `sbind` binds a stream port to the window of a record that passes its checks, `sclose` closes the port;
`tlrchk` gives 0, or the failure with bit 63 set. The record is read as ordinary loads (R332).

R193, R194, R195: `twput` writes an entry of the twin's window and sets it full, `twget` reads one of the own window and,
with FE, sets it empty; with FE each sleeps until the tag allows it, up to the wait limit. `twtest` reads the tags.

Model's reading: log 31 the order of traps and stalls at a port; log 64 that a record waits for earlier reads that cannot
be made; log 66 that `twput` waits for a buffered marker, and what `twtest.twin` does while the twin's context is
pre-empted. -/
def Obligations.StreamsAndTwins : Prop :=
  (∀ (s : State) (d a b : Reg), s.Inv →
    let x := s.g a
    let rec_ := checkTlr s.hereOf (readRecord s s.hereCore s.here x.toNat) true
    (Plain s (.sbind d a) →
      (∀ c, localCheck s.hereCore x 8 96 = some c → Traps s (.sbind d a) c x 0) ∧
      (localCheck s.hereCore x 8 96 = none →
        (∀ e, rec_ = .error e → isTrapN e.cause = false → TrapsAfterLoads s (.sbind d a) e.cause e.aux e.aux2) ∧
        (∀ t, rec_ = .ok t →
          let b (n : Nat) : Stream := ⟨t.dws, ((t.count * t.elem.cont + 7) / 8 + 15) / 16, 0, 0, [], n, 0⟩
          (s.readsHeld = true → Stalls s (.sbind d a)) ∧
          (s.readsHeld = false → Then s (.sbind d a) {} (fun _ => True) fun u v => ∃ w, Satisfied s u w ∧
            let y := w.slot s.hereCore s.hereSlot
            v = w.setSlot s.hereCore s.hereSlot { y with
              streams := mapPut y.streams (d.toNat - 24) (b s.here.seq) })))) ∧
    (Plain s (.sclose d) → Does s (.sclose d)
      { f := fun y => { y with streams := mapDel y.streams (d.toNat - 24) } } fun _ => True) ∧
    (Plain s (.tlrchk a b) →
      (∀ c, localCheck s.hereCore x 8 96 = some c → Traps s (.tlrchk a b) c x 0) ∧
      (localCheck s.hereCore x 8 96 = none →
        (∀ t, rec_ = .ok t → Loads s (.tlrchk a b) { l := gBytes b } fun u => u.gIs s b 0) ∧
        (∀ e, rec_ = .error e → Loads s (.tlrchk a b) { l := gBytes b } fun u => u.gIs s b
          (BitVec.ofNat 64 (2 ^ 63 + e.bit * 2 ^ 16 + e.cause.toNat * 2 ^ 8 + e.dword)))))) ∧
  (∀ (s : State) (d : Reg) (fe w : BitVec 1) (k : BitVec 4) (vals : List (Nat × Vec)) (pops : List Eff),
    s.Inv →
    let t := twinOf s.hereCore
    let reach := peerReach s s.hereCore t
    (Issues s (.twput d fe k) 0 vals pops → let i := Instr.twput d fe k
      let word := BitVec.ofNat 64 (loneWord i).toNat
      (reach = none → Traps s i 0x43 (BitVec.ofNat 64 t) 0) ∧ (reach = some false → Stalls s i) ∧
      (reach = some true → (∃ e ∈ s.here.sb, e.kind = .marker) → Stalls s i) ∧
      (reach = some true → (∀ e ∈ s.here.sb, e.kind ≠ .marker) →
        (fe = 1 → (s.core t).twinFull.getLsbD k.toNat = true → Sleeps s i 0 word) ∧
        (fe = 0 ∨ (s.core t).twinFull.getLsbD k.toNat = false →
          Then s i { f := fun x => x.pops pops } (fun _ => True) fun u v =>
            v = u.setCore t { u.core t with
              twin := mapSet 0 (u.core t).twin k.toNat (s.vIn vals d),
              twinFull := (u.core t).twinFull ||| BitVec.ofNat 16 (2 ^ k.toNat) }))) ∧
    (Plain s (.twget d fe k) → let i := Instr.twget d fe k
      let word := BitVec.ofNat 64 (loneWord i).toNat
      (24 ≤ d.toNat → Traps s i 0x63 word (BitVec.ofNat 32 d.toNat)) ∧
      (d.toNat < 24 →
        (fe = 1 → s.hereOf.twinFull.getLsbD k.toNat = false → Sleeps s i 0 word ∧
          ∀ x, s.here.asleep = some x → x.kind = 0 → x.addr = word →
            wlimOf s s.hereCore s.hereBlock ≠ 0 →
            wlimOf s s.hereCore s.hereBlock < s.hereOf.cycle.toNat - x.cycle →
            Traps s i 0x64 word (BitVec.ofNat 32 (wlimOf s s.hereCore s.hereBlock))) ∧
        (fe = 0 ∨ s.hereOf.twinFull.getLsbD k.toNat = true → Does s i
          { l := vBytes d, g := fun x => if fe = 1 then { x with
              twinFull := x.twinFull &&& ~~~ BitVec.ofNat 16 (2 ^ k.toNat) } else x }
          fun u => vReg u s.hereCore s.hereBlock d = mapGet 0 s.hereOf.twin k.toNat))) ∧
    (Plain s (.twtest d w) →
      (w = 0 → SetsG s (.twtest d w) d (s.hereOf.twinFull.setWidth 64)) ∧
      (w = 1 → reach = some true → SetsG s (.twtest d w) d ((s.core t).twinFull.setWidth 64)) ∧
      (w = 1 → reach = some false → (s.core t).ctx ≠ none → s.pidOf t = s.pidOf s.hereCore →
        SetsG s (.twtest d w) d ((s.core t).twinFull.setWidth 64)) ∧
      (w = 1 → reach = some false → (s.core t).ctx = none ∨ s.pidOf t ≠ s.pidOf s.hereCore →
        Traps s (.twtest d w) 0x43 (BitVec.ofNat 64 t) 0) ∧
      (w = 1 → reach = none → Traps s (.twtest d w) 0x43 (BitVec.ofNat 64 t) 0)))

/-- R235, R236: an engine instruction of the X format pushes one header to its engine's port, where acceptance lets it through
or traps it; a register that names no local WM address traps 0x41. `xwait` starts a wait on a barrier object and
parks, `xwait.poll` starts one read of it.

R253, R258 to R266: a layer instruction is sent to the Lehr with its operands, and counts as outstanding until it is
performed. Without a scene it traps 0x92, with an id of 4,096 or more 0x90, with a misaligned address 0x40.

Model's reading: log 31 the order of issue traps, which come before a stall; log 64 that a record waits for earlier
reads that cannot be made. -/
def Obligations.EngineAndLayerWords : Prop :=
  (∀ (s : State) (d a b c : Reg) (fe : BitVec 1) (q : BitVec 3), s.Inv →
    (∀ p ∈ [(Instr.xcopy a b c fe q, 0, fe.toNat * 64 + q.toNat * 8),
        (.xcopyFill a b c fe q, 0, fe.toNat * 64 + q.toNat * 8 + 1), (.xgat a b c, 1, 0),
        (.xgatSca a b c, 1, 1), (.xgatScadd a b c, 1, 2), (.xform a b c, 2, 0),
        (.xformRans a b c, 2, 1), (.xcoll a b c, 3, 0), (.xcollBcast a b c, 3, 1)], Plain s p.1 →
      let e := p.2.1
      let h : Vec := BitVec.ofNat 128 (p.2.2 + (s.g a).toNat * 2 ^ 24 + (s.g b).toNat * 2 ^ 43
        + (s.g c).toNat * 2 ^ 64)
      (2 ^ 19 ≤ (s.g a).toNat → Traps s p.1 0x41 (s.g a) 0) ∧
      ((s.g a).toNat < 2 ^ 19 → 2 ^ 19 ≤ (s.g b).toNat → Traps s p.1 0x41 (s.g b) 0) ∧
      ((s.g a).toNat < 2 ^ 19 → (s.g b).toNat < 2 ^ 19 →
        Delivers s p.1 [] [] (BitVec.ofNat 5 (28 + e)) h 0 none)) ∧
    (∀ p ∈ [(Instr.xwait d a, false, fun x : Slot => x.parkedAt s .marker), (.xwaitPoll d a, true, id)],
      Issues s p.1 1 [] [] →
      (∀ e, addrFault .wm (s.g a) 8 = some e → Traps s p.1 e (s.g a) 0) ∧
      (addrFault .wm (s.g a) 8 = none → Does s p.1
        { f := fun x => p.2.2 (x.starts (s.newOp (.g d)
            (.xwait (s.g a).toNat ((s.g d).toNat % 2 ^ 63) p.2.1))) } fun _ => True))) ∧
  (∀ (s : State) (a b c : Reg), s.Inv →
    let x := s.g a
    let y := s.g b
    let z := s.g c
    let scene := (s.ctxOf s.hereCore).bind Context.scene
    ∀ p ∈ [(Instr.lnew a b c, (0x3D, 0), Dst.g b, (x, (0 : Word), z), ([] : List Word), [(x, 8)]),
        (.lfree a, (0x3E, 0), .none, (x, 0, 0), [x], []),
        (.lpose a b, (0x3F, 0), .none, (x, y, 0), [x], [(y, 8)]),
        (.lcommit a b, (0x40, 0), .none, (x, y, 0), [x], [(y, 8)]),
        (.lsplit a b c, (0x41, 0), .g b, (x, y, z), [x], [(y, 8), (z, 8)]),
        (.lmerge a b c, (0x42, 0), .none, (x, y, z), [x, y], [(z, 8)]),
        (.lerr a b, (0x43, 0), .g b, (x, 0, 0), [x], []),
        (.lerrHdr a b, (0x43, 1), .g b, (x, 0, 0), [x], []),
        (.lprice a b, (0x44, 0), .none, (x, y, 0), [x], []),
        (.lorder a b, (0x45, 0), .none, (x, y, 0), [x], []),
        (.llight a b c, (0x46, 0), .none, (x, y, z), [x], []),
        (.llightBump a, (0x46, 1), .none, (x, 0, 0), [], []),
        (.lshadow a b, (0x47, 0), .none, (x, y, 0), [x], []),
        (.lreqTmpl a b, (0x48, 0), .none, (x, y, 0), [x], [(y, 64)]),
        (.lreqNow a, (0x48, 1), .none, (x, 0, 0), [x], []),
        (.lreqClr a, (0x48, 2), .none, (x, 0, 0), [x], [])], Issues s p.1 1 [] [] →
      let ids := p.2.2.2.2.1
      let addrs := p.2.2.2.2.2
      (scene = none → Traps s p.1 0x92 (BitVec.ofNat 64 (loneWord p.1).toNat) 0) ∧
      (scene ≠ none → p.1 = .llightBump a → 63 < x.toNat → Traps s p.1 0x90 x 2) ∧
      (scene ≠ none → p.1 = .lshadow a b → x.toNat < 2 ^ 12 → 2 ^ 52 ≤ y.toNat → Traps s p.1 0x94 y 4) ∧
      (∀ e, scene ≠ none → ids.find? (fun e => decide (2 ^ 12 ≤ e.toNat)) = some e →
        Traps s p.1 0x90 e 0) ∧
      (∀ e, scene ≠ none → (∀ k ∈ ids, k.toNat < 2 ^ 12) →
        addrs.find? (fun e => e.1.toNat % e.2 != 0) = some e → Traps s p.1 0x40 e.1 0) ∧
      (scene ≠ none → (∀ k ∈ ids, k.toNat < 2 ^ 12) → (∀ e ∈ addrs, e.1.toNat % e.2 = 0) →
        (p.1 = .llightBump a → x.toNat ≤ 63) → (p.1 = .lshadow a b → y.toNat < 2 ^ 52) →
        Starts s p.1 p.2.2.1 (.layer (LayerOp.mk p.2.1.1 p.2.1.2 p.2.2.2.1.1 p.2.2.2.1.2.1
          p.2.2.2.1.2.2 (loneWord p.1)))))

/-! ### Vectors -/

/-- R135, R138, R140, R141: integer arithmetic, element by element: exact, then saturated or wrapped; a shift takes its
count modulo the width.

Model's reading, log 64: a header that a result pushes waits for earlier reads that cannot be made. -/
def Obligations.VectorIntegers : Prop :=
  ∀ (s : State) (d a b : Reg) (sx : BitVec 1) (r t : BitVec 3) (vals : List (Nat × Vec))
      (pops : List Eff), s.Inv → t.toNat < 4 →
    let w := typeWidth t
    let sg := ! r.getLsbD 0
    let x (k : Nat) := asInt sg w (laneOf w (s.vIn vals a) k)
    let y (k : Nat) := asInt sg w (laneOf w (s.vIn vals b) k)
    let z (k : Nat) := asInt sg w (laneOf w (s.vIn vals d) k)
    let n (k : Nat) := laneOf w (s.vIn vals b) k % (8 * w)
    (∀ p ∈ [(Instr.vadd d a b sx r t, fun k => fit (sx == 1) sg w (x k + y k)),
        (.vsub d a b sx r t, fun k => fit (sx == 1) sg w (x k - y k)),
        (.vmul d a b sx r t, fun k => fit (sx == 1) sg w (x k * y k)),
        (.vmulh d a b sx r t, fun k => fit false sg w (x k * y k / 2 ^ (8 * w))),
        (.vfma d a b sx r t, fun k => fit (sx == 1) sg w (x k * y k + z k)),
        (.vfms d a b sx r t, fun k => fit (sx == 1) sg w (x k * y k - z k)),
        (.vfnma d a b sx r t, fun k => fit (sx == 1) sg w (z k - x k * y k)),
        (.vshl d a b sx r t, fun k => fit (sx == 1) sg w (x k * 2 ^ n k)),
        (.vshr d a b sx r t, fun k => laneOf w (s.vIn vals a) k / 2 ^ n k),
        (.vsra d a b sx r t, fun k =>
          fit false true w (asInt true w (laneOf w (s.vIn vals a) k) / 2 ^ n k))],
      Issues s p.1 0 vals pops → DeliversLanes s p.1 vals pops d w p.2)

/-- R88, R139: minimum and maximum, magnitude and negation of every type; magnitude and negation of floats touch the sign
bit alone. `vminn` and `vmaxn` have no integer form.

Model's reading, log 31: the flags of a result are trapped before the 0x63 of its destination; log 64: a header that a
result pushes waits for earlier reads that cannot be made. -/
def Obligations.VectorMinMaxAbs : Prop :=
  (∀ (f : Fmt) (most numbers : Bool) (x y : Nat),
    let a := f.decode x
    let b := f.decode y
    let z := chooseFloat f most numbers x y
    let nv := if a.signals ∨ b.signals then 16 else 0
    (a.isNan = true → b.isNan = true ∨ numbers = false → z = (f.nan, nv)) ∧
    (b.isNan = true → a.isNan = true ∨ numbers = false → z = (f.nan, nv)) ∧
    (numbers = true → a.isNan = true → b.isNan = false → z = (y, nv)) ∧
    (numbers = true → a.isNan = false → b.isNan = true → z = (x, nv)) ∧
    (∀ n m u v, a = .fin n 0 u → b = .fin m 0 v → z = (f.zero (if most then n && m else n || m), 0)) ∧
    (∀ n, b.isNan = false → (a.isZero && b.isZero) = false → a = .inf n → z = (if n == most ∧ b ≠ .inf n then y else x, 0)) ∧
    (∀ n, a.isNan = false → a.isInf = false → b = .inf n → z = (if n == most then x else y, 0)) ∧
    (∀ n m u n2 m2 u2 e, a = .fin n m u → b = .fin n2 m2 u2 → m ≠ 0 ∨ m2 ≠ 0 → e ≤ u → e ≤ u2 →
      let va : Int := (if n then -1 else 1) * ((m * 2 ^ (u - e).toNat : Nat) : Int)
      let vb : Int := (if n2 then -1 else 1) * ((m2 * 2 ^ (u2 - e).toNat : Nat) : Int)
      z = (if (most = true ∧ va < vb) ∨ (most = false ∧ vb < va) then y else x, 0))) ∧
  ∀ (s : State) (d a b : Reg) (sx : BitVec 1) (r t : BitVec 3) (vals : List (Nat × Vec))
      (pops : List Eff), s.Inv →
    let w := typeWidth t
    let uns := r.getLsbD 0
    let xa (k : Nat) := laneOf w (s.vIn vals a) k
    let xb (k : Nat) := laneOf w (s.vIn vals b) k
    let lo (k : Nat) := if asInt (! uns) w (xb k) < asInt (! uns) w (xa k) then xb k else xa k
    let hi (k : Nat) := if asInt (! uns) w (xa k) < asInt (! uns) w (xb k) then xb k else xa k
    (∀ p ∈ [(Instr.vmin d a b sx r t, lo), (.vmax d a b sx r t, hi)], Issues s p.1 0 vals pops → t.toNat < 4 →
      DeliversLanes s p.1 vals pops d w p.2) ∧
    (∀ i ∈ [Instr.vminn d a b sx r t, .vmaxn d a b sx r t], t.toNat < 4 → wellFormed i = false) ∧
    (∀ p ∈ [(Instr.vmin d a b sx r t, false, false), (.vmax d a b sx r t, true, false),
        (.vminn d a b sx r t, false, true), (.vmaxn d a b sx r t, true, true)],
      Issues s p.1 0 vals pops → 4 ≤ t.toNat → DeliversFlagged s p.1 vals pops d w
        ((List.range (16 / w)).map fun k => chooseFloat (typeFmt t) p.2.1 p.2.2 (xa k) (xb k)) none) ∧
    (Issues s (.vabs d a sx r t) 0 vals pops → DeliversLanes s (.vabs d a sx r t) vals pops d w fun k =>
      if 4 ≤ t.toNat then xa k % 2 ^ (8 * w - 1) else if uns then xa k
      else fit (sx == 1) true w (asInt true w (xa k)).natAbs) ∧
    (Issues s (.vneg d a sx r t) 0 vals pops → DeliversLanes s (.vneg d a sx r t) vals pops d w fun k =>
      if 4 ≤ t.toNat then (xa k + 2 ^ (8 * w - 1)) % 2 ^ (8 * w)
      else fit (sx == 1) (! uns) w (- asInt (! uns) w (xa k)))

/-- R137, R138, R140, R142: float arithmetic, element by element: the exact result rounded once under the mode of R, its
flags recorded or trapped.

Model's reading: log 11 and 12 stochastic rounding at the range's end, and the special functions; log 31 that a result's
0x02 and flags are trapped before the 0x63 of its destination; log 64 that a header that a result pushes waits for earlier
reads that cannot be made. -/
def Obligations.VectorFloats : Prop :=
  (∀ (mode : Nat) (l : List Machine.Num),
    let z := sumNums mode l
    let units (x : Machine.Num) (e : Int) : Int := match x with
      | .fin n m u => (if n then -1 else 1) * ((m * 2 ^ (u - e).toNat : Nat) : Int)
      | _ => 0
    (l.any Machine.Num.isNan = true → z = (.nan false, if l.any Machine.Num.signals then 16 else 0)) ∧
    (l.any Machine.Num.isNan = false → .inf true ∈ l → .inf false ∈ l → z = (.nan false, 16)) ∧
    (∀ n, l.any Machine.Num.isNan = false → .inf n ∈ l → .inf (! n) ∉ l → z = (.inf n, 0)) ∧
    (∀ e, (∀ x ∈ l, ∃ n m u, x = .fin n m u ∧ (m = 0 ∨ e ≤ u)) →
      let live := l.filter fun x => ! x.isZero
      let v := (live.map fun x => units x e).sum
      (v ≠ 0 → ∃ m u, z = (.fin (decide (v < 0)) m u, 0) ∧ e ≤ u ∧ m * 2 ^ (u - e).toNat = v.natAbs) ∧
      (v = 0 → z = (.fin (if live = [] ∧ l.all Machine.Num.neg then true else if live = [] ∧ l.any Machine.Num.neg = false then false
        else mode == 2) 0 0, 0)))) ∧
  (∀ a b : Machine.Num, let nv := if a.signals ∨ b.signals then 16 else 0
    let n := xor a.neg b.neg
    ((a.isNan || b.isNan) = true → mulNum a b = (.nan false, nv) ∧ divNum a b = (.nan false, nv)) ∧
    ((a.isNan || b.isNan) = false →
      (a.isInf = true → b.isZero = true → mulNum a b = (.nan false, 16) ∧ mulNum b a = (.nan false, 16)) ∧
      (a.isInf = true → b.isZero = false → mulNum a b = (.inf n, 0) ∧ mulNum b a = (.inf n, 0)) ∧
      (a.isInf = true → b.isInf = true → divNum a b = (.nan false, 16)) ∧
      (a.isInf = true → b.isInf = false → divNum a b = (.inf n, 0)) ∧
      (a.isInf = false → b.isInf = true → divNum a b = (.fin n 0 0, 0)) ∧
      (a.isZero = true → b.isZero = true → divNum a b = (.nan false, 16)) ∧
      (a.isInf = false → a.isZero = false → b.isZero = true → divNum a b = (.inf n, 8)))) ∧
  (∀ na ma ea nb mb eb, let a : Machine.Num := .fin na ma ea
    let b : Machine.Num := .fin nb mb eb
    mulNum a b = (.fin (xor na nb) (ma * mb) (ea + eb), 0) ∧
    (mb ≠ 0 → ∃ q k, 1280 ≤ k ∧ divNum a b = (.fin (xor na nb) q (ea - eb - (k : Nat) - 1), 0) ∧
      q / 2 = ma * 2 ^ k / mb ∧ (q % 2 = 0 ↔ ma * 2 ^ k % mb = 0)) ∧
    sqrtNum (.inf true) = (.nan false, 16) ∧ sqrtNum (.inf false) = (.inf false, 0) ∧
    (ma = 0 → sqrtNum a = (.fin na 0 0, 0)) ∧ (ma ≠ 0 → na = true → sqrtNum a = (.nan false, 16)) ∧
    (ma ≠ 0 → na = false → ∃ q u n, sqrtNum a = (.fin false q u, 0) ∧
      2 * (u + 1) ≤ ea ∧ n = ma * 2 ^ (ea - 2 * (u + 1)).toNat ∧ (q / 2) * (q / 2) ≤ n ∧ n < (q / 2 + 1) * (q / 2 + 1) ∧
      (q % 2 = 0 ↔ (q / 2) * (q / 2) = n))) ∧
  (∀ (f : Fmt) (mode r : Nat) (x : Machine.Num) (fl : Nat), let z := f.deliver mode r (x, fl)
    (x.isNan = true → z = (f.nan, fl)) ∧ (∀ n, x = .inf n → z = (f.inf n, fl)) ∧
    (∀ n m u, x = .fin n m u → z.1 = (f.round mode r n m u).1 ∧ z.2 = fl ||| (f.round mode r n m u).2)) ∧
  (∀ (f : Fmt) (mode r : Nat) (neg : Bool) (mag : Nat) (exp u : Int), f.floats → mag ≠ 0 → u ≤ exp →
    u ≤ 1 - f.bias - f.m →
    let x := mag * 2 ^ (exp - u).toNat
    let z := f.round mode r neg mag exp
    let at_ := f.unitsAt u
    let top := f.maxCode
    let q := at_ (top + 1) - at_ top
    let goes : Bool := match mode with | 1 => false | 2 => neg | 3 => ! neg | _ => true
    let beyond := (if goes then f.inf neg else f.largest neg, 4 + 1)
    (neg = false ∨ f.sign = 1 →
      (∀ c, c < top → (f.subn = true ∨ 2 ^ f.m ≤ c) → at_ c ≤ x → x < at_ (c + 1) →
        let whole := at_ (c + 1) - at_ c
        (x = at_ c → z = (f.signed neg c, 0)) ∧
        (x ≠ at_ c → ∃ uf, z = (f.signed neg (if away mode r neg (c % 2 == 1) (x - at_ c) whole then c + 1 else c), 1 + uf) ∧
          (c + 1 < 2 ^ f.m → uf = 2) ∧ (2 ^ f.m ≤ c → uf = 0) ∧
          (c + 1 = 2 ^ f.m → 0 < f.m → uf = if whole < 2 * (x - at_ c) ∧
            away mode r neg true (2 * (x - at_ c) - whole) whole = true then 0 else 2))) ∧
      (f.subn = false → x < at_ (2 ^ f.m) →
        z = if away mode r neg false x (at_ (2 ^ f.m)) then (f.signed neg (2 ^ f.m), 1) else (f.zero neg, 2 + 1)) ∧
      (at_ top ≤ x → x < at_ top + q →
        (x = at_ top → z = (f.signed neg top, 0)) ∧
        (x ≠ at_ top → z = if away mode r neg (top % 2 == 1) (x - at_ top) q then beyond else (f.signed neg top, 1))) ∧
      (mode ≠ 5 → at_ top + q ≤ x → z = beyond)) ∧
    (neg = true → f.sign = 0 → let y := ({ f with sign := 1 } : Fmt).round mode r true mag exp
      z = (0, if y.1 = 2 ^ (f.e + f.m) then y.2 else 16))) ∧
  (∀ (f : Fmt) (mode r : Nat) (neg : Bool) (exp : Int), 0 < f.e → f.sign = 1 →
    f.round mode r neg 0 exp = (if neg then 2 ^ (f.e + f.m) else 0, 0)) ∧
  (∀ (f : Fmt) (mode r : Nat) (neg : Bool) (mag : Nat) (exp u : Int), f.e = 0 → f.sign ≤ 1 → u ≤ exp → u ≤ - f.bias →
    neg = false ∨ f.sign = 1 →
    let x := mag * 2 ^ (exp - u).toNat
    let one := 2 ^ (- f.bias - u).toNat
    let rest := x % one
    let k := x / one + if rest ≠ 0 ∧ away mode r neg (x / one % 2 == 1) rest one = true then 1 else 0
    let limit := if neg then 2 ^ f.m else 2 ^ f.m - 1
    let code (k : Nat) := if neg then (2 ^ (f.m + 1) - k) % 2 ^ (f.m + 1) else k
    f.round mode r neg mag exp = if limit < k then (code limit, 4 + 1) else (code k, if rest = 0 then 0 else 1)) ∧
  (∀ (g : BitVec 32) (n : Nat), srgDraw g = (drawn g 0, generator g 1) ∧
    srgDraws g n = ((List.range n).map (drawn g), generator g n)) ∧
  (∀ (ff : BitVec 14) (fl : List Nat) (pre post : List (BitVec 8 × Nat)) (p : BitVec 8 × Nat), fl.length ≤ 16 →
    (∀ x ∈ fl, x < 32) → [(0x21#8, 4), (0x22, 3), (0x23, 2), (0x24, 1), (0x25, 0)] = pre ++ p :: post →
    let raised (p : BitVec 8 × Nat) : Bool := fl.any (fun x => x.testBit p.2) && ff.getLsbD (12 - p.2)
    (∀ x ∈ pre, raised x = false) → raised p = true → ∃ v : Word, flagTrap ff 0 fl = some (.trap p.1 v 0) ∧
      ∀ j, j < 64 → v.getLsbD j = if j < 5 then fl.any (fun x => x.testBit j)
        else if 16 ≤ j ∧ j < 32 then (fl.getD (j - 16) 0).testBit p.2 else false) ∧
  ∀ (s : State) (d a b : Reg) (sx : BitVec 1) (r t : BitVec 3) (vals : List (Nat × Vec))
      (pops : List Eff), s.Inv → 4 ≤ t.toNat →
    let w := typeWidth t
    let f := typeFmt t
    let x (k : Nat) := f.decode (laneOf w (s.vIn vals a) k)
    let y (k : Nat) := f.decode (laneOf w (s.vIn vals b) k)
    let z (k : Nat) := f.decode (laneOf w (s.vIn vals d) k)
    ∀ p ∈ [(Instr.vadd d a b sx r t, fun m k => sumNums m [x k, y k]),
        (.vsub d a b sx r t, fun m k => sumNums m [x k, (y k).negate]),
        (.vmul d a b sx r t, fun _ k => mulNum (x k) (y k)),
        (.vfma d a b sx r t, fun m k => fmaNum m (x k) (y k) (z k)),
        (.vfms d a b sx r t, fun m k => fmaNum m (x k) (y k) (z k).negate),
        (.vfnma d a b sx r t, fun m k => fmaNum m (x k).negate (y k) (z k)),
        (.vdiv d a b sx r t, fun _ k => divNum (x k) (y k)),
        (.vsqrt d a sx r t, fun _ k => sqrtNum (x k)), (.vrcp d a sx r t, fun _ k => rcpNum (x k)),
        (.vrsq d a sx r t, fun _ k => rsqNum (x k)), (.vexp2 d a sx r t, fun m k => exp2Num m (x k)),
        (.vlog2 d a sx r t, fun _ k => log2Num (x k)), (.vsin d a sx r t, fun _ k => sinNum (x k)),
        (.vcos d a sx r t, fun _ k => cosNum (x k))],
      Issues s p.1 0 vals pops →
        Rounds s p.1 vals pops d f r fun m => (List.range (16 / w)).map (p.2 m)

/-- R138, R145, R148: bitwise operations, selection by a mask, and moves of elements and bytes.

R146: mask logic, and masks into g registers.

Model's reading, log 64: a header that a result pushes waits for earlier reads that cannot be made. -/
def Obligations.VectorMovesAndMasks : Prop :=
  (∀ (s : State) (d a b c : Reg) (u h : BitVec 1) (t : BitVec 3) (vals : List (Nat × Vec))
      (pops : List Eff), s.Inv →
    let va := s.vIn vals a
    let vb := s.vIn vals b
    let w := typeWidth t
    let n := 16 / w
    (∀ p ∈ [(Instr.vand d a b, va &&& vb), (.vor d a b, va ||| vb), (.vxor d a b, va ^^^ vb),
        (.vnot d a, ~~~ va), (.vmov d a, va)], Issues s p.1 0 vals pops →
      Delivers s p.1 vals pops d p.2 0 none) ∧
    (∀ p ∈ [(Instr.vsel d a b c, 1, fun k => if (s.m c).getLsbD k then laneOf 1 va k else laneOf 1 vb k),
        (.vshuf d a b, 1, fun k => if 128 ≤ laneOf 1 vb k then 0 else laneOf 1 va (laneOf 1 vb k % 16)),
        (.vsplat d a u t, w, fun _ => (s.g a).toNat % 2 ^ (8 * w)),
        (.vins d a b u t, w, fun k => if k = (s.g b).toNat % n then (s.g a).toNat % 2 ^ (8 * w)
          else laneOf w (s.vIn vals d) k),
        (.vzip d a b h u t, w, fun k => laneOf w (if k % 2 = 0 then va else vb) (h.toNat * (n / 2) + k / 2)),
        (.vunzip d a b h u t, w, fun k => let j := 2 * k + h.toNat
          if j < n then laneOf w va j else laneOf w vb (j - n))],
      Issues s p.1 0 vals pops → DeliversLanes s p.1 vals pops d p.2.1 p.2.2) ∧
    (Issues s (.vext d a b u t) 0 vals pops →
      let x := laneOf w va ((s.g b).toNat % n)
      SetsG s (.vext d a b u t) d (if t.toNat < 4 ∧ u = 0 then (BitVec.ofNat (8 * w) x).signExtend 64
        else BitVec.ofNat 64 x) pops)) ∧
  (∀ (s : State) (d a b : Reg), s.Inv →
    (∀ p ∈ [(Instr.mand d a b, s.m a &&& s.m b), (.mandNot d a b, s.m a &&& ~~~ s.m b),
        (.mor d a b, s.m a ||| s.m b), (.morG d a b, (s.g a ||| s.g b).setWidth 16),
        (.mxor d a b, s.m a ^^^ s.m b), (.mnot d a, ~~~ s.m a)],
      Plain s p.1 → SetsM s p.1 d p.2) ∧
    (Plain s (.mcnt d a) → SetsG s (.mcnt d a) d
      (BitVec.ofNat 64 ((List.range 16).filter fun j => (s.m a).getLsbD j).length)) ∧
    (Plain s (.mcntRaw d a) → SetsG s (.mcntRaw d a) d ((s.m a).setWidth 64)) ∧
    (Plain s (.mfirst d a) → SetsG s (.mfirst d a) d
      (BitVec.ofNat 64 ((List.range 16).takeWhile fun j => ! (s.m a).getLsbD j).length)))

/-- R143, R144: comparison into a mask, every byte lane of an element holding its truth, and classification. Of floats, an
unordered pair is unequal and unordered and nothing else, and raises NV when the comparison orders or a NaN
signals.

Model's reading, log 64: a header that a result pushes waits for earlier reads that cannot be made. -/
def Obligations.VectorCompare : Prop :=
  ∀ (s : State) (d a b : Reg) (c t : BitVec 3) (u : BitVec 1) (vals : List (Nat × Vec))
      (pops : List Eff), s.Inv →
    let w := typeWidth t
    let f := typeFmt t
    let ia (k : Nat) := asInt (u == 0) w (laneOf w (s.vIn vals a) k)
    let ib (k : Nat) := asInt (u == 0) w (laneOf w (s.vIn vals b) k)
    let fa (k : Nat) := f.decode (laneOf w (s.vIn vals a) k)
    let fb (k : Nat) := f.decode (laneOf w (s.vIn vals b) k)
    (Issues s (.vcmp d a b c u t) 0 vals pops → t.toNat < 4 →
      ∀ m : BitVec 16, (∀ k, k < 16 → m.getLsbD k =
          [decide (ia (k / w) = ib (k / w)), decide (ia (k / w) ≠ ib (k / w)),
           decide (ia (k / w) < ib (k / w)), decide (ia (k / w) ≤ ib (k / w)),
           decide (ib (k / w) < ia (k / w)), decide (ib (k / w) ≤ ia (k / w))].getD c.toNat false) →
        SetsM s (.vcmp d a b c u t) d m pops) ∧
    (Issues s (.vcmp d a b c u t) 0 vals pops → 4 ≤ t.toNat →
      let un (k : Nat) := (fa k).isNan || (fb k).isNan
      let fl := (List.range (16 / w)).map fun k => if un k ∧ ((fa k).signals ∨ (fb k).signals ∨
        (2 ≤ c.toNat ∧ c.toNat < 6)) then flagNV else 0
      FlagTraps s (.vcmp d a b c u t) fl ∧
      (s.quiet fl → ∀ m : BitVec 16, (∀ k, k < 16 → m.getLsbD k =
          let x := fa (k / w)
          let y := fb (k / w)
          if un (k / w) then c == 1 || c == 6 else
          [eqNum x y, ! eqNum x y, ltNum x y, ! ltNum y x, ltNum y x, ! ltNum x y].getD c.toNat false) →
        Does s (.vcmp d a b c u t) { l := mBytes d ++ besides (allFlags fl) none, f := fun x => x.pops pops }
          fun q => mReg q s.hereCore s.hereBlock d = m ∧ q.raised s (allFlags fl))) ∧
    (Issues s (.vclass d a t) 0 vals pops →
      DeliversLanes s (.vclass d a t) vals pops d w fun k => classOf f (laneOf w (s.vIn vals a) k))

/-- R149, R150, R151: reductions into a g register, pairwise for floats; dot products and sums of absolute differences,
added to the old lanes.

Model's choice, log 9: NV of an invalid `vdot` product beside a quiet NaN is left free; model's reading, log 64: a header
that a result pushes waits for earlier reads that cannot be made. -/
def Obligations.VectorReductions : Prop :=
  (∀ (e : Env) (f : Fmt) (op mode x0 x1 x2 x3 x4 x5 x6 x7 : Nat),
    let g := srgOf e.s e.c e.b
    let sr := mode = 5 ∧ op = 0
    let after (n : Nat) := if sr then generator g n else g
    let put (k x y : Nat) : Nat × Nat :=
      if op = 0 then f.deliver mode (if sr then drawn g k else 0) (sumNums mode [f.decode x, f.decode y])
      else chooseFloat f (op == 2) false x y
    let a0 := put 0 x0 x1
    let a1 := put 1 x2 x3
    let a2 := put 2 x4 x5
    let a3 := put 3 x6 x7
    let b := put 2 a0.1 a1.1
    let b0 := put 4 a0.1 a1.1
    let b1 := put 5 a2.1 a3.1
    let c := put 6 b0.1 b1.1
    e.reduceFloat f op mode [x0, x1] = (a0.1, a0.2, after 1) ∧
    e.reduceFloat f op mode [x0, x1, x2, x3] = (b.1, a0.2 ||| a1.2 ||| b.2, after 3) ∧
    e.reduceFloat f op mode [x0, x1, x2, x3, x4, x5, x6, x7] =
      (c.1, a0.2 ||| a1.2 ||| a2.2 ||| a3.2 ||| b0.2 ||| b1.2 ||| c.2, after 7)) ∧
  (∀ (f : Fmt) (mode k : Nat) (la lb ld : List Nat), 2 * k + 2 ≤ la.length → 2 * k + 2 ≤ lb.length →
    let z := dotFloat f mode la lb ld k
    let x (j : Nat) := f.decode (la.getD (2 * k + j) 0)
    let y (j : Nat) := f.decode (lb.getD (2 * k + j) 0)
    let old := fmt32.decode (ld.getD k 0)
    let ins := [x 0, y 0, x 1, y 1, old]
    let sum := sumNums mode [(mulNum (x 0) (y 0)).1, (mulNum (x 1) (y 1)).1, old]
    let wrong := ∃ j, j < 2 ∧ (x j).isNan = false ∧ (y j).isNan = false ∧ (mulNum (x j) (y j)).1.isNan = true
    z.1 = sum.1 ∧
    (ins.any Machine.Num.isNan = false → (wrong → z.2 = 16) ∧ (¬ wrong → z.2 = sum.2)) ∧
    (ins.any Machine.Num.signals = true → z.2 = 16) ∧
    (ins.any Machine.Num.isNan = true → ins.any Machine.Num.signals = false →
      (wrong → z.2 = if Config.dotInvalid then 16 else 0) ∧ (¬ wrong → z.2 = 0))) ∧
  ∀ (s : State) (d a b o : Reg) (sx : BitVec 1) (r t : BitVec 3) (vals : List (Nat × Vec))
      (pops : List Eff), s.Inv →
    let w := typeWidth t
    let sg := ! r.getLsbD 0
    let n := 16 / w
    let xs := (List.range n).map (laneOf w (s.vIn vals a))
    let is_ := xs.map (asInt sg w)
    (Issues s (.vred d a o sx r t) 0 vals pops → t.toNat < 4 → ∀ v : Nat, v < 2 ^ (8 * w) →
      (o = 0 → v = fit (sx == 1) sg w is_.sum) →
      (o = 1 → v ∈ xs ∧ ∀ x ∈ xs, asInt sg w v ≤ asInt sg w x) →
      (o = 2 → v ∈ xs ∧ ∀ x ∈ xs, asInt sg w x ≤ asInt sg w v) →
      (o = 3 → ∀ j, j < 8 * w → v.testBit j = xs.all fun x => x.testBit j) →
      (o = 4 → ∀ j, j < 8 * w → v.testBit j = xs.any fun x => x.testBit j) →
      SetsG s (.vred d a o sx r t) d
        (if sg then (BitVec.ofNat (8 * w) v).signExtend 64 else BitVec.ofNat 64 v) pops) ∧
    (Issues s (.vred d a o sx r t) 0 vals pops → 4 ≤ t.toNat →
      (o = 0 → s.modeOf r = none →
        Traps s (.vred d a o sx r t) 0x02 (BitVec.ofNat 64 (loneWord (.vred d a o sx r t)).toNat) 2) ∧
      ∀ m, (if o = 0 then s.modeOf r else some 0) = some m →
        let z := (s.env (.vred d a o sx r t) vals).reduceFloat (typeFmt t) o.toNat m xs
        FlagTraps s (.vred d a o sx r t) [z.2.1] ∧
        (s.quiet [z.2.1] → Does s (.vred d a o sx r t)
          { l := gBytes d ++ besides (allFlags [z.2.1]) (if o = 0 ∧ m = modeSR then some z.2.2 else none),
            f := fun x => x.pops pops }
          fun q => q.gIs s d (BitVec.ofNat 64 z.1) ∧ q.raised s (allFlags [z.2.1]) ∧
            q.drew s (if o = 0 ∧ m = modeSR then some z.2.2 else none))) ∧
    (Issues s (.vdot d a b sx r t) 0 vals pops → t.toNat < 4 →
      DeliversLanes s (.vdot d a b sx r t) vals pops d (4 * w) fun k =>
        fit (sx == 1) sg (4 * w) (asInt sg (4 * w) (laneOf (4 * w) (s.vIn vals d) k) +
          ((List.range 4).map fun j => asInt sg w (laneOf w (s.vIn vals a) (4 * k + j)) *
            asInt sg w (laneOf w (s.vIn vals b) (4 * k + j))).sum)) ∧
    (Issues s (.vdot d a b sx r t) 0 vals pops → 4 ≤ t.toNat →
      Rounds s (.vdot d a b sx r t) vals pops d fmt32 r fun m => (List.range 4).map fun k =>
        dotFloat (typeFmt t) m xs ((List.range n).map (laneOf w (s.vIn vals b)))
          ((List.range 4).map (laneOf 4 (s.vIn vals d))) k) ∧
    (Issues s (.vsad d a b sx r t) 0 vals pops →
      DeliversLanes s (.vsad d a b sx r t) vals pops d 4 fun k =>
        fit (sx == 1) false 4 (laneOf 4 (s.vIn vals d) k + ((List.range (4 / w)).map fun j =>
          (((asInt sg w (laneOf w (s.vIn vals a) (4 / w * k + j)) -
            asInt sg w (laneOf w (s.vIn vals b) (4 / w * k + j))).natAbs : Nat) : Int)).sum))

/-- R152, R153, R154: conversions between element formats, and sub-byte packing and unpacking. A code that names an invalid
NF register traps 0x73, and an unfit width or mode 0x02.

Model's reading, log 11: stochastic rounding at the end of the destination's range; log 64: a header that a result pushes
waits for earlier reads that cannot be made. -/
def Obligations.VectorConversions : Prop :=
  (∀ (f : Fmt) (code : Nat) (neg : Bool), f.sign ≤ 1 → code < 2 ^ (f.e + f.m) → neg = false ∨ f.sign = 1 →
    let full := if neg then 2 ^ (f.e + f.m) + code else code
    let ex := code / 2 ^ f.m
    let fr := code % 2 ^ f.m
    let odd := f.spec = 1 ∧ ex = 2 ^ f.e - 1 ∨ f.spec = 2 ∧ code = 2 ^ (f.e + f.m) - 1
    (f.e = 0 → f.decode full = .fin neg (if neg then 2 ^ f.m - code else code) (- f.bias)) ∧
    (0 < f.e →
      (¬ odd → ex = 0 → f.subn = true → f.decode full = .fin neg fr (1 - f.bias - f.m)) ∧
      (¬ odd → ex = 0 → f.subn = false → ∃ u, f.decode full = .fin neg 0 u) ∧
      (¬ odd → ex ≠ 0 → f.decode full = .fin neg (2 ^ f.m + fr) ((ex : Int) - f.bias - f.m)) ∧
      (f.spec = 1 → ex = 2 ^ f.e - 1 → fr = 0 → f.decode full = .inf neg) ∧
      (f.spec = 1 → ex = 2 ^ f.e - 1 → fr ≠ 0 →
        f.decode full = .nan (decide (8 < f.sign + f.e + f.m) && decide (fr < 2 ^ (f.m - 1)))) ∧
      (f.spec = 2 → code = 2 ^ (f.e + f.m) - 1 → f.decode full = .nan false))) ∧
  (∀ (f : Fmt) (neg : Bool),
    f.nan = [0, (2 ^ f.e - 1) * 2 ^ f.m + 2 ^ (f.m - 1), 2 ^ (f.e + f.m) - 1].getD f.spec (2 ^ (f.e + f.m) - 1) ∧
    (0 < f.e → f.spec < 3 →
      f.maxCode = [2 ^ (f.e + f.m) - 1, (2 ^ f.e - 1) * 2 ^ f.m - 1, 2 ^ (f.e + f.m) - 2].getD f.spec 0 ∧
      f.largest neg = f.signed neg f.maxCode ∧
      f.inf neg = [f.signed neg f.maxCode, f.signed neg ((2 ^ f.e - 1) * 2 ^ f.m), f.nan].getD f.spec 0) ∧
    (f.e = 0 → f.spec = 0 → neg = false ∨ f.sign = 1 → f.inf neg = if neg then 2 ^ f.m else 2 ^ f.m - 1)) ∧
  (∀ (f : Fmt) (mode r : Nat), f.sign ≤ 1 →
    (∀ g, f.convert mode r (.nan g) = (f.nan, if g = true ∨ f.spec = 0 then 16 else 0)) ∧
    (∀ n, f.convert mode r (.inf n) = if n = true ∧ f.sign = 0 then (0, 16) else (f.inf n, 0)) ∧
    (∀ n m u, f.convert mode r (.fin n m u) = f.round mode r n m u)) ∧
  (∀ (sg : Bool) (w mode r : Nat), 0 < w →
    let limit (neg : Bool) := if neg then (if sg then 2 ^ (w - 1) else 0) else if sg then 2 ^ (w - 1) - 1 else 2 ^ w - 1
    let code (neg : Bool) (k : Nat) := if neg then (2 ^ w - k) % 2 ^ w else k
    (∀ g, convertInt sg w mode r (.nan g) = (0, 16)) ∧
    (∀ n, convertInt sg w mode r (.inf n) = (code n (limit n), 16)) ∧
    (∀ n m exp u, u ≤ exp → u ≤ 0 →
      let x := m * 2 ^ (exp - u).toNat
      let one := 2 ^ (- u).toNat
      let rest := x % one
      let k := x / one + if rest ≠ 0 ∧ away mode r n (x / one % 2 == 1) rest one = true then 1 else 0
      convertInt sg w mode r (.fin n m exp) =
        if limit n < k then (code n (limit n), 16) else (code n k, if rest = 0 then 0 else 1)) ∧
    (∀ x c, (intElem sg w).convert mode r x = convertInt sg w mode r x ∧
      let v := c % 2 ^ w
      (intElem sg w).decode c =
        if sg = true ∧ 2 ^ (w - 1) ≤ v then .fin true (2 ^ w - v) 0 else .fin false v 0)) ∧
  (∀ (f : Fmt) (mode r c : Nat) (x : Machine.Num), (floatElem f).convert mode r x = f.convert mode r x ∧
    (floatElem f).decode c = f.decode c) ∧
  ∀ (s : State) (d a x : Reg) (r : BitVec 2) (y c : BitVec 5) (n : BitVec 3) (sx : BitVec 1)
      (vals : List (Nat × Vec)) (pops : List Eff), s.Inv →
    (Issues s (.vcvt d a x r y) 0 vals pops → let i := Instr.vcvt d a x r y
      (∀ e, codeElem s.hereOf x.toNat = .error e → Traps s i 0x73 e.1 (BitVec.ofNat 32 e.2)) ∧
      (∀ es e, codeElem s.hereOf x.toNat = .ok es → codeElem s.hereOf y.toNat = .error e →
        Traps s i 0x73 e.1 (BitVec.ofNat 32 e.2)) ∧
      (∀ es ed, codeElem s.hereOf x.toNat = .ok es → codeElem s.hereOf y.toNat = .ok ed →
        let mode := [some modeRNE, some modeRTZ, some modeSR, s.modeOf 7].getD r.toNat none
        (mode = none → Traps s i 0x02 (BitVec.ofNat 64 (loneWord i).toNat) 2) ∧
        (∀ m, mode = some m →
          let k := 16 / max es.regBytes ed.regBytes
          DeliversFlagged s i vals pops d ed.regBytes
            ((List.range k).zipWith
              (fun j u => ed.convert m u (es.decode (laneOf es.regBytes (s.vIn vals a) j)))
              (s.drawsOf m k).1) (s.drawsOf m k).2))) ∧
    (∀ i ∈ [Instr.vpack d a n sx c, .vunpack d a n c], Issues s i 0 vals pops → ∀ e1 e2 e3,
      (s.env i vals).subElem c.toNat n.toNat = .error (.trap e1 e2 e3) → isTrapN e1 = false →
      Traps s i e1 e2 e3) ∧
    (Issues s (.vpack d a n sx c) 0 vals pops →
      ∀ f, (s.env (.vpack d a n sx c) vals).subElem c.toNat n.toNat = .ok f →
      DeliversLanes s (.vpack d a n sx c) vals pops d 1 fun k =>
        (putSlot f.cont n.toNat (packLane f (sx == 1) (laneOf 1 (s.vIn vals a) k))
          (BitVec.ofNat 8 (laneOf 1 (s.vIn vals d) k))).toNat) ∧
    (Issues s (.vunpack d a n c) 0 vals pops →
      ∀ f, (s.env (.vunpack d a n c) vals).subElem c.toNat n.toNat = .ok f →
      DeliversLanes s (.vunpack d a n c) vals pops d 1 fun k =>
        unpackLane f n.toNat (laneOf 1 (s.vIn vals a) k))

/-! ### Bit streams -/

/-- R156, R157, R158: `bbind` binds the buffer; `bget`, `bgetv` and `bpeek` give the stream's next bits, zeros past its end,
which sets OVR; `bskip` and the `bpos` forms. A buffer that no supervisor may leave gives bits left open.

R161, R162: one rANS step: the symbol whose range holds the slot and the state that follows, renormalised with 16
bits of the stream; a table that is none gives a failed step.

Model's choice, log 9: the bits of such a buffer are free values; model's reading, log 64: `bbind` and `ansd` wait for
earlier reads that cannot be made. -/
def Obligations.BitStreams : Prop :=
  (∀ (s : State) (d a b : Reg) (n : BitVec 12), s.Inv →
    let x := s.bits
    (Plain s (.bbind a b) →
      let bad := field (s.g a) 63 19 ≠ 0 ∨ ownRank s.hereCore (s.g a).toNat = false
      let past := 2 ^ 17 < (s.g a).toNat % 2 ^ 17 + ((s.g b).toNat + 7) / 8
      (bad → Traps s (.bbind a b) 0x41 (s.g a) 0) ∧
      (¬ bad → 0x100000 < (s.g b).toNat → Traps s (.bbind a b) 0x41 (s.g b) 0) ∧
      (¬ bad → (s.g b).toNat ≤ 0x100000 → past → Traps s (.bbind a b) 0x41 (s.g a) 0) ∧
      (¬ bad → (s.g b).toNat ≤ 0x100000 → ¬ past → (s.readsHeld = true → Stalls s (.bbind a b)) ∧
        (s.readsHeld = false → Then s (.bbind a b) { l := bitBytes } (fun t =>
          bitBuf t s.hereCore s.hereBlock =
            { buf := 0, next := (s.g a).toNat, bound := true, ovr := false, valid := 0,
              len := (s.g b).toNat, pos := 0 }) fun u v => ∃ w, Satisfied s u w ∧
          let y := w.core s.hereCore
          v = if s.hereBlock ∈ s.hereOf.wildBits then
            w.setCore s.hereCore { y with wildBits := setPut y.wildBits s.hereBlock false } else w))) ∧
    (∀ p ∈ [(Instr.bget d n, n.toNat, true), (.bgetv d a, (s.g a).toNat, true), (.bpeek d n, n.toNat, false)],
      Plain s p.1 → p.2.1 ≤ 64 →
        (x.kept s.hereCore → s.hereBlock ∉ s.hereOf.wildBits → Does s p.1 { l := gBytes d ++ bitBytes } fun t =>
          (bitBuf t s.hereCore s.hereBlock).after s p.2.1 p.2.2 ∧
          ∃ v : Word, t.gIs s d v ∧
            ∀ j, j < 64 → v.getLsbD j = (decide (j < p.2.1) && s.streamBit j)) ∧
        (bitsHold s s.hereCore s.hereBlock = false →
          DoesFree s p.1 { l := gBytes d ++ bitBytes } fun _ => True)) ∧
    (Plain s (.bgetv d a) → 64 < (s.g a).toNat →
      Traps s (.bgetv d a) 0x02 (BitVec.ofNat 64 (loneWord (.bgetv d a)).toNat) 2) ∧
    (Plain s (.bskip a n) → Does s (.bskip a n) { l := bitBytes } fun t =>
      x.fits → (bitBuf t s.hereCore s.hereBlock).after s ((s.g a).toNat + n.toNat) true) ∧
    (Plain s (.bpos d) → SetsG s (.bpos d) d (BitVec.ofNat 64 x.pos)) ∧
    (Plain s (.bposLeft d) → SetsG s (.bposLeft d) d (BitVec.ofNat 64 x.len - BitVec.ofNat 64 x.pos)) ∧
    (Plain s (.bposState d) → SetsG s (.bposState d) d (wspDword s s.hereCore s.hereBlock 0x2D8))) ∧
  (∀ (s : State) (d a b : Reg), s.Inv → Plain s (.ansd d a b) →
    let i := Instr.ansd d a b
    let t := s.g b
    let x := field (s.g a) 31 0
    let h : Word := BitVec.ofNat 64 (ofBytes (s.ownBytes .wm t.toNat 8))
    let n := field h 13 5 + 1
    let k := field h 4 0
    let ent (j : Nat) := ofBytes (s.ownBytes .wm (t.toNat + 8 + 4 * j) 4)
    let freq (j : Nat) := ent j % 2 ^ 16
    let cum (j : Nat) := ent j / 2 ^ 16
    let holds (j : Nat) := cum j ≤ x % 2 ^ k ∧ x % 2 ^ k < cum j + freq j
    let bad := field t 63 19 ≠ 0 ∨ ownRank s.hereCore t.toNat = false
    let failed := Loads s i { l := gBytes d } fun u => u.gIs s d (BitVec.ofNat 64 (0xFFFF * 2 ^ 32 + x))
    (t.toNat % 8 ≠ 0 → Traps s i 0x40 t 0) ∧
    (t.toNat % 8 = 0 → bad → Traps s i 0x41 t 0) ∧
    (t.toNat % 8 = 0 → ¬ bad → 2 ^ 17 < t.toNat % 2 ^ 17 + 8 + 4 * n → TrapsAfterLoads s i 0x41 t 0) ∧
    (t.toNat % 8 = 0 → ¬ bad → t.toNat % 2 ^ 17 + 8 + 4 * n ≤ 2 ^ 17 →
      (field h 63 14 ≠ 0 ∨ k = 0 ∨ 16 < k → failed) ∧
      (field h 63 14 = 0 → 0 < k → k ≤ 16 →
        ((∀ j, j < n → ¬ holds j) → failed) ∧
        ∀ j, j < n → holds j → (∀ m, m < j → ¬ holds m) →
          let y := (freq j * (x / 2 ^ k) + x % 2 ^ k - cum j) % 2 ^ 32
          (0x10000 ≤ y → Loads s i { l := gBytes d }
            fun u => u.gIs s d (BitVec.ofNat 64 (j * 2 ^ 32 + y))) ∧
          (y < 0x10000 → s.bits.kept s.hereCore → s.hereBlock ∉ s.hereOf.wildBits →
            Loads s i { l := gBytes d ++ bitBytes }
            fun u => (bitBuf u s.hereCore s.hereBlock).after s 16 true ∧
              ∃ z : Nat, z < 2 ^ 16 ∧ (∀ m, m < 16 → z.testBit m = s.streamBit m) ∧
                u.gIs s d (BitVec.ofNat 64 (j * 2 ^ 32 + y * 2 ^ 16 + z))) ∧
          (y < 0x10000 → bitsHold s s.hereCore s.hereBlock = false → LoadsFree s i { l := gBytes d ++ bitBytes }
            fun u => ∃ z : Nat, z < 2 ^ 16 ∧ u.gIs s d (BitVec.ofNat 64 (j * 2 ^ 32 + y * 2 ^ 16 + z))))))

/-! ### Matrix and permutation instructions -/

/-- R201, R202: `munf` checks a record and its two words and writes the slot's unfolding configuration, valid until it
is written again; a check that fails leaves it as it was.

R203, R208 to R210, R227: `mmz`, `mmd` and `qtile`: a tile's place, a drain's format and rows, the rows that a permutation
moves; then acceptance, which needs no licence.

Model's reading, log 64: `munf` waits for earlier reads that cannot be made. -/
def Obligations.MatrixSettings : Prop :=
  (∀ (s : State) (a b c : Reg), s.Inv → Plain s (.munf a b c) →
    let i := Instr.munf a b c
    let gb := s.g b
    let gc := s.g c
    let code := field gc 55 48
    (∀ e, localCheck s.hereCore (s.g a) 8 96 = some e → Traps s i e (s.g a) 0) ∧
    (localCheck s.hereCore (s.g a) 8 96 = none →
      let rec_ := checkTlr s.hereOf (readRecord s s.hereCore s.here (s.g a).toNat) false
      (∀ e, rec_ = .error e → isTrapN e.cause = false → TrapsAfterLoads s i e.cause e.aux e.aux2) ∧
      ∀ t, rec_ = .ok t →
        let org (k : Nat) : Int := t.orgs.getD k 0
        let far (k n st tp dl : Nat) := decide (org k < 0 ∨
          (t.dim k : Int) ≤ org k + ((n - 1) * st + (tp - 1) * dl : Nat))
        TrapsFirstAfterLoads s i
          [(t.space != 3, 0x74, dw t.dws 0, 0), (decide (4 < t.rank), 0x74, dw t.dws 1, 1),
           (field gb 63 24 != 0, 0x74, gb, 2), (field gc 63 56 != 0, 0x74, gc, 2),
           (! (fmtElem code).isSome && ! decide (0x20 ≤ code ∧ code ≤ 0x27), 0x74, gc, 3),
           (decide (2 ^ 24 < t.dim 0 * (field gb 3 0 + 1) * (field gb 7 4 + 1)), 0x74, gb, 4),
           (decide (2 ^ 32 < (field gc 15 0 + 1) * (field gc 31 16 + 1) * (field gc 47 32 + 1)), 0x74, gc, 4),
           (decide (2 ^ 17 < t.base + t.span), 0x70, s.g a, 0),
           (t.fillm == 3 && far 1 (field gc 15 0 + 1) (field gb 11 8 + 1) (field gb 3 0 + 1)
             (field gb 19 16 + 1), 0x82, dw t.dws 10, 10 + 40 * 2 ^ 8),
           (t.fillm == 3 && far 2 (field gc 31 16 + 1) (field gb 15 12 + 1) (field gb 7 4 + 1)
             (field gb 23 20 + 1), 0x82, dw t.dws 11, 11),
           (t.fillm == 3 && decide (t.dim 3 < field gc 47 32 + 1), 0x82, dw t.dws 3, 3 + 24 * 2 ^ 8)]
          (Loads s i { f := fun x => { x with munf := some { tlr := t.dws, gb := gb, gc := gc } } }
            fun _ => True))) ∧
  (∀ (s : State) (a b : Reg) (fe : BitVec 1) (q : BitVec 3) (k w : BitVec 1), s.Inv →
    let x := s.g a
    let y := s.g b
    let off := field x 15 0
    let sp := bufferOf (descSpace y)
    let rows (n : Nat) := (List.range 64).map fun j => (sp, descOffset y + j * descPitch y, n)
    (Plain s (.mmz a w) → TrapsFirst s (.mmz a w) (List.map misplaced
        [(decide (2 ^ 16 ≤ x.toNat), x, 2, 3), (decide (x.toNat % 64 ≠ 0), x, 2, 1),
         (decide (2 ^ 16 < x.toNat + tileBytes (w == 1)), x, 2, 0)])
      (Accepts s (.mmz a w) (s.matOp .mmz (w.setWidth 7) x 0 0 0) none)) ∧
    (Plain s (.mmd a b fe q k w) → let i := Instr.mmd a b fe q k w
      let code := descFmt y
      (∀ v n, recordElem s.hereOf.nf code = some (.error (v, n)) → Traps s i 0x73 v (BitVec.ofNat 32 n)) ∧
      (recordElem s.hereOf.nf code = none → Traps s i 0x72 (BitVec.ofNat 64 (code * 2 ^ 8)) 2) ∧
      ∀ f, recordElem s.hereOf.nf code = some (.ok f) →
        (drainFmt (w == 1) code (some f) = false → Traps s i 0x72 (BitVec.ofNat 64 (code * 2 ^ 8)) 2) ∧
        (drainFmt (w == 1) code (some f) = true →
          let unit := if f.sub then 16 else f.size
          let n := rowBytes f
          TrapsFirst s i (List.map misplaced
            [(decide (2 ^ 16 ≤ x.toNat), x, 2, 3),
             (decide (field y 63 56 ≠ 0 ∨ field y 47 41 ≠ 0 ∨ field y 23 20 ≠ 0), y, 5, 3),
             (decide (off % 64 ≠ 0), x, 2, 1), (decide (2 ^ 16 < off + tileBytes (w == 1)), x, 2, 0),
             (decide (descOffset y % unit ≠ 0 ∨ descPitch y % unit ≠ 0), y, 5, 1),
             (decide (descSpace y < 2 ∨ 4 < descSpace y), y, 5, 0),
             (decide (spaceBytes sp < descOffset y + 63 * descPitch y + n), y, 5, 0),
             (decide (descPitch y < n), y, 5, 2),
             ((rows n).any (meets (.cb, off, tileBytes (w == 1))), y, 5, 2)])
            (Accepts s i (s.matOp .mmd (fe ++ q ++ k ++ w ++ 0#1) x y 0 (if fe = 1 then s.q q else 0))
              (if fe = 1 then some q else none)))) ∧
    (Plain s (.qtile q b) → let n := descRowb y
      TrapsFirst s (.qtile q b) (List.map misplaced
        [(decide (field y 63 61 ≠ 0 ∨ field y 47 41 ≠ 0 ∨ field y 23 20 ≠ 0), y, 6, 3),
         (decide (descSpace y < 2 ∨ 4 < descSpace y), y, 6, 0), (decide (n = 0 ∨ 4096 < n), y, 6, 0),
         (decide (descPitch y < n), y, 6, 2),
         (decide (spaceBytes sp < descOffset y + 63 * descPitch y + n), y, 6, 0)])
      (Accepts s (.qtile q b) (s.matOp .qtile 0 0 y 0 (s.q q)) (some q))))

/-- R197, R198, R203 to R206: `mma` and `mmac` in the order of the checks: the configuration, the formats and their class,
the places of the operands and scales, then acceptance with a copy of every setting. -/
def Obligations.MatrixMultiply : Prop :=
  ∀ (s : State) (a b c : Reg) (fe : BitVec 1) (q : BitVec 3) (sa sb : BitVec 1), s.Inv →
    ∀ p ∈ [(Instr.mma a b c fe q sa sb, false), (.mmac a b c fe q sa sb, true)], Plain s p.1 →
      let half := if p.2 then 2 else 1
      let x := s.g a
      let y := s.g b
      let z := s.g c
      let sca := s.here.sca
      let scb := s.here.scb
      let elem (n : Nat) := (recordElem s.hereOf.nf n).bind fun e => match e with | .ok f => some f | _ => none
      (s.here.munf = none → Traps s p.1 0x74 0 5) ∧
      ∀ m, s.here.munf = some m →
        let ca := tf m.tlr 1 7 0
        let cb := field m.gc 55 48
        let k := (elem ca).bind (gemmK ca)
        let fit := k ≠ none ∧ k = (elem cb).bind (gemmK cb) ∧ ¬ (p.2 = true ∧ k = some 16)
        (∀ v n, recordElem s.hereOf.nf ca = some (.error (v, n)) → Traps s p.1 0x73 v (BitVec.ofNat 32 n)) ∧
        (∀ v n, (∀ e, recordElem s.hereOf.nf ca ≠ some (.error e)) →
          recordElem s.hereOf.nf cb = some (.error (v, n)) → Traps s p.1 0x73 v (BitVec.ofNat 32 n)) ∧
        ((∀ e, recordElem s.hereOf.nf ca ≠ some (.error e)) →
          (∀ e, recordElem s.hereOf.nf cb ≠ some (.error e)) →
          (¬ fit → Traps s p.1 0x72 (BitVec.ofNat 64 (ca + cb * 2 ^ 8)) (BitVec.ofNat 32 (half - 1))) ∧
          (fit → TrapsFirst s p.1 (List.map misplaced
              [(decide (2 ^ 16 ≤ x.toNat), x, 2, 3), (decide (2 ^ 17 ≤ y.toNat), y, 1, 3),
               (decide (2 ^ 56 ≤ z.toNat), z, 0, 3), (decide (2 ^ 20 ≤ sca.toNat), sca, 3, 3),
               (decide (2 ^ 20 ≤ scb.toNat), scb, 4, 3),
               (decide (x.toNat % 64 ≠ 0), x, 2, 1),
               (decide (2 ^ 16 < x.toNat + tileBytes (k == some 16)), x, 2, 0),
               (decide (y.toNat % 64 ≠ 0), y, 1, 1), (decide (2 ^ 17 < y.toNat + 8192 / half), y, 1, 0),
               (sa == 1 && decide (descSpace sca ≠ 2 ∧ descSpace sca ≠ 3), sca, 3, 0),
               (sa == 1 && decide (descOffset sca % 4 ≠ 0), sca, 3, 1),
               (sa == 1 && decide (2 ^ 17 < descOffset sca + 256), sca, 3, 0),
               (sb == 1 && decide (descSpace scb ≠ 2 ∧ descSpace scb ≠ 3), scb, 4, 0),
               (sb == 1 && decide (descOffset scb % 4 ≠ 0), scb, 4, 1),
               (sb == 1 && decide (2 ^ 17 < descOffset scb + 256 / half), scb, 4, 0)])
            (Accepts s p.1 (s.matOp (if p.2 then .mmac else .mma) (fe ++ q ++ 0#1 ++ sa ++ sb) x y z
              (if fe = 1 then s.q q else 0)) (if fe = 1 then some q else none))))

/-- R221 to R226, R228: the permutation instructions. A register that is being solved holds a bundle that names it
back. `qld` takes a bijection, `qcomp` applies its second source first, `qinv` inverts, `qrnd` draws, `qid` writes zero
settings; `qst`, `qapp`, `qcyc` and `qchk` read.

R219, R220: whatever its settings, the network delivers a permutation of its 64 inputs, and the settings solved for a
permutation deliver that one; they leave the reserved bits zero.

Model's reading: log 62 that `qld`, `qst` and `qchk` wait for a matrix operation before they check data; log 64 that `qld`
and `qchk` wait for earlier reads that cannot be made. -/
def Obligations.Permutations : Prop :=
  (∀ (s : State) (d a b : BitVec 3) (g v : Reg) (sx : BitVec 3) (vals : List (Nat × Vec)) (pops : List Eff),
    s.Inv →
    let sp := spaceCode sx
    let x := s.g g
    let pa := permOf (s.q a)
    let solved (i : Instr) (p : List Nat) := Does s i { f := fun y => y.solvesFor s d p } fun _ => True
    (∀ p ∈ [(Instr.qcomp d a b, [a, b, d]), (.qinv d a, [a, d]), (.qrnd d, [d]), (.qid d, [d]),
        (.qcyc a g, [a])], Plain s p.1 → p.2.any s.solving = true → Stalls s p.1) ∧
    (Plain s (.qcomp d a b) → [a, b, d].any s.solving = false → ∀ p : List Nat, p.length = 64 →
      (∀ j, j < 64 → p.getD j 0 = (permOf (s.q b)).getD (pa.getD j 0) 0) → solved (.qcomp d a b) p) ∧
    (Plain s (.qinv d a) → [a, d].any s.solving = false → ∀ p : List Nat, p.length = 64 →
      (∀ j, j < 64 → p.getD (pa.getD j 0) 0 = j) → solved (.qinv d a) p) ∧
    (Plain s (.qrnd d) → s.solving d = false →
      let y := randomPerm (srgOf s s.hereCore s.hereBlock)
      Does s (.qrnd d) { l := [(0x2F8, 4)], f := fun z => z.solvesFor s d y.1 } fun t =>
        srgOf t s.hereCore s.hereBlock = y.2) ∧
    (Plain s (.qid d) → s.solving d = false → Does s (.qid d) { l := [(0x300 + 48 * d.toNat, 48)] }
      fun t => qReg t s.hereCore s.hereBlock d = 0) ∧
    (Plain s (.qcyc a g) → s.solving a = false → SetsG s (.qcyc a g) g (cycleWord pa)) ∧
    (Issues s (.qapp a g v) 0 vals pops →
      (s.solving a = true → Stalls s (.qapp a g v)) ∧
      (s.solving a = false → DeliversLanes s (.qapp a g v) vals pops g 1 fun j =>
        let n := pa.getD j 0
        if n < 16 then laneOf 1 (s.vIn vals v) n else 0)) ∧
    (Plain s (.qld d g sx) → VectorAccess s (.qld d g sx) sp x
      ((∀ i n r, Breaks (s.indices sp x) i n r →
          TrapsIn sp s (.qld d g sx) 0x71 (BitVec.ofNat 64 (i + n * 2 ^ 8)) (BitVec.ofNat 32 r)) ∧
        ((∀ i n r, ¬ Breaks (s.indices sp x) i n r) →
          (s.solving d = true → Stalls s (.qld d g sx)) ∧
          (s.solving d = false → LoadsIn sp s (.qld d g sx)
            { f := fun y => y.solvesFor s d (s.indices sp x) } fun _ => True)))) ∧
    (Plain s (.qchk g v sx) → VectorAccess s (.qchk g v sx) sp x
      ((∀ i n r, Breaks (s.indices sp x) i n r → LoadsIn sp s (.qchk g v sx) { l := gBytes v }
          fun u => u.gIs s v (BitVec.ofNat 64 (2 ^ 63 + r * 2 ^ 16 + n * 2 ^ 8 + i))) ∧
        ((∀ i n r, ¬ Breaks (s.indices sp x) i n r) → LoadsIn sp s (.qchk g v sx) { l := gBytes v }
          fun u => u.gIs s v 0))) ∧
    (Plain s (.qst a g sx) → VectorAccess s (.qst a g sx) sp x
      ((s.solving a = true → Stalls s (.qst a g sx)) ∧
        (s.solving a = false → let l := [(x.toNat, pa.map (BitVec.ofNat 8))]
          Stores s (.qst a g sx) sp (.store sp l) l [])))) ∧
  (∀ q : BitVec 384, (permOf q).Perm (List.range 64)) ∧
  (∀ p : List Nat, p.Perm (List.range 64) → permOf (solvePerm p) = p ∧
    ∀ j, 352 ≤ j → (solvePerm p).getLsbD j = false)

/-! ### Results, traps and records -/

/-- R41, R60, R62, R113, R114, R241: the result of an operation returns into its destination.

R163, R166, R303, R362, R364: a load from GL or a peer's WM is made behind the thread's earlier reads; it returns what lies at its
bytes' homes, with the slot's buffered stores over it, or a sparse range's fill pattern, which also sets its bit of the
feedback map. The first of its accesses that is stopped makes it fault, and one to a page that is not resident makes it wait.

A `join` whose
counter was 1 gives 1, one that was 0 faults 0x66; a thread whose `susp` record is written leaves its slot; `xwait` returns
the object, the thread's own buffered stores over it (R301), once it counts as much as it waits for, `xwait.poll` at
once. -/
def Obligations.ResultsReturn : Prop :=
  ∀ (s : State) (o : AsyncOp), s.Inv → s.powered = true →
    let c := s.sel.core
    let x := s.selSlot
    x.findOp s.sel.num = some o → x.dying = false →
    (∀ v, o.kind.ordinary = true → o.st = .done v → Returns s o v) ∧
    (∀ sp lanes sext keep, o.kind = .load sp lanes sext keep → o.st = .sent → sext ≤ 64 → s.Sound →
      x.unreadBefore o.tid o.seq = false →
      (∀ f : Lane → List Byte, (∀ l ∈ lanes, s.readsAs c sp l.addr l.size (f l)) →
        let bytes (l : Lane) := (List.range l.size).map fun j => (x.forward o.seq sp (l.addr + j)).getD ((f l).getD j 0)
        let v := (lanes.map fun l => ofBytes (bytes l) * 2 ^ (8 * l.pos)).sum
        Returns s o (keep &&& if sext = 0 then BitVec.ofNat 128 v
          else ((BitVec.ofNat sext v).signExtend 64).setWidth 128)) ∧
      (∀ pre l post cause aux2, lanes = pre ++ l :: post → (∀ m ∈ pre, ∃ bs, s.readsAs c sp m.addr m.size bs) →
        s.failsAs c sp l.addr .read cause aux2 → x.takes o.tid = true → Due s .asyncResultWrite fun t =>
          Alters s t c s.sel.slot
            (x.faulted o cause (BitVec.ofNat 64 l.addr) (laneOr cause (l.pos / l.size) aux2)) []) ∧
      (∀ pre l post, lanes = pre ++ l :: post → (∀ m ∈ pre, ∃ bs, s.readsAs c sp m.addr m.size bs) → sp = .gl →
        translate s (s.ctxOf c) l.addr .read = .page → (s.link.up = true ∨ s.link.expired = false) →
        (∀ q ∈ s.pageReqs, ¬ (q.pid = s.pidOf c ∧ q.page = l.addr / 4096)) → Due s .asyncResultWrite fun t =>
          t = { s.setSlot c s.sel.slot (x.setOp { o with st := .paged }) with
            pageReqs := s.pageReqs ++ [{ pid := s.pidOf c, page := l.addr / 4096, write := false,
                                         time := s.time.toNat, launches := o.launch.toList }] }) ∧
      (∀ l v fmap tile k, sp = .gl → lanes = [l] → translate s (s.ctxOf c) l.addr .read = .fill v fmap tile → fmap ≠ 0 →
        (∃ g pa, translate s (s.ctxOf c) (fmap + 8 * (tile / 64)) .write = .at g pa false ∧ linkState s g = none ∧
          k = physKey g pa) → k % 8 = 0 → Due s .asyncResultWrite fun t =>
          t.wordAt k 8 = s.wordAt k 8 ||| BitVec.ofNat 64 (2 ^ (tile % 64)) ∧
          ∀ j, inRanges ((k, 8) :: workspaceKeys c o.block o.resultBytes) j = false →
            readByte t.mem j = readByte s.mem j)) ∧
    (∀ a, o.kind = .join a → o.st = .done 1 → Returns s o 1) ∧
    (∀ a, o.kind = .join a → o.st = .done 0 → x.takes o.tid = true →
      Due s .asyncResultWrite fun t =>
        Alters s t c s.sel.slot (x.faulted o 0x66 (BitVec.ofNat 64 a) 0) []) ∧
    (∀ a rec v, o.kind = .susp a rec → o.st = .done v → s.sel.slot ≠ 0 → x.takes o.tid = true →
      (x.delOp o).outstanding = 0 → reservedBlock x.block = false →
      Due s .asyncResultWrite fun t => (t.slot c s.sel.slot).wspV = false ∧
        (t.core c).pool = setPut (s.core c).pool x.block true ∧ t.gaffer = s.gaffer) ∧
    (∀ a n poll, o.kind = .xwait a n poll → o.st ≠ .withdrawn → wmCore c a = c →
      let v := BitVec.ofNat 64 (ofBytes ((List.range 8).map fun j =>
        (x.forward o.seq .wm (a + j)).getD (readByte s.mem (wmKey c a + j))))
      (poll = true ∨ n ≤ field v 62 0) → Returns s o (v.setWidth 128))

/-- R65, R177, R194, R316, R317, R399: at its turn a thread, a held one too, takes the oldest fault that has arrived; a
thread that is not held takes the trap 0x64 of a wait past its limit: of a full/empty operation under the park
marker, or of a twin-window instruction that would not issue again.

R316, R318 to R320, R323: once nothing of its thread is on its way, a trap record joins the tail of its core's queue, as
the head window shows; the supervisor's own is queued and the supervisor placed again. Records that are ready together
join in ascending slot order.

Model's reading, log 14: which wait of several a parked thread is listed under; log 65: the places of slot records. -/
def Obligations.TrapsTaken : Prop :=
  (∀ s : State, s.Inv → s.powered = true → s.sel.slot = s.hereSlot →
    (s.hereSlot ≠ 0 ∨ setLevel s s.hereCore = s.hereOf.level) → slotInert s s.hereCore s.hereSlot = false →
    ∀ f rest, s.here.faults = f :: rest → isTrapN f.cause = false →
      exec .deferredTrap s = .next (s.parkedBy { s.here with faults := rest }
        (trapRecord s s.hereSlot f.cause f.aux f.aux2 f.pc f.pair true))) ∧
  (∀ s : State, s.Inv → s.onTurn →
    let x := s.here
    let lim := wlimOf s s.hereCore s.hereBlock
    (∀ p n a, x.faults = [] → x.park = some p → p.underMarker = true → parkOver s s.hereCore x p = false →
      oldest (x.feOps true) = some (n, a) → lim ≠ 0 → lim < s.hereOf.cycle.toNat - p.cycle →
      exec .waitLimitTrap s = .next (s.parkedBy x
        (trapRecord s s.hereSlot 0x64 (BitVec.ofNat 64 a) (BitVec.ofNat 32 lim) p.pc p.pair false))) ∧
    (∀ i d k z, i = .twget d 1 k ∨ i = .twput d 1 k → s.fetches i → Plain s i →
      (i = .twget d 1 k → d.toNat < 24 ∧ s.hereOf.twinFull.getLsbD k.toNat = false) →
      (i = .twput d 1 k → peerReach s s.hereCore (twinOf s.hereCore) = some true ∧
        (∀ e ∈ x.sb, e.kind ≠ .marker) ∧ (s.core (twinOf s.hereCore)).twinFull.getLsbD k.toNat = true) →
      x.asleep = some z → z.kind = 0 → z.addr = BitVec.ofNat 64 (loneWord i).toNat → lim ≠ 0 →
      lim < s.hereOf.cycle.toNat - z.cycle →
      exec .twinWaitLimitTrap s = .next (s.trapsWith 0x64 z.addr (BitVec.ofNat 32 lim)))) ∧
  (∀ (s : State) (r : TrapRec), s.Inv → s.powered = true →
    let c := s.sel.core
    let sl := s.sel.slot
    let x := s.selSlot
    x.trap = some { record := r, queued := false } → (∀ o ∈ x.own, o.kept r.cause = true) →
    drained s c sl x r.cause = true → x.solves = [] → recordPlace (s.core c).trapq sl = true →
    (∀ k, k < sl → readyRecord s c k = none) →
    let u := s.setSlot c sl { x with trap := some { record := r, queued := true } }
    (sl ≠ 0 → Due s .trapRecordEnqueue fun t => Queued s u t (freshHead u c ((s.core c).trapq ++ [r]))) ∧
    (sl = 0 → supQueued (s.core c).trapq = false → Due s .trapRecordEnqueue fun t =>
      (t.core c).trapq = freshHead u c (pushSup (s.core c).trapq r) ∧ pcImage t c 0 = (s.core c).supPc % 2 ^ 57 ∧
      (∀ q : Reg, gReg t c 0 q = if q = 3 then (s.core c).supArg else 0) ∧
      (t.slot c 0).trap = none ∧ (t.slot c 0).wspV = true ∧
      readBytes t.mem (localKey c .wm 0x480) 40 = windowBytes (t.core c) ∧
      ∀ k, k ≠ slotKey c 0 → mapGet Slot.reset t.slots k = mapGet Slot.reset s.slots k))

/-! ### Homes, networks and engines -/

/-- R173 to R176, R179, R180: atomics and full/empty operations on a WM word within reach, at its home. An `amo` or a `cas`
is one access; a full/empty load whose tag forbids it joins the word's wait list. A load that empties its word lets an
`stfe` that waits for it in, and once the walk of the list is over no waiter of the word could be performed.

Model's reading, log 13: when a wait list is walked; log 64: a full/empty load goes to its home once the thread's earlier
reads are made. -/
def Obligations.HomesOfLoads : Prop :=
  ∀ (s : State) (o : AsyncOp) (a : Nat), s.Inv → s.powered = true →
    let c := s.sel.core
    let sl := s.sel.slot
    let x := s.selSlot
    let k := wmKey c a
    let old4 := s.wordAt k 4
    let old8 := s.wordAt k 8
    x.findOp s.sel.num = some o → o.st = .sent → peerReach s c (wmCore c a) = some true → noiseRead s k 8 = [] →
    let first := ∀ p ∈ x.async, p.tid = o.tid → o.seq ≤ p.seq
    (x.clearBefore o.tid o.seq = true → clearOfWindow a 8 →
      (∀ op b, o.kind = .amo op .wm a true b → Due s .homeAtomic fun t =>
        Alters s t c sl (x.performed o (amoOld op old8)) [(k, 8)] ∧ t.wordAt k 8 = amoNew op old8 b) ∧
      (∀ op b, o.kind = .amo op .wm a false b → Due s .homeAtomic fun t =>
        Alters s t c sl (x.performed o (amoOld op old4)) [(k, 4)] ∧
        t.wordAt k 4 = amoNew op old4 (b.setWidth 32)) ∧
      (∀ b n, o.kind = .cas .wm a true b n → Due s .homeAtomic fun t =>
        Alters s t c sl (x.performed o old8) [(k, 8)] ∧ t.wordAt k 8 = if old8 = b then n else old8) ∧
      (∀ b n, o.kind = .cas .wm a false b n → Due s .homeAtomic fun t =>
        Alters s t c sl (x.performed o (old4.signExtend 64)) [(k, 4)] ∧
        t.wordAt k 4 = if old4 = b.setWidth 32 then n.setWidth 32 else old4)) ∧
    (∀ w, o.kind = .fe .ldfe .wm a w → first → tagFull s k = true → s.unawaited k →
      Due s .feHomeOperation fun t => t = ({ s with empties := setPut s.empties k true } : State).setSlot c sl
        (x.performed o old8)) ∧
    (∀ w u d, o.kind = .fe .ldfe .wm a w → first → tagFull s k = true → s.feWaits.filter (fun w => w.key == k) = [u] →
      s.storeWaits k u d → Due s .feHomeOperation fun t =>
        (t.slot c sl).async = (x.performed o old8).async ∧ t.wordAt k 8 = d ∧ tagFull t k = true ∧
        (t.slot u.core u.slot).sb = (s.slot u.core u.slot).sb.drop 1 ∧ t.feWaits = s.feWaits.erase u) ∧
    (∀ w, o.kind = .fe .ldfe .wm a w → first → tagFull s k = true → s.Waiters k →
      Due s .feHomeOperation fun t =>
        (t.slot c sl).findOp o.seq = some { o with st := .done (old8.setWidth 128) } ∧ t.walked s k) ∧
    (∀ w, o.kind = .fe .ldfx .wm a w → first → tagFull s k = true →
      Due s .feHomeOperation fun t => t = s.setSlot c sl (x.performed o old8)) ∧
    (∀ w, o.kind = .fe .fepoll .wm a w →
      Due s .feHomeOperation fun t => t = s.setSlot c sl (x.performed o (if tagFull s k then 1 else 0))) ∧
    (∀ f w, f = .ldfe ∨ f = .ldfx → o.kind = .fe f .wm a w → first → tagFull s k = false →
      Due s .feHomeOperation fun t => t = ({ s with feWaits := s.feWaits ++
        [{ key := k, core := c, slot := sl, seq := o.seq }] } : State).setSlot c sl (x.setOp { o with st := .waiting }))

/-- R166, R174 to R176, R183, R319: the head of a store buffer leaves it. A store to WM within reach is written, the head
window left out, and one to GL at the home that its address translates to, or it faults, or waits for a page; `stfe`, `stff`
and `feset` set the word's tag, `stfe` when that is empty. When the tag has changed, the word's waiters are performed in the
order of their arrival: with the tag full, all loads up to the first `ldfe`, which empties it.

Model's reading, log 13: when a wait list is walked. -/
def Obligations.StoreBufferHeads : Prop :=
  ∀ (s : State) (e : SbEntry) (rest : List SbEntry) (a : Nat), s.Inv → s.powered = true →
    let c := s.sel.core
    let sl := s.sel.slot
    let x := s.selSlot
    let k := wmKey c a
    let y := { x with sb := rest }
    x.sb = e :: rest → e.held = false → x.dying = false →
    (e.kind = .marker → x.loadBefore e.tid e.seq = false →
      Due s .storeBufferDrain fun t => t = s.setSlot c sl y) ∧
    (∀ bs, e.kind = .store .wm [(a, bs)] → bs ≠ [] → (∀ o ∈ x.async, o.tid = e.tid → e.seq ≤ o.seq) →
      peerReach s c (wmCore c a) = some true → Due s .storeBufferDrain fun t =>
        Alters s t c sl y [(k, bs.length)] ∧ ∀ j, j < bs.length → readByte t.mem (k + j) =
          if 0x480 ≤ a % 2 ^ 17 + j ∧ a % 2 ^ 17 + j < 0x4A8 then readByte s.mem (k + j) else bs.getD j 0) ∧
    (∀ bs, e.kind = .store .gl [(a, bs)] → bs ≠ [] → (∀ o ∈ x.async, o.tid = e.tid → e.seq ≤ o.seq) → s.Sound →
      (∀ t pa comp, translate s (s.ctxOf c) a .write = .at t pa comp → linkState s t = none →
        pa % 128 + bs.length ≤ 128 → Due s .storeBufferDrain fun u =>
          let base := lineBase (physKey t pa)
          u.slot c sl = y ∧
          (∃ line : List Byte, physRead u t (pa / 128 * 128) 128 comp = ([], .ok line) ∧ ∀ i, i < 128 →
            line.getD i 0 = if pa % 128 ≤ i ∧ i < pa % 128 + bs.length then bs.getD (i - pa % 128) 0
              else readByte s.mem (base + i)) ∧
          (∀ j, lineBase j ≠ base → readByte u.mem j = readByte s.mem j ∧ lineMetaOf u j = lineMetaOf s j) ∧
          (comp = false → ∀ j, readByte u.mem j = if physKey t pa ≤ j ∧ j < physKey t pa + bs.length
            then bs.getD (j - physKey t pa) 0 else readByte s.mem j)) ∧
      (∀ cause aux2, s.failsAs c .gl a .write cause aux2 → x.takes e.tid = true →
        let f : DeferredFault := ⟨e.pc, e.pair, cause, BitVec.ofNat 64 a, laneOr cause 0 aux2⟩
        Due s .storeBufferDrain fun u => u = s.setSlot c sl { y with faults := x.faults ++ [f] }) ∧
      (translate s (s.ctxOf c) a .write = .page → (s.link.up = true ∨ s.link.expired = false) →
        Due s .storeBufferDrain fun u => u.mem = s.mem ∧
          (u.slot c sl).sb = x.sb.map (fun z => if z = e then { z with held := true } else z) ∧
          ∃ q ∈ u.pageReqs, q.pid = s.pidOf c ∧ q.page = a / 4096 ∧ q.write = true)) ∧
    (x.clearBefore e.tid e.seq = true → peerReach s c (wmCore c a) = some true → clearOfWindow a 8 →
      x.findOp e.seq = none → e.seq = s.sel.num →
      (∀ w ∈ s.feWaits, w.core = c → w.slot = sl → w.seq ≠ e.seq) →
      (∀ f, e.kind = .feset .wm a f → s.unawaited k → Due s .feHomeOperation fun t =>
        t = ({ s with empties := setPut s.empties k (! f) } : State).setSlot c sl y) ∧
      (∀ d, e.kind = .stff .wm a d ∨ e.kind = .stfe .wm a d ∧ tagFull s k = false → s.unawaited k →
        Due s .feHomeOperation fun t => Alters s { t with empties := s.empties } c sl y [(k, 8)] ∧
          t.wordAt k 8 = d ∧ t.empties = setPut s.empties k false) ∧
      (∀ d, e.kind = .stfe .wm a d → tagFull s k = true → s.unawaited k → Due s .feHomeOperation fun t =>
        t = { s with feWaits := s.feWaits ++ [{ key := k, core := c, slot := sl, seq := e.seq }] }) ∧
      (∀ v : Word, (e.kind = .feset .wm a true ∧ v = s.wordAt k 8 ∨ e.kind = .stff .wm a v ∨ e.kind = .stfe .wm a v) →
        tagFull s k = false → noiseRead s k 8 = [] → ∀ A B,
        s.feWaits.filter (fun w => w.key == k) = A ++ B → (∀ w ∈ A, s.loadWaits k w .ldfx) →
        (∀ w ∈ B, ∃ f, s.loadWaits k w f) → (∀ w ∈ B.head?, s.loadWaits k w .ldfe) → s.Waiters k →
        let l := A ++ B.take 1
        Due s .feHomeOperation fun t => t.wordAt k 8 = v ∧ tagFull t k = B.isEmpty ∧
          t.feWaits = s.feWaits.filter (fun w => w ∉ l) ∧ ∀ w ∈ l, ∃ p,
            (s.slot w.core w.slot).findOp w.seq = some p ∧
            (t.slot w.core w.slot).findOp w.seq = some { p with st := .done (v.setWidth 128) }) ∧
      (∀ f, e.kind = .feset .wm a f → tagFull s k = ! f → s.Waiters k → noiseRead s k 8 = [] →
        Due s .feHomeOperation fun t => t.walked s k))

/-- R357 to R360, R362, R363: the lookup in a context's tables, on sound memory: the lowest valid range entry that holds the
address, every valid entry read on the way to it checked; without MODE it gives the target, else, and without such an entry,
the five levels of the page table do. An absent entry is a fill pattern, a page to be requested or a fault; rights come before
the target.

R409, R411, R413, R414: a station that writes whole sectors of a line without compression, undamaged on their way, stores
the bytes, their check values, and tag 0, and clears their poison; the errors of the sectors that it replaces are gone.

Model's reading, log 79: where the line was stored compressed, all four check values are made anew. -/
def Obligations.StationWrites : Prop :=
  (∀ (s : State) (va : Nat) (kind : Access), translate s none va kind = .fault 0x42 0 ∧ ∀ x : Context,
    (2 ^ 57 ≤ va → translate s (some x) va kind = .fault 0x42 0) ∧
    (va < 2 ^ 57 → x.rootBad = true → translate s (some x) va kind = .fault 0x48 6)) ∧
  (∀ (s : State) (x : Context) (va : Nat) (kind : Access), s.Sound → x.rootBad = false → va < 2 ^ 57 →
    x.rtab % 64 = 0 → x.pt0 % 4096 = 0 →
    let y := translate s (some x) va kind
    let dword (pa : Nat) : Nat := ofBytes (readBytes s.mem (physKey .hbm pa) 8)
    let d (i j : Nat) : Nat := dword (x.rtab + 64 * i + 8 * j)
    let flag (i b : Nat) : Bool := (d i 3).testBit b
    let tgt (i : Nat) : Nat := d i 3 / 2 ^ 8 % 4
    let dev (i : Nat) : Nat := d i 3 / 2 ^ 32 % 2 ^ 21
    let good (i : Nat) : Prop := d i 0 < 2 ^ 57 ∧ d i 1 < 2 ^ 57 ∧ d i 2 < 2 ^ 52 ∧ d i 3 < 2 ^ 53 ∧
      d i 3 / 2 ^ 10 % 2 ^ 22 = 0 ∧ d i 5 < 2 ^ 57 ∧ d i 6 = 0 ∧ d i 7 = 0 ∧ d i 0 % 4096 = 0 ∧ d i 1 % 4096 = 0 ∧
      d i 0 < d i 1 ∧ d i 2 % 4096 = 0 ∧ (tgt i ≠ 3 → dev i = 0) ∧ d i 5 % 8 = 0 ∧
      (flag i 1 = true → d i 2 = 0 ∧ tgt i = 0 ∧ (flag i 6 && flag i 7) = false) ∧
      (flag i 1 = false → (flag i 6 || flag i 7) = false)
    let covers (i : Nat) : Prop := d i 0 ≤ va ∧ va < d i 1
    let passed (i : Nat) : Prop := ∀ j, j < i → flag j 0 = true → good j ∧ ¬ covers j
    let sends (r w e : Bool) (tgt dev pa : Nat) (comp : Bool) : Xlat :=
      if (match kind with | .read => r | .write => w | .rw => r && w | .fetch => e) = false then .fault 0x43 0
      else if tgt = 1 then (if Config.secondTier then .at .tier2 pa comp else .fault 0x42 0)
      else if tgt = 2 then .at .host pa false
      else if tgt = 3 then .at (.peer (BitVec.ofNat 21 dev)) pa false
      else .at .hbm pa comp
    (∀ i, i < x.rcnt → passed i → flag i 0 = true →
      (¬ good i → y = .fault 0x48 (BitVec.ofNat 32 (5 + 256 * i))) ∧
      (good i → covers i → flag i 1 = false →
        y = sends (flag i 2) (flag i 3) (flag i 4) (tgt i) (dev i) (d i 2 + (va - d i 0)) (flag i 5))) ∧
    (∀ e : Option Nat, (match e with
        | none => passed x.rcnt
        | some i => i < x.rcnt ∧ passed i ∧ flag i 0 = true ∧ good i ∧ covers i ∧ flag i 1 = true) →
      let has (b : Nat) : Bool := match e with | none => true | some i => flag i b
      let absent : Xlat := match e with
        | none => .fault 0x42 0
        | some i =>
          if flag i 6 = true then
            if kind = .read then .fill (BitVec.ofNat 64 (d i 4)) (d i 5) ((va - d i 0) / 2 ^ 16)
            else if kind = .fetch then .fault 0x42 0 else .fault 0x47 0
          else if flag i 7 = true then .page else .fault 0x42 0
      (x.pt0 = 0 → y = absent) ∧
      (∀ (n : Nat) (at_ : Nat → Nat), n ≤ 4 → x.pt0 ≠ 0 → at_ 0 = x.pt0 →
        let index (l : Nat) : Nat := va / 2 ^ (48 - 9 * l) % 512
        let w (l : Nat) : Nat := dword (at_ l + 8 * index l)
        let size (l : Nat) : Nat := w l / 2 ^ 58 % 8
        let target (l : Nat) : Nat := w l / 2 ^ 56 % 4
        let place (l : Nat) : Nat := w l / 2 ^ 12 % 2 ^ 40 * 4096
        let clear (l : Nat) : Prop := w l < 2 ^ 61 ∧ w l / 2 ^ 52 % 16 = 0 ∧ w l / 2 ^ 7 % 32 = 0 ∧ (w l).testBit 2 = false
        let table (l : Nat) : Prop := (w l).testBit 0 = true ∧ clear l ∧ (w l).testBit 1 = false ∧ l < 4 ∧
          size l = 0 ∧ target l = 0 ∧ w l / 2 ^ 3 % 16 = 0
        let span : Nat := [2 ^ 12, 2 ^ 16, 2 ^ 21, 2 ^ 30, 2 ^ 32].getD (size n) 1
        let leaf : Prop := clear n ∧ (w n).testBit 1 = true ∧ target n ≠ 3 ∧ place n % span = 0 ∧
          (size n, n) ∈ [(3, 2), (4, 2), (2, 3), (0, 4), (1, 4)]
        (∀ l, l < n → table l ∧ at_ (l + 1) = place l) →
          ((w n).testBit 0 = false → y = absent) ∧
          ((w n).testBit 0 = true → ¬ leaf → ¬ table n → y = .fault 0x48 (BitVec.ofNat 32 (n + 256 * index n))) ∧
          ((w n).testBit 0 = true → leaf → y = sends ((w n).testBit 3 && has 2) ((w n).testBit 4 && has 3)
            ((w n).testBit 5 && has 4) (target n) 0 (place n + va % span) ((w n).testBit 6))))) ∧
  ∀ s : State, s.Inv → s.powered = true →
    let n := s.sel.data.length
    let k := physKey (if s.sel.yes then .tier2 else .hbm) s.sel.num
    n ≠ 0 → s.sel.num % 128 + n ≤ 128 → s.sel.num % 32 = 0 → n % 32 = 0 → s.sel.write = false →
    lineBase k ∉ s.ueMeta → noiseWritten s k (s.sel.data.map some) = [] → Due s .stationWrite fun t =>
      (∀ j, j ∈ t.ueData ↔ j ∈ s.ueData ∧ ∀ i, i < 4 → covers k n i = true → j ≠ lineBase k + 32 * i) ∧
      (∀ j, j ∈ t.ceData ↔ j ∈ s.ceData ∧ ∀ i, i < 4 → covers k n i = true → j ≠ lineBase k + 32 * i) ∧
      (∀ j, j < n → readByte t.mem (k + j) = s.sel.data.getD j 0) ∧
      (∀ j, inRanges [(k, n)] j = false → readByte t.mem j = readByte s.mem j) ∧
      (∀ j, lineBase j ≠ lineBase k → lineMetaOf t j = lineMetaOf s j) ∧ tagOf (lineMetaOf t k) = 0 ∧
      (∀ i, i < 4 → if covers k n i then poisoned (lineMetaOf t k) i = false ∧
          checkOf (lineMetaOf t k) i = sectorCheck (readBytes t.mem (lineBase k + 32 * i) 32)
        else poisoned (lineMetaOf t k) i = poisoned (lineMetaOf s k) i ∧
          checkOf (lineMetaOf t k) i = if tagOf (lineMetaOf s k) = 0 then checkOf (lineMetaOf s k) i
            else sectorCheck (readBytes s.mem (lineBase k + 32 * i) 32)) ∧
      t.ceMeta = (if lineBase k ∈ s.ceMeta then setPut s.ceMeta (lineBase k) false else s.ceMeta) ∧
      t.corrected = (if lineBase k ∈ s.ceMeta then countCorrected s.corrected (lineBase k) else s.corrected) ∧
      { t with
        mem := s.mem, lineMeta := s.lineMeta, ueData := s.ueData, ceData := s.ceData, ceMeta := s.ceMeta,
        corrected := s.corrected, badBytes := s.badBytes } = s

/-- R186, R187, R188 to R190: an arrival is counted in its episode, which opens with the first; with the last one, which is
the first when N is 1, every arrival has its rank, in arrival order, and the episode is over; another count faults 0x62. A
message at the head of a queue reaches the core of its process, or the
Gaffer, which also takes one that a message for that core is still before (R190, R370).

Model's choice, log 22: which core takes a message that none of several cores is named for. -/
def Obligations.BarriersAndChannels : Prop :=
  ∀ (s : State), s.Inv → s.powered = true →
    let c := s.sel.core
    let sl := s.sel.slot
    let x := s.selSlot
    (∀ o name n, c ≠ remoteCore → sl < 16 → x.findOp s.sel.num = some o → o.kind = .barrier name n → o.st = .sent →
      x.clearBefore o.tid o.seq = true →
      let e := (s.episodes.find? fun e => e.name == name).getD { name := name, n := n, arrivals := [] }
      let others := s.episodes.filter fun e => e.name ≠ name
      let l := e.arrivals ++ [(c, sl, s.sel.num)]
      (e.n = n → l.length ≠ n → Due s .barrierArrival fun t =>
        t = { s.setSlot c sl (x.setOp { o with st := .waiting }) with
          episodes := others ++ [{ name := e.name, n := n, arrivals := l }] }) ∧
      (e.n ≠ n → x.takes o.tid = true → Due s .barrierArrival fun t =>
        t = s.setSlot c sl (x.faulted o 0x62 (BitVec.ofNat 64 n) (BitVec.ofNat 32 e.n))) ∧
      (e.n = n → l.length = n → l.Nodup → (∀ a ∈ e.arrivals, a.1 ≠ remoteCore ∧ a.2.1 < 16 ∧
          ∃ p m, (s.slot a.1 a.2.1).findOp a.2.2 = some p ∧ p.kind = .barrier name m ∧ p.st = .waiting) →
        Due s .barrierArrival fun t => t.episodes = others ∧ ∀ i a, l[i]? = some a →
          ∃ p, (s.slot a.1 a.2.1).findOp a.2.2 = some p ∧
            (t.slot a.1 a.2.1).findOp a.2.2 = some { p with st := .done (BitVec.ofNat 128 i) })) ∧
    (∀ m rest, x.outq = m :: rest → s.sel.num = 0 → m.held = false → x.clearBefore m.tid m.seq = true →
      let u := s.setSlot c sl { x with outq := rest }
      let y := s.core m.dest
      (takesDirect s m.dest m.msg.pid = true → y.rx.length < 64 → y.recvs = [] →
        Due s .channelDelivery fun t => t = u.setCore m.dest { y with rx := y.rx ++ [m.msg] }) ∧
      (takesDirect s m.dest m.msg.pid = false → Due s .channelDelivery fun t =>
        t = { u with gaffer := { s.gaffer with msgs := s.gaffer.msgs ++ [(m.dest, m.msg)] } }))

/-- R112, R192, R220, R221, R276, R277: a stream's next element is fetched behind those before it; a solved q register
receives its settings; a fork's record goes to the bottom of the deque; the lowest idle slot runs the bottom record
on the lowest free block.

Model's reading, log 42: when a record is pushed and when an element is fetched. -/
def Obligations.StreamsAndThreads : Prop :=
  ∀ (s : State), s.Inv → s.powered = true →
    let c := s.sel.core
    let sl := s.sel.slot
    let x := s.selSlot
    let y := s.core c
    (∀ b v, mapFind x.streams s.sel.num = some b → b.fetched < b.total → b.fifo.length < 4 →
      x.storeBefore x.tid b.seq = false → y.pre = none → b.failed = false → streamNext s c b = .ok v [] →
      Due s .streamElementArrival fun t => t = s.setSlot c sl { x with
        streams := mapPut x.streams s.sel.num { b with
          fifo := b.fifo ++ [.value (BitVec.ofNat 128 v)], fetched := b.fetched + 1 } }) ∧
    (∀ z rest, x.solves = z :: rest → Due s .routeSolveComplete fun t =>
      Alters s t c sl { x with solves := rest } (workspaceKeys c z.block [(0x300 + 48 * z.q.toNat, 48)]) ∧
      qReg t c z.block z.q = BitVec.ofNat 384 (z.value.toNat % 2 ^ 352)) ∧
    (∀ o a rec, x.findOp s.sel.num = some o → o.kind = .fork a rec → rec.length = 64 →
      ((∃ v, o.st = .done v) ∨ o.st = .sent ∧ a = 0 ∧ x.clearBefore o.tid o.seq = true) →
      y.depth < 64 → x.dying = false → Due s .forkRecordPush fun t =>
        t.slot c sl = x.delOp o ∧ dequeRec t c (y.dqTop + y.depth) = rec ∧
        t.core c = { y with dqLaunch := y.dqLaunch ++ [o.launch], dirty := (t.core c).dirty } ∧
        ∀ k, inRanges [(localKey c .wm (dequeAt (y.dqTop + y.depth)), 64)] k = false →
          readByte t.mem k = readByte s.mem k) ∧
    (∀ b rest, lowestIdle s c = some s.hereSlot → 0 < y.depth → y.pool = b :: rest →
      Due s .idleSlotSeek fun t =>
        let d := recSeeds (dequeRec s c (y.dqTop + y.depth - 1))
        (t.slot c s.hereSlot).wspV = true ∧ (t.slot c s.hereSlot).block = b ∧
        (t.slot c s.hereSlot).tid = s.here.last + 1 ∧ pcImage t c b = d.pc ∧
        (∀ r : Reg, gReg t c b r = if r = 0 then 0 else d.g.getD (r.toNat - 1) 0) ∧
        (t.core c).depth + 1 = y.depth ∧ (t.core c).pool = setPut y.pool b false ∧
        ∀ k, k ≠ slotKey c s.hereSlot → mapGet Slot.reset t.slots k = mapGet Slot.reset s.slots k)

/-- R233, R238 to R240: an engine takes the oldest command of the next slot in turn; a command that ends counts into its
barrier object, leaves its result element and frees its engine.

R243 to R250, R292 to R295: what the commands move: each element of a window in order, with its fill, into the place that the
destination's record gives it; rows by an index list; elements converted and their dimensions turned; chunks expanded, and the
failed ones recorded. R251, R252: a collective's command joins its instance, and a full instance gives every participant its
value.

R89 to R92, R203, R207, R208, R211, R227: what a matrix operation has written when it retires, element by element.

Model's choice, log 8: a command moves all its data in the step that completes it; log 40: when a slot's next
command starts. Model's reading, log 75: the sign of an infinite group sum times its scales. -/
def Obligations.EnginesAtWork : Prop :=
  (∀ (t : Tlr) (co : List Nat) (i d : Nat),
    let n := 128 / t.elem.cont
    let k := t.eoff + nth co 0
    let along := (((List.range t.rank).drop 1).map fun d => nth co d * nth t.strs d).sum
    let o := (if t.elem.cont < 8 then 16 * (k / n) + k % n % 16 else nth co 0 * (t.elem.cont / 8)) + along
    let turn := if t.bank ≤ 6 then o / (128 * 2 ^ (t.bank - 1)) else nth co 1
    t.locate co = (if t.bank = 0 then o else o / 128 * 128 + (o / 16 + turn) % 8 * 16 + o % 16,
      if t.elem.cont < 8 then k % n / 16 else 0) ∧
    (t.wins.length = 5 → t.rank ≤ 5 → d < t.rank →
      nth (t.coord i) d = i / ((t.wins.take d).foldl (· * ·) 1) % nth t.wins d ∧
      (t.tensor (t.coord i)).getD d 0 = t.orgs.getD d 0 + ((nth (t.coord i) d : Nat) : Int)) ∧
    (t.elem.bits ≤ 32 → t.fillBits = t.fill % 2 ^ t.elem.bits) ∧
    (t.elem.bits = 64 → t.fill < 2 ^ 32 → t.fillBits = match t.elem.kind with
      | .int sg => if sg ∧ 2 ^ 31 ≤ t.fill then t.fill + 2 ^ 64 - 2 ^ 32 else t.fill
      | .float f => (f.convert modeRNE 0 (fmt32.decode t.fill)).1)) ∧
  (∀ (s : State) (c e : Nat) (cmd : EngCmd) (src dst : Tlr) (gl : Nat → List Byte),
    EngCmd.record s c cmd.dst = some dst → s.Fits dst gl c true →
    let x := (Run.start s).execute c e cmd
    let opc := hdrOpc cmd.hdr
    let arg := hdrArg cmd.hdr
    let ends (p : List Host.Cell × Nat) := x.stop = none ∧ x.bad = [] ∧ (x.run.s.mem, x.done) = p
    (e = 0 → opc = 1 → cmd.src = [] →
      ends (moved dst.count (fun i => dst.placed c (dst.tensor (dst.coord i)) dst.fillBits) (s.mem, 0))) ∧
    (cmd.src ≠ [] → EngCmd.record s c cmd.src = some src → s.Fits src gl c false →
      (e = 0 → opc = 0 → ends (moved dst.count (fun i p =>
        let w := dst.coord i
        let u := if bitAt cmd.hdr 6 then w.set 1 ((permOf cmd.q).getD (nth w 1) 0) else w
        dst.placed c (dst.tensor w) (src.seen gl c p.1 (src.tensor u)) p) (s.mem, 0))) ∧
      (e = 1 → src.rank = 2 → dst.rank = 2 →
        let wide := if bitAt arg 19 then 4 else 2
        let rows := if opc = 0 then nth dst.wins 1 else nth src.wins 1
        let index (m : List Host.Cell) (j : Nat) : Nat :=
          if bitAt arg 20 then (cmd.operands.getD (j / 8) 0).toNat / 2 ^ (16 * (j % 8)) % 2 ^ 16
          else ofBytes (readBytes m (localKey c .wm (field arg 16 0 + wide * j)) wide)
        let row (t : Tlr) (i k : Nat) : List Int := [t.orgs.getD 0 0 + (i : Int), t.orgs.getD 1 0 + (k : Int)]
        (bitAt arg 20 = true → bitAt arg 19 = false) →
        (bitAt arg 20 = false → field arg 16 0 + wide * rows ≤ 2 ^ 17) →
        let each (f : Nat → Nat → Nat → List Host.Cell × Nat → List Host.Cell × Nat) :=
          ends (moved rows (fun j p => let k := index p.1 j
            if k = 2 ^ (8 * wide) - 1 then p else moved (nth (if opc = 0 then dst else src).wins 0) (f j k) p) (s.mem, 0))
        (opc = 0 → each fun j k i p => dst.placed c (row dst i j) (src.seen gl c p.1 (row src i k)) p) ∧
        (opc = 1 → each fun j k i p => dst.placed c (row dst i k) (src.seen gl c p.1 (row src i j)) p) ∧
        (opc = 2 → each fun j k i p => dst.placed c (row dst i k)
          (dst.elem.plus (dst.code gl c p.1 ((row dst i k).map Int.toNat)) (src.seen gl c p.1 (row src i j))) p)) ∧
      (e = 2 → opc = 0 → src.rank = dst.rank → dordOk arg dst.rank = true →
        let turned (w : List Nat) := (List.range src.rank).map fun k =>
          nth w ((List.range dst.rank).findIdx fun d => field arg (3 * d + 2) (3 * d) == k)
        let value (m : List Host.Cell) (i : Nat) : Machine.Num :=
          src.elem.decode (src.seen gl c m (src.tensor (turned (dst.coord i))))
        ends (moved dst.count (fun i p => dst.placed c (dst.tensor (dst.coord i))
          (dst.elem.convert (field arg 17 15) 0 (value p.1 i)).1 p) (s.mem, 0))) ∧
      (∀ (blob : List Byte) (pos plen : Nat → Nat) (out : Nat → List Nat), e = 2 → opc = 1 → src.rank = 1 →
        src.elem = intElem false 8 → src.space ≠ dst.space → blob.length = src.count →
        (∀ i, i < src.count → blob.getD i 0 = BitVec.ofNat 8 (src.seen gl c s.mem (src.tensor [i]))) →
        let num (l : List Byte) (a k : Nat) := ofBytes ((l.drop a).take k)
        let chunks := num blob 0 4
        let syms := 32 * num blob 4 2
        let table := readBytes s.mem (localKey c .wm (field arg 16 0)) 2060
        let prec := num table 0 1 % 32
        let n := num table 0 2 / 32 + 1
        let freq (j : Nat) := num table (8 + 4 * j) 2
        let cum (j : Nat) := num table (10 + 4 * j) 2
        let chunk (k : Nat) := (blob.drop (pos k)).take (0x90 + plen k)
        16 ≤ src.count → num blob 6 2 = 0 → num blob 8 8 = 0 → chunks * syms = dst.count → num table 0 8 < 2 ^ 14 →
        0 < prec → prec ≤ 16 → n ≤ 2 ^ dst.elem.bits → field arg 16 0 + 8 + 4 * n ≤ 2 ^ 17 → pos 0 = 16 →
        (∀ k, k < chunks → plen k = num blob (pos k) 4 ∧ pos (k + 1) = pos k + (0x90 + plen k + 15) / 16 * 16 ∧
          pos (k + 1) ≤ src.count ∧
          (Expands prec n freq cum (chunk k) (plen k) syms (out k) ∨
            (∀ l, ¬ Expands prec n freq cum (chunk k) (plen k) syms l) ∧ out k = List.replicate syms 0)) →
        bitAt arg 38 = false → x.stop = none ∧
          (∀ k, k ∈ x.bad ↔ k < chunks ∧ ∀ l, ¬ Expands prec n freq cum (chunk k) (plen k) syms l) ∧
          x.bad.Pairwise (· < ·) ∧
          (x.run.s.mem, x.done) = moved chunks (fun k => moved syms fun i =>
            dst.placed c (dst.tensor (dst.coord (k * syms + i))) (nth (out k) i)) (s.mem, 0)))) ∧
  (∀ (x : Xfer) (c : Nat) (cmd : EngCmd), c < 4096 → let arg := hdrArg cmd.hdr
    let a := field arg 35 19
    (bitAt arg 38 = false → x.listAll c cmd = x) ∧
    (bitAt arg 38 = true → 0x4A8 ≤ a → a + 8 ≤ 2 ^ 17 → (x.listAll c cmd).run.s.mem = x.bad.foldl (fun m k =>
      let count := ofBytes (readBytes m (localKey c .wm a) 4)
      let cap := ofBytes (readBytes m (localKey c .wm a + 4) 4)
      let off := a + 8 + 4 * count
      let m := if count < cap ∧ off + 4 ≤ 2 ^ 17 then writeBytes m (localKey c .wm off) (toBytes 4 k) else m
      writeBytes m (localKey c .wm a) (toBytes 4 (min (count + 1) (2 ^ 32 - 1)))) x.run.s.mem)) ∧
  (∀ (s : State) (c row k : Nat) (o : MatOp) (m : Munf), o.munf = some m →
    let t := o.tensor
    let dim (d : Nat) := if d < t.rank then nth t.dims d else 1
    let ow := field m.gc 15 0 + 1
    let oh := field m.gc 31 16 + 1
    let kw := field m.gb 3 0 + 1
    let kh := field m.gb 7 4 + 1
    let taps := dim 0 * kw * kh
    let x := t.orgs.getD 1 0 + ((row % ow * (field m.gb 11 8 + 1) + k / dim 0 % kw * (field m.gb 19 16 + 1) : Nat) : Int)
    let y := t.orgs.getD 2 0 +
      ((row / ow % oh * (field m.gb 15 12 + 1) + k / (dim 0 * kw) * (field m.gb 23 20 + 1) : Nat) : Int)
    let n := row / (ow * oh)
    let elem (x y : Int) (n : Nat) := t.code (fun _ => []) c s.mem [k % dim 0, x.toNat, y.toNat, n]
    t.space = 3 → (∀ d, 0 < dim d) → (∀ co : List Nat, co.length = 4 → (∀ d, d < 4 → nth co d < dim d) →
      t.base + (t.locate co).1 + t.accessed ≤ 2 ^ 17) →
    o.aCode s c row k =
      if ow * oh * (field m.gc 47 32 + 1) ≤ row ∨ taps ≤ k then 0
      else if 0 ≤ x ∧ x < (dim 1 : Int) ∧ 0 ≤ y ∧ y < (dim 2 : Int) ∧ n < dim 3 then elem x y n
      else if t.fillm = 1 then t.fillBits
      else if t.fillm = 2 then elem (max 0 (min x (dim 1 - 1))) (max 0 (min y (dim 2 - 1))) (min n (dim 3 - 1))
      else 0) ∧
  ∀ (s : State), s.Inv → s.powered = true →
    let c := s.sel.core
    let y := s.core c
    let e := s.sel.num
    (∀ n sl cmd rest, e < 4 → (y.engine e).run = none → n < 16 → sl = ((y.engine e).last + 1 + n) % 16 →
      startable s c e sl = true →
      (∀ j, j < n → startable s c e (((y.engine e).last + 1 + j) % 16) = false) →
      ((s.slot c sl).port e).cmds = cmd :: rest → Due s .engineCommandStart fun t =>
        t = (s.setSlot c sl ((s.slot c sl).setPort e { (s.slot c sl).port e with cmds := rest })).setCore c
          (y.setEngine e { run := some (sl, cmd), last := sl, tries := 0 })) ∧
    (∀ sl cmd, (y.engine e).run = some (sl, cmd) → e ≠ 3 →
      let x := (Run.start s).execute c e cmd
      (x.stop = none → Due s .engineCommandComplete fun t =>
        t = applyAll s ((x.run.reportDone c sl e cmd x.done x.bad.length none).engineFree c e).done) ∧
      (∀ f a, x.stop = some (.fault f a) → Due s .engineCommandComplete fun t =>
        t = applyAll s
          ((x.run.reportDone c sl e cmd x.done x.bad.length (some (f, a))).engineFree c e).done)) ∧
    (∀ sl cmd n bad, clearOfWindow (hdrBar cmd.hdr).toNat 8 → let h := cmd.hdr
      let k := localKey c .wm ((hdrBar h).toNat % 2 ^ 17)
      let t := ((Run.start s).reportDone c sl e cmd n bad none).s
      (hdrBaren h = true → (t.wordAt k 8).getLsbD 63 = (s.wordAt k 8).getLsbD 63 ∧
        field (t.wordAt k 8) 62 0 = (field (s.wordAt k 8) 62 0 + 1) % 2 ^ 63) ∧
      (bitAt h 7 = true → t.slot c sl = (s.slot c sl).setPort e { (s.slot c sl).port e with
        results := ((s.slot c sl).port e).results ++ [BitVec.ofNat 128
          (s.time.toNat * 2 ^ 64 + n % 2 ^ 32 * 2 ^ 16 + min bad 255 * 2 ^ 8)] })) ∧
    (∀ sl cmd z, e = 3 → (y.engine 3).run = some (sl, cmd) → EngCmd.shape s c cmd = some z →
      (s.colls.find? fun k => k.same (instanceOf s c cmd)) = none → Due s .engineCommandComplete fun t =>
        t = ({ s with colls := s.colls ++ [{ instanceOf s c cmd with
          parts := [{ core := c, slot := sl, cmd := cmd }] }] } : State).setCore c
            (y.setEngine 3 { y.engine 3 with run := none, tries := 0 })) ∧
    (∀ k q, s.colls[e]? = some k → k.ready s = true →
      (Run.start s).collective k none = .finished q → exec .collectiveComplete s = .next (applyAll s q.done)) ∧
    (∀ (k : Collective) (ps : List Contribution) (src dst : Contribution → Tlr) (gl : Contribution → Nat → List Byte) (n : Nat),
      s.colls[e]? = some k → k.ready s = true → ps.Perm k.parts → ps.Pairwise (fun a b => a.core < b.core) →
      (∀ p ∈ ps, EngCmd.record s p.core p.cmd.dst = some (dst p) ∧ s.Fits (dst p) (gl p) p.core true ∧ (dst p).count = n) →
      let others (j : Nat) := ∀ p ∈ ps, hdrBaren p.cmd.hdr = true →
        inRanges [(localKey p.core .wm ((hdrBar p.cmd.hdr).toNat % 2 ^ 17), 8)] j = false
      let gives (v : Nat → Nat) := Due s .collectiveComplete fun t => ∀ j, others j →
        readByte t.mem j = readByte (ps.foldl (fun m p => (moved n (fun i =>
          (dst p).placed p.core ((dst p).tensor ((dst p).coord i)) (v i)) (m, 0)).1) s.mem) j
      let takes (p : Contribution) (i : Nat) := (src p).seen (gl p) p.core s.mem ((src p).tensor ((src p).coord i))
      let reads (p : Contribution) := EngCmd.record s p.core p.cmd.src = some (src p) ∧ s.Fits (src p) (gl p) p.core false ∧
        (src p).count = n
      (∀ p0 rest, k.opc ≠ 1 → ps = p0 :: rest → (∀ p ∈ ps, reads p) →
        let f := (src p0).elem
        let rop := field (hdrArg p0.cmd.hdr) 31 29
        rop < 3 → gives fun i => tree (if rop = 0 then f.plus else f.pick (rop == 2)) ps.length (ps.map fun p => takes p i)) ∧
      (∀ root ∈ ps, k.opc = 1 → hdrSrc root.cmd.hdr ≠ 0 → (∀ p ∈ ps, p ≠ root → hdrSrc p.cmd.hdr = 0) → reads root →
        gives (takes root))) ∧
    (∀ r o rest, (s.quad e).exec = some r → (s.core (quadMember e r)).matq = o :: rest → s.badBytes = [] →
      Due s .matrixOperationRetire fun t =>
        t.core (quadMember e r) = { s.core (quadMember e r) with matq := rest } ∧
        t.slots = s.slots ∧
        let c := quadMember e r
        let ga := field o.ga 15 0
        let off := field o.gb 16 0
        let pitch := field o.gb 40 24
        let sp := bufferOf (field o.gb 19 17)
        let wide := if o.kind = .mma ∨ o.kind = .mmac then o.bCode == 0x13 else bitAt o.xop (if o.kind = .mmz then 0 else 1)
        let f := if wide then fmt64 else fmt32
        let size := if wide then 8 else 4
        let pi (i : Nat) := if o.kind = .qtile ∨ bitAt o.xop 6 then (permOf o.q).getD i 0 else i
        let old (i j : Nat) := ofBytes (readBytes s.mem (localKey c .cb (ga + (64 * i + j) * size)) size)
        let new (i j : Nat) := ofBytes (readBytes t.mem (localKey c .cb (ga + (64 * i + j) * size)) size)
        let tile := (localKey c .cb ga, 4096 * size)
        let rows (n : Nat) := (List.range 64).map fun i => (localKey c sp (off + i * pitch), n)
        let stays (l : List (Nat × Nat)) := ∀ j, inRanges l j = false → readByte t.mem j = readByte s.mem j
        (o.kind = .mmz → ga + 4096 * size ≤ 2 ^ 16 → stays [tile] ∧ ∀ i j, i < 64 → j < 64 → new i j = 0) ∧
        (∀ fo, o.kind = .mmd → recordElem o.nf (field o.gb 55 48) = some (.ok fo) → drainFmt wide (field o.gb 55 48) (some fo) →
          let n := rowLength fo
          ga + 4096 * size ≤ 2 ^ 16 → noBuffer o.gb = false → off + 63 * pitch + n ≤ spaceBytes sp → n ≤ pitch →
          (∀ i, i < 64 → sp = .cb → off + i * pitch + n ≤ ga ∨ ga + 4096 * size ≤ off + i * pitch) →
          (∀ i j, i < 64 → j < 64 → inRowCode fo t.mem (localKey c sp (off + i * pitch)) j =
            (fo.convert modeRNE 0 (f.decode (old (pi i) j))).1 % 2 ^ fo.bits) ∧
          (if bitAt o.xop 2 then stays (tile :: rows n) ∧ ∀ i j, i < 64 → j < 64 → new i j = 0 else stays (rows n))) ∧
        (o.kind = .qtile → let n := field o.gb 60 48
          noBuffer o.gb = false → off + 63 * pitch + n ≤ spaceBytes sp → n ≤ pitch → stays (rows n) ∧
          ∀ i, i < 64 → readBytes t.mem (localKey c sp (off + i * pitch)) n =
            readBytes s.mem (localKey c sp (off + pi i * pitch)) n) ∧
        (∀ m fa fb k, o.kind = .mma ∨ o.kind = .mmac → o.munf = some m →
          recordElem o.nf (tf m.tlr 1 7 0) = some (.ok fa) → recordElem o.nf (field m.gc 55 48) = some (.ok fb) →
          gemmK (tf m.tlr 1 7 0) fa = some k → gemmK (field m.gc 55 48) fb = some k → (o.kind = .mmac → k ≠ 16) →
          ga + 4096 * size ≤ 2 ^ 16 → off + (if o.kind = .mma then 8192 else 4096) ≤ 2 ^ 17 →
          let a (i k : Nat) := o.aCode s c (field o.gc 31 0 + pi i) (field o.gc 55 32 + k)
          let b (k j : Nat) := inRowCode fb s.mem (localKey c .wb (off + k * rowLength fb)) j
          let scale (used : Bool) (w : Word) (i : Nat) : Machine.Num := if used then fmt32.decode (ofBytes (readBytes s.mem
            (localKey c (bufferOf (field w 19 17)) (field w 16 0 + 4 * i)) 4)) else .fin false 1 0
          let sa (i : Nat) := scale (bitAt o.xop 1) o.sca (pi i)
          let sb (j : Nat) := scale (bitAt o.xop 0) o.scb j
          let sums (f : Fmt) (sa sb : Machine.Num) (old : Nat) (terms : Nat → List Machine.Num) :=
            (List.range (k / 16)).foldl (fun v g => accumulated f sa sb v (terms g)) old
          stays [tile] ∧ ∀ i j, i < 64 → j < 64 →
            (o.kind = .mma → new i j = sums f (sa i) (sb j) (old i j) fun g => (List.range 16).map fun n =>
              product fa fb (a i (16 * g + n)) (b (16 * g + n) j)) ∧
            (o.kind = .mmac → j < 32 →
              let group (l : Nat → List Machine.Num) (g : Nat) := (List.range 8).flatMap fun n => l (8 * g + n)
              let re (n : Nat) := a i (2 * n)
              let im (n : Nat) := a i (2 * n + 1)
              new i (2 * j) = sums fmt32 (sa i) (sb j) (old i (2 * j)) (group fun n =>
                [product fa fb (re n) (b n (2 * j)), (product fa fb (im n) (b n (2 * j + 1))).negate]) ∧
              new i (2 * j + 1) = sums fmt32 (sa i) (sb j) (old i (2 * j + 1)) (group fun n =>
                [product fa fb (re n) (b n (2 * j + 1)), product fa fb (im n) (b n (2 * j))]))))

/-! ### Licences, levels and power -/

/-- R213 to R215, R355: the licence of a quad pair. The quantum ends with a yield; a licence passes to the waiting twin when
the holder is done with it, and with the retirement of the operation at which its quantum has run out; a service grants a free licence to the quad of a pair that asks.

Model's reading, log 43 and 44: the steps in which the quantum and a service come. -/
def Obligations.Licences : Prop :=
  ∀ (s : State) (q : Nat), s.Inv → s.powered = true → q = s.sel.num →
    let x := s.quad q
    let w := s.quad (twinQuad q)
    (x.held = true → x.yield = false → w.wait = true → 50000 ≤ s.time.toNat - x.grant →
      Due s .licenceQuantumExpiry fun t => t = s.setQuad q { x with yield := true }) ∧
    (q < 1024 → s.paused = false → x.held = true → w.wait = true →
      ((queuedLicensed s q = 0 ∧ x.hold = 0) ∨
        ((x.yield = true ∨ 50000 ≤ s.time.toNat - x.grant) ∧ x.exec = none) ∨ (x.pre = true ∧ queuedLicensed s q = 0)) → Due s .licencePass fun t =>
      let y := t.quad q
      let z := t.quad (twinQuad q)
      y.held = false ∧ y.yield = false ∧ y.pre = false ∧ y.hold = 0 ∧
      y.wait = decide (0 < queuedLicensed s q) ∧
      z.held = true ∧ z.wait = false ∧ z.grant = s.time.toNat ∧
      (∀ k, k ≠ q → k ≠ twinQuad q → t.quad k = s.quad k) ∧ { t with quads := s.quads } = s) ∧
    (∀ r o rest, q < 1024 → s.paused = false → x.held = true → w.wait = true → 50000 ≤ s.time.toNat - x.grant →
      x.exec = some r → (s.core (quadMember q r)).matq = o :: rest → s.badBytes = [] →
      Due s .matrixOperationRetire fun t => (t.quad q).held = false ∧ (t.quad (twinQuad q)).held = true) ∧
    (s.gaffer.serviceAt ≤ s.time.toNat → s.paused = false → Due s .licenceService fun t =>
      t.gaffer = { s.gaffer with serviceAt := (s.time.toNat / 1000 + 1) * 1000 } ∧
      { t with quads := s.quads, gaffer := s.gaffer } = s ∧
      ∀ a ∈ quadPairs, (s.quad a).held = false → (s.quad (twinQuad a)).held = false →
        reportedWait s a = true → reportedWait s (twinQuad a) = false →
        (t.quad a).held = true ∧ (t.quad a).wait = false ∧ (t.quad a).grant = s.time.toNat ∧
        (t.quad (twinQuad a)).held = false)

/-- R281, R398, R399, R401: a launch whose threads have all slept for 4,096 ticks is trapped 0x65 at what each awaits; a
core applies its domain's level at the turn of slot 0, before the instruction that issues there; at a boundary a partition grants a claim one of its permits,
and every other domain falls to level 12.

Model's reading, log 17, 44, 49 and 50: what counts as in flight, when a boundary and a sample come. -/
def Obligations.HangsAndLevels : Prop :=
  ∀ s : State, s.Inv → s.powered = true →
    (∀ y n, mapFind s.gaffer.launches s.sel.num = some y → y.quietAt = some n → s.paused = false →
      y.hung = false → n + 4095 ≤ s.time.toNat → launchQuiet s s.sel.num = true →
      Due s .hangDetected fun t => ∀ p ∈ launchSlots s s.sel.num, ∀ kind a,
        listedSleep s p.1 p.2 = some (kind, a) → ∃ r, (t.slot p.1 p.2).trap = some { record := r, queued := false } ∧
          r.cause = 0x65 ∧ r.aux = a ∧ r.aux2 = BitVec.ofNat 32 kind) ∧
    (∀ c, c = s.sel.core → turnSlot s c = 0 → setLevel s c ≠ (s.core c).level →
      Due s .slotLevelApply fun t => t = s.setCore c { s.core c with level := setLevel s c }) ∧
    (∀ c i, c = s.sel.core → turnSlot s c = 0 → setLevel s c ≠ (s.core c).level → encode i ≠ none →
      exec i s = exec i (s.setCore c { s.core c with level := setLevel s c })) ∧
    (s.power.boundary ≤ s.time.toNat →
      (s.power.parts = [] → Due s .boostIntervalBoundary fun t =>
        t.power.boundary = s.power.boundary + 10000 ∧ t.power.opened = t.power.level ∧
        ∀ d, d < 64 → mapGet 12 t.power.level d = 12) ∧
      (∀ k p z, s.power.parts = [(k, p)] → claimsOf s p = [z] → z.domain < 64 → p.dmask.getLsbD z.domain = true →
        0 < p.permits → p.idle = 0 → s.power.thermal < 2 →
        Due s .boostIntervalBoundary fun t => mapGet 12 t.power.level z.domain = 15 ∧
          (mapFind t.power.parts k).map Part.permits = some (p.permits - 1) ∧
          ∀ d, d < 64 → d ≠ z.domain → mapGet 12 t.power.level d = 12))

/-- R448, R450, R451: a reading at a threshold raises the thermal level, which falls once every sensor has been 5 °C below
for 1 ms; at level 2 no domain stays above 12. The trip cuts the power, and no step follows until power is good, which
leaves only what the standby rail held. MEMORY writes every line but the save areas that the context table names; a part
with a bad HBM site stays in SAFE (R3), where the step changes nothing (log 63).

Model's reading, log 30 and 61: when a level falls, and what a trip leaves. -/
def Obligations.ThermalAndTrip : Prop :=
  ∀ s : State, s.Inv → s.sel.num < 80 →
    let temps := mapSet 0 s.power.temps s.sel.num s.sel.aux
    let l := levelOf (hottest temps)
    let cool := coolTimes s.power.cool (hottest temps) s.time.toNat
    let past (k : Nat) : Prop := ∃ n, mapFind cool k = some n ∧ n + 1000000 ≤ s.time.toNat
    let cut : State := { s with powered := false, power := { s.power with retained := contextTable s } }
    (s.powered = true → s.sel.aux < 125 → s.power.thermal < l → Due s .thermalLevelEnter fun t =>
      t.power.thermal = l ∧ t.power.temps = temps ∧ t.power.cool = cool ∧
      (2 ≤ l → ∀ d, d < 64 → mapGet 12 t.power.level d ≤ 12)) ∧
    (s.powered = true → s.sel.aux < 125 → l ≤ s.power.thermal → Due s .thermalLevelLeave fun t =>
      t.power.thermal ≤ s.power.thermal ∧ (∀ k, t.power.thermal < k → k ≤ s.power.thermal → past k) ∧
      (t.power.thermal = 0 ∨ ¬ past t.power.thermal) ∧ t.power.temps = temps) ∧
    (s.powered = true → 125 ≤ s.sel.aux → ∀ i ∈ [Instr.hardTrip, .thermalLevelEnter, .thermalLevelLeave],
      exec i s = .next cut ∧ step { cut with agenda := [] } = .fault .powerOff) ∧
    (Due s .standbyRailLoss fun t => t = { s with power := { s.power with retained := [] } }) ∧
    (s.powered = false → Due s .powerGood fun t =>
      t = { State.reset with
        mem := t.mem, lineMeta := t.lineMeta, agenda := s.agenda, free := s.free, sel := s.sel,
        power := { Power.reset with retained := s.power.retained } } ∧
      ∀ k, readByte t.mem k =
        if inRanges (outsideKeys :: keptKeys s.power.retained) k then readByte s.mem k else 0) ∧
    (s.powered = true → s.mgmt.stage = 1 →
      if Config.badSites = 0 then Due s .memoryTrained fun t =>
        t.mgmt = { s.mgmt with stage := 2, derive := some { next := 0, code := 0, layer := 0 } } ∧
        ∀ k, readByte t.mem k =
          if memoryKey k ∧ inRanges (namedKeys s.power.retained) k = false then 0 else readByte s.mem k
      else exec .memoryTrained s = .next s)

/-! ### Queues and launches -/

/-- R338, R341, R349 to R352: the Gaffer learns WIDX, starts the pending packet of the queue that its service step takes,
and takes a slot from a queue whose page stays away past QHOLD.

R344, R349, R352, R379: packets that a queue has started. A WAIT and a BARRIER-AND hold the queue until their signals
allow, a SIGNAL changes its signal, a SCENE-FRAME arms a schedule, behind those before it. The STATUS of a stopped queue
that could not be written before is written.

Model's reading, log 24, 47 and 48: a queue's first index, its errors, and a schedule's cut; log 16: a SCENE-FRAME
that starts before the context's first core arms the scene that this core will read. -/
def Obligations.QueuePackets : Prop :=
  (∀ (s : State) (k : Nat) (q : Queue), s.Inv → s.powered = true → mapFind s.gaffer.queues k = some q →
    let x := s.queueCtx q
    (k = s.sel.num → q.stopped = false → ∀ v r, (Run.start s).glDword x q.ctl = .ok v r →
      (2 ^ q.size < (v - q.ridx).toNat → Due s .widxUpdate fun t =>
        ∃ z, mapFind t.gaffer.queues k = some z ∧ z.stopped = true ∧ z.packet = q.packet) ∧
      ((v - q.ridx).toNat ≤ 2 ^ q.size → Due s .widxUpdate fun t =>
        ∃ z, mapFind t.gaffer.queues k = some z ∧ z.widx = v ∧ z.ridx = q.ridx ∧ z.stopped = false)) ∧
    (∀ l aged d r r2, s.paused = false → serviceLevel s = some (l, aged) → nextQueue s l = some k →
      (((Run.start s).modGaffer fun g => { g with
        ages := agesAfter s l aged, served := mapSet 0 g.served l (k + 1) }).packet q q.ridx.toNat) = .ok d r →
      packetError x d = none → r.glSetDword x (q.ctl + 8) (q.ridx + 1) = .ok () r2 →
      Due s .gafferServiceStep fun t => ∃ z, mapFind t.gaffer.queues k = some z ∧
        z = { q with ridx := q.ridx + 1, packet := some d, waiting := false } ∧
        t.gaffer.served = mapSet 0 s.gaffer.served l (k + 1) ∧ t.gaffer.ages = agesAfter s l aged) ∧
    (∀ n, k = s.sel.num → q.pageAt = some n → q.slot = true → (∀ l, k ∉ waitList s l) →
      n + (if q.qhold = 0 then 200 else q.qhold) * 1000 ≤ s.time.toNat → Due s .qholdExpiry fun t =>
        ∃ z, mapFind t.gaffer.queues k = some z ∧ z = { q with slot := false, parked := true })) ∧
  (∀ (s : State) (q : Queue) (d : List Word), s.Inv → s.powered = true →
    let k := s.sel.num
    let x := s.queueCtx q
    let h := dw d 0
    let held (t : State) (w : Bool) := ∃ z, mapFind t.gaffer.queues k = some z ∧ z.waiting = w ∧ z.packet = some d
    let gone (t : State) := ∃ z, mapFind t.gaffer.queues k = some z ∧ z.waiting = false ∧ z.packet = none
    (∀ v r, mapFind s.gaffer.queues k = some q → q.status = some v →
      (Run.start s).glSetDword x (q.ctl + 16) v = .ok () r → Due s .signalReread fun t => t.mem = r.s.mem ∧
        mapFind t.gaffer.queues k = some { q with status := none }) ∧
    (∀ i b, (i = Instr.wait ∧ b = false ∨ i = Instr.signalReread ∧ b = true ∧ statusWaits s k = false) → heldPacket s 2 b = some (q, d) →
      ∀ v r, (Run.start s).glDword x (dw d 1).toNat = .ok v r →
        let c := dw d 2
        let ok := [decide (v = c), decide (v ≠ c), decide (v.toNat < c.toNat), decide (c.toNat ≤ v.toNat),
          decide (v.toInt < c.toInt), decide (c.toInt ≤ v.toInt)].getD (field h 11 9) (decide (c.toInt ≤ v.toInt))
        (ok = true → Due s i gone) ∧ (ok = false → Due s i fun t => held t true)) ∧
    (heldPacket s 4 false = some (q, d) → dw d 7 = 0 → ∀ l r,
      (Run.start s).signals x (barrierSignals d) = .ok l r →
        ((∀ v ∈ l, v = 0) → Due s .barrierAnd gone) ∧
        ((∃ v ∈ l, v ≠ 0) → Due s .barrierAnd fun t => held t true)) ∧
    (heldPacket s 3 false = some (q, d) → ∀ r,
      (Run.start s).amoSignal x (dw d 1).toNat (fun o => if field h 11 9 = 0 then dw d 2
        else if field h 11 9 = 1 then o + dw d 2 else o - dw d 2) = .ok () r →
      Due s .signal fun t => gone t ∧ t.mem = r.s.mem) ∧
    (∀ n y, heldPacket s 5 false = some (q, d) → s.ctxAt q.ctxAddr = some (n, y) → Due s .sceneFrame fun t =>
      let armed (l : List Schedule) : List Schedule := (l.map fun w => { w with
          cut := some (match w.cut with | some b => min b (dw d 2).toNat | none => (dw d 2).toNat) }) ++
        [{ queue := some k, index := q.index, first := (dw d 2).toNat, period := field (dw d 3) 31 0, count := field (dw d 3) 63 32,
           signal := (dw d 7).toNat, next := 0, cut := none }]
      gone t ∧ (mapFind s.gaffer.ctxs n = some y → ∃ w, mapFind t.gaffer.ctxs n = some w ∧
        if y.given = true then w = { y with scene := y.scene.map fun z => { z with sched := armed z.sched } }
        else w = { y with armed := armed y.armed })))

/-- R272, R273, R341, R343, R345 to R348: a LAUNCH without a wait signal stands in the table and waits for room; a
cohort that fits is reserved on its cores, or is tried again after the next report of a die that has refused it, and is
written with the seeds of every thread; a launch whose threads and
records are gone leaves the table. A die reports once in an interval.

Model's reading, log 44, 47 and 49: when a die reports, and what a launch waits for. -/
def Obligations.Launches : Prop :=
  ∀ s : State, s.Inv → s.powered = true →
    let l := s.sel.num
    (∀ q d n x, s.paused = false → openLaunch s l = none → heldPacket s 1 false = some (q, d) →
      (launchPacket d).wsig = 0 → launchError d = none → s.ctxAt q.ctxAddr = some (n, x) →
      mapFind s.gaffer.ctxs n = some x → s.gaffer.reports = [] → (launchPacket d).wmn = 0 →
      Due s .launch fun t => ∃ m y z, mapFind t.gaffer.launches m = some y ∧ y.queue = l ∧ y.packet = d ∧
        y.ctx = n ∧ y.next = 0 ∧ y.placed = false ∧ y.granted = false ∧ y.refused = [] ∧ mapFind t.gaffer.queues l = some z ∧ m ∈ z.running) ∧
    (∀ m y x g, s.paused = false → openLaunch s l = some (m, y) → mapFind s.gaffer.launches m = some y →
      y.granted = false → y.refused = [] → mapFind s.gaffer.ctxs y.ctx = some x → x.given = true →
      (launchPacket y.packet).wmn = 0 → fittingGroup s y.ctx m (launchPacket y.packet) false = some g →
      let counts := (launchPacket y.packet).counts g
      let grants (e : Nat × Nat) : Bool := coreGrants s y.ctx m e.1 e.2 (launchPacket y.packet)
      ((∀ e ∈ counts, grants e = true) → Due s .launch fun t =>
        (∃ z, mapFind t.gaffer.launches m = some z ∧ z.granted = true) ∧
        ∀ e ∈ counts, (t.core e.1).ctx = some y.ctx) ∧
      ((∃ e ∈ counts, grants e = false) → Due s .launch fun t => mapFind t.gaffer.launches m = some { y with
        refused := (counts.filter fun e => ! grants e).map fun e => coreDie e.1 })) ∧
    (∀ y, mapFind s.gaffer.launches l = some y → y.granted = true → let p := launchPacket y.packet
      p.isRec = false → p.cohorts ≤ y.next + 1 → p.pc < 2 ^ 57 →
      (y.reserved.map fun e => (e.1, e.2.1)).Nodup → (y.reserved.map fun e => (e.1, e.2.2)).Nodup →
      (∀ e ∈ y.reserved, e.2.1 < 16 ∧ e.2.2 < 64 ∧ slotOff s e.1 e.2.1 = false) → y.reserved.length ≤ 2 ^ 16 → y.next < 2 ^ 32 →
      Due s .cohortWrite fun t => ∀ i c sl b, y.reserved[i]? = some (c, sl, b) →
        (t.slot c sl).wspV = true ∧ (t.slot c sl).block = b ∧ (t.slot c sl).launch = some l ∧
        (t.slot c sl).counted = true ∧ pcImage t c b = p.pc ∧
        gReg t c b 1 = BitVec.ofNat 64 y.next ∧ gReg t c b 2 = BitVec.ofNat 64 i ∧
        gReg t c b 3 = p.arg ∧ gReg t c b 4 = p.word ∧
        field (threadDword t c b) 63 32 = y.next ∧ field (threadDword t c b) 31 16 = i % 2 ^ 16 ∧
        strictOn t c b = false) ∧
    (∀ y, mapFind s.gaffer.launches l = some y → y.placed = true → launchLives s l = false →
      recordsLeft s l = false → (launchPacket y.packet).csig = 0 →
      Due s .launchComplete fun t => mapFind t.gaffer.launches l = none ∧ t.mem = s.mem) ∧
    (l < 4 → mapGet 0 s.gaffer.reportAt l ≤ s.time.toNat →
      Due s .dieReport fun t => mapGet 0 t.gaffer.reportAt l = (s.time.toNat / 1000 + 1) * 1000 ∧
        ∀ m z, mapFind t.gaffer.launches m = some z → l ∉ z.refused)

/-! ### Pages, pre-emption and scenes -/

/-- R364, R444: a load that waits for a page, alone of all that the part does, faults 0x44 when the host rejects the request
or leaves it for 100 ms, and goes back to the tables when the host completes it; a completion that finds the page absent
raises a new request, and the third is a rejection.

Model's reading, log 54: how a reply reaches what waits. -/
def Obligations.PageReplies : Prop :=
  ∀ (s : State) (c sl a : Nat) (q : PageReq) (o : AsyncOp) (lanes : List Lane) (sext : Nat) (keep : Vec),
    s.Inv → s.powered = true → sl < 16 → requestOf s = some q → o ∈ (s.slot c sl).async →
    ((s.slot c sl).async.map AsyncOp.seq).Nodup → (s.slot c sl).takes o.tid = true → o.st = .paged →
    o.kind = .load .gl lanes sext keep → (lanes.map Lane.addr).find? (fun a => a / 4096 == q.page) = some a →
    s.pidOf c = q.pid → (s.core c).ctx ≠ none →
    let x := s.slot c sl
    let failed := x.faulted o 0x44 (BitVec.ofNat 64 a) 0
    let sent := x.setOp { o with st := .sent, tries := 0 }
    let waits := x.setOp { o with tries := o.tries + 1 }
    (∀ ok, OnlyWait s (q.reply ok) c sl o [x, failed, sent, waits]) →
    let others := s.pageReqs.filter fun p => ! (p.pid == q.pid && p.page == q.page)
    let becomes (t : State) (y : Slot) (l : List PageReq) : Prop :=
      t.slot c sl = y ∧ t.pageReqs = l ∧
      (∀ k, k ≠ slotKey c sl → mapGet Slot.reset t.slots k = mapGet Slot.reset s.slots k) ∧ t.mem = s.mem
    let late := q.time + 100000000 ≤ s.time.toNat
    let absent := pageAbsent s (s.ctxOf c) q.page
    (s.sel.yes = false ∨ late → Due s .pageRequestReply fun t => becomes t failed others) ∧
    (late → Due s .pageRequestTimeout fun t => becomes t failed others) ∧
    (s.sel.yes = true → ¬ late → absent = false → Due s .pageRequestReply fun t => becomes t sent others) ∧
    (s.sel.yes = true → ¬ late → absent = true → 2 ≤ o.tries →
      Due s .pageRequestReply fun t => becomes t failed others) ∧
    (s.sel.yes = true → ¬ late → absent = true → o.tries < 2 → Due s .pageRequestReply fun t =>
      becomes t waits (others ++
        [{ pid := q.pid, page := q.page, write := false, time := s.time.toNat, launches := q.launches }]))

/-- R366, R368, R369, R372: the interrupt stops a core and takes its waits off the wait lists; the save is complete once
nothing is left to wait for, and leaves the core free and its memories zero; the resumption puts them back.

R370: the Gaffer forwards a message, behind none to the same core of the same process, to the core where its context
stands, into a spill queue, or to nowhere. A core to which a context has returned takes the spilled messages that have
room.

Model's choice, log 21, 22 and 53: a save area's place and body, and which core a message goes to. -/
def Obligations.Preemption : Prop :=
  (∀ s : State, s.Inv → s.powered = true →
    let c := s.sel.core
    let x := s.core c
    let spaces : List Space := [.wm, .wb, .ab, .cb]
    (∀ n z, s.paused = false → x.ctx = some n → mapFind s.gaffer.ctxs n = some z → x.pre = none →
      newArea s (otherAreas s c n) c (decide (3 ≤ s.power.thermal)) ≠ none →
      Due s .preemptionInterrupt fun t =>
        t.core c = { x with pre := some { time := s.time, emergency := decide (3 ≤ s.power.thermal) } } ∧
        (∀ k, k ≠ c → t.core k = s.core k) ∧ t.feWaits = s.feWaits.filter (fun w => w.core ≠ c) ∧
        ∃ e ∈ t.gaffer.saves, e.2.pos = c ∧ e.2.ctx = n ∧ e.2.time = s.time ∧ e.2.left = false) ∧
    (∀ n p k a, x.ctx = some n → x.pre = some p → (s.gaffer.saves.find? fun e =>
        e.2.pos == c && some e.2.ctx == x.ctx && ! e.2.left && ! e.2.complete) = some (k, a) →
      (∀ sl, sl < 16 → slotHeld s c sl = true) → (∀ e, e < 4 → engineHeld s c e = true) → x.matq = [] →
      Due s .preemptionSave fun t =>
        t.core c = { CoreSt.reset with cycle := x.cycle, level := x.level, mcdrop := x.mcdrop } ∧
        (∀ sl, sl < 16 → t.slot c sl =
          { Slot.reset with tid := (s.slot c sl).tid + 1, seq := (s.slot c sl).seq }) ∧
        (∀ sp ∈ spaces, ∀ j, j < spaceBytes sp → readByte t.mem (localKey c sp j) = 0) ∧
        ∃ z, mapFind t.gaffer.saves k = some z ∧ z.complete = true ∧ z.pos = c ∧ z.time = p.time ∧
          z.mem = savedCells s c (skipOf s c p.emergency)) ∧
    (∀ a y, mapFind s.gaffer.saves s.sel.num = some a → a.complete = true → a.left = false → s.power.thermal < 3 →
      mayResume s a c = true → mapFind s.gaffer.ctxs a.ctx = some y → y.given = true →
      (∀ e ∈ a.slots, ∀ o ∈ e.2.async, o.resent = false) →
      Due s .contextResume fun t =>
        { t.core c with rx := [], recvs := [] } = { a.core with
          cycle := x.cycle, level := x.level, mcdrop := x.mcdrop, ctx := some a.ctx, pre := none, idle := 0,
          shpen := (y.scene.map Scene.shpen).getD 0, rx := [], recvs := [] } ∧
        (a.spill = [] → mapFind t.gaffer.saves s.sel.num = none) ∧
        (Memory.wf a.mem = true → ∀ sp ∈ spaces, ∀ j, j < spaceBytes sp →
          readByte t.mem (localKey c sp j) = readByte a.mem (localKey 0 sp j)))) ∧
  (∀ s : State, s.Inv → s.powered = true →
    (∀ d m, s.sel.yes = false → s.gaffer.msgs[s.sel.num]? = some (d, m) →
      (∀ e ∈ s.gaffer.msgs.take s.sel.num, ¬ (e.1 = d ∧ e.2.pid = m.pid)) →
      let rest := s.gaffer.msgs.eraseIdx s.sel.num
      (routeOf s d m.pid s.sel.core = .drop → Due s .messageForward fun t =>
        t = { s with gaffer := { s.gaffer with msgs := rest } }) ∧
      (∀ k a, routeOf s d m.pid s.sel.core = .spill k → mapFind s.gaffer.saves k = some a →
        Due s .messageForward fun t => t = { s with gaffer := { s.gaffer with
          msgs := rest, saves := mapPut s.gaffer.saves k { a with spill := a.spill ++ [m] } } }) ∧
      (∀ c, routeOf s d m.pid s.sel.core = .core c → (s.core c).rx.length < 64 → (s.core c).recvs = [] →
        Due s .messageForward fun t => t.gaffer.msgs = rest ∧ t.slots = s.slots ∧
          t.core c = { s.core c with rx := (s.core c).rx ++ [m] })) ∧
    (∀ a m, s.sel.yes = true → mapFind s.gaffer.saves s.sel.num = some a → a.left = true → a.spill = [m] →
      (s.core a.pos).ctx = some a.ctx → (s.core a.pos).pre = none → (s.core a.pos).rx.length < 64 →
      (s.core a.pos).recvs = [] → Due s .messageForward fun t =>
        mapFind t.gaffer.saves s.sel.num = none ∧
        t.core a.pos = { s.core a.pos with rx := (s.core a.pos).rx ++ [m] }))

/-- R254, R257, R259 to R266: what each layer instruction changes in the layer table, in masks and in the side array, what
it answers, and the cause with which it fails.

R378, R386: the record that a render request pushes, which layers conflict, the order in which a pixel's layers stand, how
their colours and depths are combined, and the pixels that a frame puts out.

R119, R253, R380, R387: the Lehr performs the layer instruction that has arrived, a write of SHPEN at every core of the
context, and answers with what the performance gives; a frame starts with the first schedule that is live and
due, and when its pass has ended the scene is ready for the next.

Model's reading, log 51 and 52: a layer instruction arrives when it is performed, and a frame's pass is one step. -/
def Obligations.LehrSteps : Prop :=
  (∀ (r : Run) (k : Nat) (x : Context) (sc : Scene) (l : LayerOp) (e : Nat → List Byte), r.Tabled x sc e →
    let a := l.a.toNat
    let b := l.b.toNat
    let n := sc.lcount
    let d (i j : Nat) := dwordAt (e i) j
    let stat (i : Nat) := field (d i 0) 7 0
    let live (i : Nat) := i < n ∧ stat i ≠ 0
    let ends (v : Nat) (q : Run) := r.layerPerform k x sc l = .ok (.ok (BitVec.ofNat 64 v)) q
    let fails (c : BitVec 8) (v : Word) (w : Nat) := r.layerPerform k x sc l = .ok (.error (c, v, BitVec.ofNat 32 w)) r
    let marks (q : Run) (i : Nat) := q.touchLayer k i
    let puts (q : Run) (i : Nat) (y : List Byte) (q' : Run) := q.glSet (some x) (sc.table + 256 * i) y false = .ok () q'
    let side (i : Nat) := sc.side + 128 * i
    let changes (q : Run) (e' : Nat → List Byte) (q' : Run) := q.writeTable x sc 0 (entriesOf n e) (entriesOf n e') = .ok () q'
    let alone (l' : List (Nat × Word)) := ∀ y q, Amends (e a) y l' → puts r a y q → ends 0 q
    (¬ live a → l.op ∉ [0x3D#8, 0x80] → ¬ (l.op = 0x46 ∧ l.xop ≠ 0) → 0x3D ≤ l.op.toNat → l.op.toNat ≤ 0x48 → fails 0x90 l.a 1) ∧
    (∀ i y q q2, l.op = 0x3D → i < n → stat i = 0 → (∀ j, j < i → stat j ≠ 0) →
      Amends [] y ((0, BitVec.ofNat 64 (1 + field l.c 15 0 * 2 ^ 16)) :: (1, 0xFFFFFFFF00000000) :: (5, BitVec.ofNat 64 (field l.a 56 0)) ::
        [8, 13, 18, 20, 25, 30].map fun j => (j, 0x3FF0000000000000#64)) →
      puts r i y q → q.glSet (some x) (side i) (List.replicate 128 0) false = .ok () q2 → ends i q2) ∧
    (l.op = 0x3D → (∀ j, j < n → stat j ≠ 0) → ends (2 ^ 64 - 1) r) ∧
    (live a →
      (∀ e' q, l.op = 0x3E → (∀ i, i < n → ∃ w, Recasts (d i 3) w a none ∧
          Amends (e i) (e' i) (if i = a then [(0, refield (d a 0) 7 0 0), (3, w)] else [(3, w)])) →
        changes (marks r a) e' q → ends 0 q) ∧
      (∀ p t y q q2, l.op = 0x3F → field l.b 63 57 = 0 → r.gl (some x) b 128 = .ok p r → p.length = 128 →
        Amends (e a) y ((List.range 12).map fun j => (20 + j, dwordAt p j)) → puts r a y q →
        q.gl (some x) (side a) 128 = .ok t q → t.length = 128 →
        q.glSet (some x) (side a) (t.take 64 ++ p.drop 96 ++ t.drop 96) false = .ok () q2 → ends 0 q2) ∧
      (∀ e' q, l.op = 0x40 → (∀ i, i < n →
          let w := if i = a then refield (refield (refield (d a 0) 63 32 0) 10 8 0) 7 0 2 else d i 0
          let w := if (stat i ≠ 0 ∧ casts (e i) a) then refield w 9 9 1 else w
          Amends (e i) (e' i) ((0, w) :: if i = a then (1, refield (d a 1) 31 0 0) ::
            (5, if l.b = 0 then d a 5 else BitVec.ofNat 64 (field l.b 56 0)) :: (List.range 12).map fun j => (8 + j, d a (20 + j))
            else [])) → changes (marks r a) e' q → ends 0 q) ∧
      (∀ sf p s, l.op = 0x41 → field l.b 63 57 = 0 → field l.c 63 57 = 0 → r.surface x (field (d a 5) 56 0) = .ok sf r →
        r.layerRows x (e a) sf.w sf.h = .ok p r → r.maskRows x l.c.toNat sf.w 0 sf.h = .ok s r → p.length = s.length →
        let child (c : Nat) := a < c ∧ c < n ∧ stat c = 0 ∧ ∀ j, a < j → j < c → stat j ≠ 0 ∧ field (d j 0) 31 16 ≠ field (d a 0) 31 16
        let both (y : Nat) := nth p y &&& nth s y
        ((∀ y, both y = 0) → fails 0x91 l.a 0) ∧
        ((∃ y, both y ≠ 0) → (∀ c, ¬ child c) → ends (2 ^ 64 - 1) r) ∧
        ∀ c t taken left e' q q2 q3 q4, (∃ y, both y ≠ 0) → child c → r.gl (some x) (side a) 128 = .ok t r →
          taken = (List.range p.length).map both → left.length = p.length →
          (∀ y j, y < p.length → (nth left y).testBit j = ((nth p y).testBit j && ! (nth s y).testBit j)) →
          r.setMask x l.c.toNat sf.w 0 taken = .ok () q → q.setMask x b sf.w 0 left = .ok () q2 →
          q2.glSet (some x) (side c) t false = .ok () q3 →
          (∀ i, i < n → Amends (e (if i = c then a else i)) (e' i) (if i = c then
            [(0, refield (d a 0) 10 10 0), (7, refield (d a 7) 31 0 0), (6, l.c)] else if i = a then [(6, l.b)] else [])) →
          changes q3 e' q4 → ends c q4) ∧
      (l.op = 0x42 →
        (¬ live b → fails 0x90 l.b 1) ∧
        (live b → a = b → fails 0x93 l.a 1) ∧
        (live b → a ≠ b → field (d a 5) 56 0 ≠ field (d b 5) 56 0 → fails 0x93 l.a 0) ∧
        ∀ e' mask q q2, live b → a ≠ b → field (d a 5) 56 0 = field (d b 5) 56 0 →
          let q0 := marks (marks r a) b
          (if field (d a 6) 56 0 = 0 ∨ field (d b 6) 56 0 = 0 then mask = 0 ∧ q = q0
            else mask = l.c ∧ field l.c 63 57 = 0 ∧ ∃ sf s t, q0.surface x (field (d a 5) 56 0) = .ok sf q0 ∧
              q0.layerRows x (e a) sf.w sf.h = .ok s q0 ∧ q0.layerRows x (e b) sf.w sf.h = .ok t q0 ∧ s.length = t.length ∧
              q0.setMask x l.c.toNat sf.w 0 ((List.range s.length).map fun y => nth s y ||| nth t y) = .ok () q) →
          (∀ i, i < n → ∃ w, Recasts (d i 3) w b (some a) ∧ Amends (e i) (e' i) ((3, w) :: (if i = a then
            [(0, refield (refield (d a 0) 63 32 (max (field (d a 0) 63 32) (field (d b 0) 63 32))) 10 8
                (field (d a 0) 10 8 ||| field (d b 0) 10 8)),
              (1, refield (d a 1) 31 0 (max (field (d a 1) 31 0) (field (d b 1) 31 0))), (6, mask)]
            else if i = b then [(0, refield (d b 0) 7 0 0)] else []))) → changes q e' q2 → ends 0 q2) ∧
      (l.op = 0x43 → ends (if l.xop = 0 then field (d a 0) 63 32 * 2 ^ 32 + field (d a 1) 31 0 else (d a 0).toNat) r) ∧
      (l.op = 0x44 → alone [(1, refield (d a 1) 63 32 (field l.b 31 0))]) ∧
      (l.op = 0x45 → alone [(0, refield (d a 0) 31 16 (field l.b 15 0))]) ∧
      (l.op = 0x46 → l.xop = 0 → alone [(2, refield (refield (d a 2) 15 0 (field l.b 15 0)) 63 32 (field l.c 31 0))]) ∧
      (l.op = 0x47 → let wrong (f : Nat) := l.b.getLsbD (13 * f + 12) = true ∧
          (field l.b (13 * f + 11) (13 * f) = a ∨ ¬ live (field l.b (13 * f + 11) (13 * f)))
        (∀ f, f < 4 → wrong f → (∀ g, g < f → ¬ wrong g) → fails 0x94 l.b f) ∧
        ((∀ f, f < 4 → ¬ wrong f) → alone [(3, BitVec.ofNat 64 (field l.b 51 0))])) ∧
      (∀ t s q, l.op = 0x48 → l.xop = 0 → field l.b 63 57 = 0 → r.gl (some x) b 64 = .ok t r → t.length = 64 →
        r.gl (some x) (side a) 128 = .ok s r → s.length = 128 → r.glSet (some x) (side a) (t ++ s.drop 64) false = .ok () q →
        ends 0 q) ∧
      (l.op = 0x48 → l.xop = 1 →
        ((d a 0).getLsbD 10 = true → ends 0 r) ∧
        (∀ q, (d a 0).getLsbD 10 = false → r.renderPush k x sc a = .ok false q → ends 0 q) ∧
        (∀ q y q2, (d a 0).getLsbD 10 = false → r.renderPush k x sc a = .ok true q →
          Amends (e a) y [(0, refield (d a 0) 10 10 1), (7, refield (d a 7) 31 0 sc.current.toNat)] → puts q a y q2 → ends 0 q2)) ∧
      (l.op = 0x48 → l.xop = 2 → alone [(0, refield (d a 0) 10 10 0)])) ∧
    (∀ bs e' q q2, l.op = 0x46 → l.xop ≠ 0 → let place := sc.status + 0x40 + 4 * field l.a 5 0
      r.gl (some x) place 4 = .ok bs r → r.glSet (some x) place (toBytes 4 (ofBytes bs + 1)) false = .ok () q →
      (∀ i, i < n → Amends (e i) (e' i) [(0, if stat i ≠ 0 ∧ (d i 2).getLsbD (field l.a 5 0 / 4) then refield (d i 0) 8 8 1 else d i 0)]) →
      changes q e' q2 → ends 0 q2) ∧
    (∀ (w h : Nat) (m : Nat → List Byte), (field (d a 6) 56 0 = 0 → r.layerRows x (e a) w h = .ok (List.replicate h (2 ^ w - 1)) r) ∧
      (field (d a 6) 56 0 ≠ 0 → r.layerRows x (e a) w h = r.maskRows x (field (d a 6) 56 0) w 0 h) ∧
      ((∀ y, y < h → r.gl (some x) (b + y * (8 * ((w + 63) / 64))) (8 * ((w + 63) / 64)) = .ok (m y) r) →
        r.maskRows x b w 0 h = .ok ((List.range h).map fun y => ofBytes (m y) % 2 ^ w) r)) ∧
    (∀ w y v rest, r.setMask x b w y (v :: rest) = (r.glSet (some x) (b + y * (8 * ((w + 63) / 64)))
      (toBytes (8 * ((w + 63) / 64)) (v % 2 ^ w)) false).bind fun _ r => r.setMask x b w (y + 1) rest) ∧
    (∀ i y z old new, r.writeTable x sc i (y :: old) (z :: new) = if y = z then r.writeTable x sc (i + 1) old new
      else (r.glSet (some x) (sc.table + 256 * i) z false).bind fun _ r => r.writeTable x sc (i + 1) old new) ∧
    (∀ c z f, mapFind r.s.gaffer.ctxs k = some c → c.scene = some z → z.run = some f → ∃ g,
      ((mapFind (marks r a).s.gaffer.ctxs k).bind Context.scene).bind Scene.run = some g ∧ ∀ i, i ∈ g.touched ↔ i = a ∨ i ∈ f.touched) ∧
    (∀ t, r.gl (some x) (sc.status + 0x10) 8 = .ok t r → t.length = 8 →
      let h := field (wordOf t) 63 32
      let p := field (wordOf t) 31 0
      (∀ q u, (p + 2 ^ 32 - h) % 2 ^ 32 = sc.rdqSize → r.gl (some x) (sc.status + 0x18) 8 = .ok u r → u.length = 8 →
        r.glSet (some x) (sc.status + 0x18) (toBytes 8 (refield (wordOf u) 31 0 (field (wordOf u) 31 0 + 1)).toNat) false = .ok () q →
        r.renderPush k x sc a = .ok false q) ∧
      (∀ s rec_ q u q2, (p + 2 ^ 32 - h) % 2 ^ 32 ≠ sc.rdqSize → r.gl (some x) (side a) 128 = .ok s r → s.length = 128 →
        rec_.length = 64 → (∀ i, i < 8 → dwordAt rec_ i = if i = 1 then refield (dwordAt s 1) 7 0 4 else if i = 6 then sc.current
          else if i = 7 then l.a else dwordAt s i) →
        r.glSet (some x) (sc.rdq + 64 * (p % sc.rdqSize)) rec_ true = .ok () q →
        q.gl (some x) (sc.status + 0x10) 8 = .ok u q → u.length = 8 →
        q.glSet (some x) (sc.status + 0x10) (toBytes 8 (refield (wordOf u) 31 0 (field (wordOf u) 31 0 + 1)).toNat) false = .ok () q2 →
        ∃ q3, r.renderPush k x sc a = .ok true q3 ∧ q3.s.mem = q2.s.mem))) ∧
  (∀ (ds : List Drawn), (ds.map Drawn.id).Nodup → (∀ d ∈ ds, ∀ p ∈ d.pixels, (fmt64.decode p.2.1).isNan = false) →
    let reaches (a b : Drawn) := ∃ p ∈ a.pixels, ∃ q ∈ b.pixels, p.1 % 2 ^ 14 ≤ q.1 % 2 ^ 14
    let sinks (a b : Drawn) := ∃ p ∈ a.pixels, ∃ q ∈ b.pixels, p.1 / 2 ^ 14 ≤ q.1 / 2 ^ 14
    let fronts (a b : Drawn) := ∃ p ∈ a.pixels, ∃ q ∈ b.pixels, ltNum (fmt64.decode q.2.1) (fmt64.decode p.2.1) = false
    let meet (a b : Drawn) := (reaches a b ∧ reaches b a) ∧ (sinks a b ∧ sinks b a) ∧ fronts a b ∧ fronts b a
    (∀ a ∈ ds, ∀ b ∈ ds, (a.id, b.id) ∈ conflictPairs ds ↔ a.id < b.id ∧ meet a b) ∧
    ∀ k, let l := listAt ds (conflictPairs ds) k
      let here (y : Listed) := y.layer ∈ ds ∧ mapFind y.layer.pixels k = some (y.depth, y.color)
      let clash := ∃ a ∈ l, ∃ b ∈ l, a.layer.id < b.layer.id ∧ meet a.layer b.layer
      let key (a b : Listed) := a.layer.order < b.layer.order ∨ a.layer.order = b.layer.order ∧ a.layer.id < b.layer.id
      let less (a b : Listed) := ltNum (fmt64.decode a.depth) (fmt64.decode b.depth) = true
      (∀ y, y ∈ l ↔ here y) ∧ l.Pairwise (fun a b => a.layer.id ≠ b.layer.id ∧
        (¬ clash → key a b) ∧ (clash → less a b ∨ ¬ less b a ∧ key a b))) ∧
  (∀ (clear : Nat) (l : List Listed) (i : Nat), i < 4 →
    blend clear l / 2 ^ (16 * i) % 2 ^ 16 = fmt16.rn (fmt32.decode (combined (l.map Listed.color ++ [clear]) i), 0) ∧
    blend clear l < 2 ^ 64 ∧ blendDepth l = (match l with | [] => 0x7F800000 | y :: _ => fmt32.rn (fmt64.decode y.depth, 0))) ∧
  (∀ (r : Run) (x : Context) (sc : Scene) (n : Nat) (ds : List Drawn) (sf : Surface), r.surface x (sc.out n) = .ok sf r →
    r.compose x sc n ds = r.outPixels x sc sf ds (conflictPairs ds) (min sf.w sc.ow) 0 (min sf.w sc.ow * min sf.h sc.oh)) ∧
  (∀ (r q : Run) (x : Context) (sc : Scene) (sf : Surface) (ds : List Drawn) (w i n : Nat),
    let pairs := conflictPairs ds
    let l := listAt ds pairs (i % w + 2 ^ 14 * (i / w))
    let colour := sf.color + i / w * sf.cpitch + 8 * (i % w)
    let depth := sf.depth + i / w * sf.dpitch + 4 * (i % w)
    r.outPixels x sc sf ds pairs w i 0 = .ok () r ∧
    (r.glSet (some x) colour (toBytes 8 (blend (dw sc.desc 9).toNat l)) false = .ok () q →
      (sf.depth = 0 → r.outPixels x sc sf ds pairs w i (n + 1) = q.outPixels x sc sf ds pairs w (i + 1) n) ∧
      ∀ q2, sf.depth ≠ 0 → q.glSet (some x) depth (toBytes 4 (blendDepth l)) false = .ok () q2 →
        r.outPixels x sc sf ds pairs w i (n + 1) = q2.outPixels x sc sf ds pairs w (i + 1) n)) ∧
  ∀ (s : State) (x : Context) (sc : Scene), s.Inv → s.powered = true →
    mapFind s.gaffer.ctxs s.sel.num = some x → x.scene = some sc →
    let k := s.sel.num
    let lehr := (Run.start s).forScene x sc
    let sceneOf (t : State) := (mapFind t.gaffer.ctxs k).bind Context.scene
    (∀ c sl n o l, nextLayer s sc = (c, sl, n) → (s.core c).ctx = some k → layerDue s c sl n = some (o, l) →
      (l.op = 0x80 → Due s .layerInstructionPerform fun t =>
        t.slot c sl = (s.slot c sl).performed o 0 ∧ (sceneOf t).map Scene.shpen = some l.a ∧
        ∀ e, (s.core e).ctx = some k → (t.core e).shpen = l.a) ∧
      (∀ v r, lehr.layerPerform k x sc l = .ok (.ok v) r → Due s .layerInstructionPerform fun t =>
        t.slot c sl = (r.s.slot c sl).performed o v ∧ t.mem = r.s.mem) ∧
      (l.op = 0x43 → sc.lcount ≤ l.a.toNat → (s.slot c sl).takes o.tid = true → Due s .layerInstructionPerform fun t =>
        t.slot c sl = (s.slot c sl).faulted o 0x90 l.a 1)) ∧
    (∀ y rest r, sc.sched.dropWhile (fun y => ! y.live) = y :: rest → sc.run = none → y.at ≤ s.time.toNat →
      lehr.beginFrame k x sc y rest = .ok () r → Due s .frameStart fun t =>
        ∃ f, sceneOf t = some { sc with
            run := some f, frame := sc.frame + 1,
            sched := { y with next := y.next + 1 } :: rest, rejected := [], tries := [] } ∧
          f.n = sc.frame ∧ f.time = y.at ∧ f.touched = []) ∧
    (∀ f r, sc.run = some f → (((lehr.drawLayers x sc f f.entries).bind fun ds r =>
        r.finalEntries x sc f ds).bind fun ds r => (r.compose x sc f.n.toNat (ds.map Prod.fst)).bind fun _ r =>
          (r.updateLayers k x sc f ds).bind fun _ r => r.closeFrame k x sc f) = .ok () r →
      Due s .frameEnd fun t => ∃ w, sceneOf t = some w ∧ w.run = none ∧ w.frame = sc.frame ∧ w.sched = sc.sched)

/-! ### The mailbox, images and identity -/

/-- R428 to R430, R435: the host writes bytes of BAR 0, in every state with the link up: those of the payload window and, while
GO is 0, those of MBCMD; all others are ignored, and a command of no number ends with RESULT 2. A command that is not available yet ends with RESULT 3, a
request of INVAL, LMETA, SCRUB, QUNREG or STAGE that breaks its form with RESULT 4 and the offset of the first dword that
does, STAGE received during a replacement with RESULT 8 and QREG of a queue too many with RESULT 10, and nothing else changes.

Model's choice, log 23 and 55: DETAIL, and the reserved bits of MBCMD. -/
def Obligations.MailboxRules : Prop :=
  ∀ s : State,
    let d := request s
    let ends (i : Instr) (result : BitVec 8) (detail : BitVec 16) : Prop :=
      exec i s = .next { s with mgmt := s.mgmt.ended result detail [] }
    (∀ opc stage i, (opc, stage, i) ∈ [(0x01, 1, Instr.status), (0x02, 5, .qreg), (0x03, 5, .qunreg), (0x04, 5, .part),
        (0x05, 5, .savereg), (0x06, 5, .inval), (0x07, 5, .lmeta), (0x08, 5, .scrub), (0x09, 5, .errcnt),
        (0x0A, 1, .staging), (0x0B, 5, .stage), (0x0C, 5, .horead)] →
      s.commanded opc → s.mgmt.stage.toNat < stage → ends i 3 0) ∧
    (∀ opc i, (opc, i) ∈ [(0x06, Instr.inval), (0x07, .lmeta), (0x08, .scrub)] → s.commanded opc → 5 ≤ s.mgmt.stage.toNat →
      (2 ^ 20 ≤ (d 0).toNat → ends i 4 0) ∧
      ((d 0).toNat < 2 ^ 20 → 2 ^ 57 ≤ (d 8).toNat ∨ (i = .lmeta ∧ (d 8).toNat % 128 ≠ 0) ∨
        (i = .scrub ∧ (d 8).toNat % 32 ≠ 0) → ends i 4 8)) ∧
    (s.commanded 0x08 → 5 ≤ s.mgmt.stage.toNat → (d 0).toNat < 2 ^ 20 → (d 8).toNat < 2 ^ 57 → (d 8).toNat % 32 = 0 →
      (d 16 = 0 ∨ 128 < (d 16).toNat) → ends .scrub 4 16) ∧
    (s.commanded 0x03 → 5 ≤ s.mgmt.stage.toNat → mapFind s.gaffer.queues (d 0).toNat = none → ends .qunreg 4 0) ∧
    (s.commanded 0x0B → 5 ≤ s.mgmt.stage.toNat → 15 < (d 0).toNat → ends .stage 4 0) ∧
    (s.commanded 0x0B → 5 ≤ s.mgmt.stage.toNat → (d 0).toNat ≤ 15 →
      s.mgmt.repl ≠ 0 ∨ s.mgmt.late = true → ends .stage 8 0) ∧
    (s.commanded 0x02 → 5 ≤ s.mgmt.stage.toNat → (queueChecks s).find? (fun c => c.2) = none →
      1024 ≤ s.gaffer.queues.length → ends .qreg 10 0) ∧
    (s.powered = true → s.link.up = true → s.sel.num + s.sel.data.length ≤ 0x2000 → ∃ v : Word,
      (∀ j, j < 64 → v.getLsbD j = ((decide (j < 8) || j == 63) &&
        (if s.sel.num ≤ j / 8 ∧ j / 8 < s.sel.num + s.sel.data.length then
          (s.sel.data.getD (j / 8 - s.sel.num) 0).getLsbD (j % 8) else s.mgmt.mbcmd.getLsbD j))) ∧
      let m : Mgmt :=
        if 0x1000 ≤ s.sel.num then
          { s.mgmt with payload := writeBytes s.mgmt.payload (s.sel.num - 0x1000) s.sel.data }
        else if s.sel.num < 8 ∧ s.sel.num + s.sel.data.length ≤ 8 ∧ s.mgmt.go = false then
          { s.mgmt with mbcmd := v, late := s.mgmt.repl != 0 }
        else s.mgmt
      exec .registerWrite s = .next { s with mgmt :=
        if m.go = true ∧ ¬ (1 ≤ m.opc ∧ m.opc ≤ 12) ∧ s.paused = false then m.ended 2 0 [] else m })

/-- R337, R361, R369, R400, R411 to R413, R430, R437: what STATUS, INVAL, LMETA, SCRUB of one sector,
ERRCNT, HOREAD, SAVEREG, STAGING, PART, QREG and QUNREG do when their requests are in order.

Model's choice, log 25, 26, 33, 55 and 56: INVAL, SCRUB, payload bytes beyond a request, and QUNREG; log 27: ERRCNT
counts four stations; log 21: SAVEREG takes a region of any base and size. -/
def Obligations.Commands : Prop :=
  ∀ s : State, s.Inv →
    let m := s.mgmt
    let d := request s
    let ready (opc : Nat) : Prop := s.commanded opc ∧ 5 ≤ m.stage.toNat
    let ends (i : Instr) (reply : List Byte) : Prop := exec i s = .next { s with mgmt := m.ended 0 0 reply }
    let pid := (d 0).setWidth 20
    (s.commanded 0x01 → 1 ≤ m.stage.toNat → ends .status (toBytes 8 (m.stage.toNat + m.repl.toNat * 2 ^ 8) ++
      toBytes 8 Config.badSites.toNat ++ toBytes 8 (layerVersion m 0) ++ toBytes 8 (layerVersion m 1) ++
      toBytes 8 (layerVersion m 2) ++ toBytes 8 (layerVersion m 3))) ∧
    (ready 0x06 → (d 0).toNat < 2 ^ 20 → (d 8).toNat < 2 ^ 57 → (d 16).toNat ≤ 2 ^ 57 →
      ((∀ e ∈ s.gaffer.ctxs, e.2.pid = pid → e.2.given = false) → ends .inval []) ∧
      (∀ n x bs r, s.gaffer.ctxs = [(n, x)] → x.pid = pid → x.given = true →
        (Run.start s).hbm (x.xlat.toNat % 2 ^ 52) 64 = .ok bs r → Due s .inval fun t =>
        ∃ y, mapFind t.gaffer.ctxs n = some y ∧ t.mgmt = m.ended 0 0 [] ∧
          y.rtab = ofBytes (bs.take 8) % 2 ^ 52 ∧ y.rcnt = ofBytes (bs.take 8) / 2 ^ 57 ∧
          y.pt0 = ofBytes ((bs.drop 8).take 8) % 2 ^ 52)) ∧
    (ready 0x07 → (d 0).toNat < 2 ^ 20 → (d 8).toNat < 2 ^ 57 → (d 8).toNat % 128 = 0 →
      (∀ l t pa comp, commandPlace s pid (d 8).toNat .read = (l, .ok (t, pa, comp)) →
        let u := applyAll s l
        exec .lmeta s = .next { u with mgmt := m.ended 0 0 (toBytes 8 ((lineMetaOf u (physKey t pa)).toNat % 2 ^ 64) ++
          toBytes 8 ((lineMetaOf u (physKey t pa)).toNat / 2 ^ 64)) }) ∧
      (∀ l cause, commandPlace s pid (d 8).toNat .read = (l, .error cause) →
        exec .lmeta s = .next { applyAll s l with mgmt := m.ended 5 (cause.setWidth 16) [] })) ∧
    (ready 0x08 → (d 0).toNat < 2 ^ 20 → (d 8).toNat < 2 ^ 57 → (d 8).toNat % 32 = 0 → d 16 = 1 →
      (∀ l t pa comp e, commandPlace s pid (d 8).toNat .write = (l, .ok (t, pa, comp)) →
        physWrite (applyAll s l) t pa (List.replicate 32 0) comp true = (e, .ok ()) →
        exec .scrub s = .next { applyAll (applyAll s l) e with mgmt := m.ended 0 0 [] }) ∧
      (∀ l cause, commandPlace s pid (d 8).toNat .write = (l, .error cause) →
        exec .scrub s = .next { applyAll s l with mgmt := m.ended 5 (cause.setWidth 16) [] })) ∧
    (ready 0x09 → ends .errcnt (toBytes 8 4 ++ toBytes 8 (mapGet 0 s.corrected 0) ++ toBytes 8 (mapGet 0 s.corrected 1) ++
      toBytes 8 (mapGet 0 s.corrected 2) ++ toBytes 8 (mapGet 0 s.corrected 3))) ∧
    (ready 0x0C → m.handover.length ≤ 0x1000 → m.handover ≠ [] → ends .horead m.handover) ∧
    (ready 0x05 → s.power.retained = [] → exec .savereg s = .next { s with
      gaffer := { s.gaffer with saveBase := (d 0).toNat, saveSize := (d 8).toNat }, mgmt := m.ended 0 0 [] }) ∧
    (s.commanded 0x0A → 1 ≤ m.stage.toNat → m.stage ≠ 3 → exec .staging s = .next { s with mgmt :=
      ({ m with stagBase := (d 0).toNat, stagSize := (d 8).toNat, staged := true } : Mgmt).ended 0 0 [] }) ∧
    (ready 0x04 → s.power.retained = [] → (d 0).toNat < 16 → (d 0x10).toNat < 2 ^ 57 → (d 0x10).toNat % 32 = 0 →
      (d 0x18).toNat < 2 ^ 57 → (d 0x18).toNat % 64 = 0 → (d 0x20).toNat < 2 ^ 12 → (d 0x20).toNat / 32 % 8 = 0 →
      4 ≤ (d 0x20).toNat % 32 → (d 0x20).toNat % 32 ≤ 16 →
      Due s .part fun t => t.mgmt = m.ended 0 0 [] ∧ mapFind t.power.parts (d 0).toNat = some
          { dmask := d 8, ering := (d 0x10).toNat, ectl := (d 0x18).toNat, bthr := (d 0x20).toNat / 256,
            esize := (d 0x20).toNat % 32, permits := 64, charge := [], idle := 0, seq := 0 } ∧
        ∀ k p, k ≠ (d 0).toNat → mapFind s.power.parts k = some p →
          mapFind t.power.parts k = some { p with dmask := p.dmask &&& ~~~ d 8 }) ∧
    (ready 0x02 → (queueChecks s).find? (fun c => c.2) = none → s.gaffer.queues.length < 1024 →
      Due s .qreg fun t => ∃ k q, mapFind s.gaffer.queues k = none ∧ mapFind t.gaffer.queues k = some q ∧
        t.mgmt = m.ended 0 0 (toBytes 8 k) ∧ q.ring = (d 0).toNat ∧ q.ctl = (d 8).toNat ∧ q.ctxAddr = (d 0x10).toNat ∧
        q.size = (d 0x18).toNat / 4 % 32 ∧ q.level = (d 0x18).toNat % 4 ∧ q.qhold = (d 0x18).toNat / 2 ^ 32) ∧
    (ready 0x03 → mapFind s.gaffer.queues (d 0).toNat ≠ none → Due s .qunreg fun t =>
      t.mgmt = m.ended 0 0 [] ∧ mapFind t.gaffer.queues (d 0).toNat = none)

/-- R427, R431, R433, R435 to R440: keys are derived one after another; a STAGE whose image passes its checks begins a
replacement, which is handed over at a safe point or abandoned after 10 ms, stands on probation, and is undone by
FALLBACK, in which no image is installed until those that stood before are reinstalled. With the last key FULL begins,
and a link that is up trains again (R442).

R402, R403, R440: the bytes of an event record, a group of records put into a ring whole or counted as lost, and the groups
that key derivation, HANDOVER and FALLBACK write to every partition's ring.

Model's choice, log 10, 28, 57 and 58: keys and measurements are functions of their inputs, and a record's body is free;
log 60: the training that FULL begins takes the offer that the host made last. No bytes can be shown to pass the checks of a
good image, because the hash of the key that signs images is a constant of the part without a value here. -/
def Obligations.Replacement : Prop :=
  (∀ (e : EventRec) (time : Nat) (seq : BitVec 32), time < 2 ^ 64 → e.cause < 2 ^ 8 → e.kind < 2 ^ 8 → e.domain < 2 ^ 8 →
    let at_ (n k : Nat) := ofBytes (((e.bytes time seq).drop n).take k)
    (e.bytes time seq).length = 32 ∧ at_ 0 8 = time ∧ at_ 8 1 = e.domain ∧ at_ 9 1 = e.kind ∧ at_ 10 1 = e.cause ∧
    at_ 11 1 = 0 ∧ at_ 12 4 = seq.toNat ∧ at_ 16 8 = e.old % 2 ^ 64 ∧ at_ 24 8 = e.new % 2 ^ 64) ∧
  (∀ (m : Mgmt) (kind layer : Nat) (code : BitVec 8) (digest : List Byte),
    let l := firmwareGroup m kind code layer digest
    let part (p k : Nat) := ofBytes ((digest.drop (16 * p + k)).take 8)
    l.length = 5 ∧
    l[0]? = some { kind := kind, cause := 0, domain := layer, new := 4, old := match mapFind m.images layer with
      | some i => code.toNat + layer * 2 ^ 8 + i.minor.toNat * 2 ^ 16 + i.major.toNat * 2 ^ 32
      | none => code.toNat + layer * 2 ^ 8 } ∧
    ∀ p, p < 4 → l[p + 1]? = some { kind := kind + 1, cause := 0, domain := p, old := part p 0, new := part p 8 }) ∧
  (∀ (r : Run) (k time : Nat) (p : Part) (l : List EventRec), r.s.Sound → mapFind r.s.power.parts k = some p →
    p.ering % 32 = 0 → p.ectl % 64 = 0 → p.ering < 2 ^ 57 → p.ectl < 2 ^ 57 → p.esize ≤ 16 →
    (p.ectl + 24 ≤ p.ering ∨ p.ering + 32 * 2 ^ p.esize ≤ p.ectl) →
    let t := (r.events k time l).s
    let word (n : Nat) := ofBytes (readBytes r.s.mem (physKey .hbm (p.ectl + n)) 8)
    let n := l.length
    let holds (a : Nat) (bs : List Byte) : Prop := readBytes t.mem (physKey .hbm a) bs.length = bs
    let keeps (out : Nat → Prop) : Prop := ∀ a, ¬ out a → readByte t.mem a = readByte r.s.mem a
    let within (z a k : Nat) : Prop := physKey .hbm a ≤ z ∧ z < physKey .hbm a + k
    mapFind t.power.parts k = some { p with seq := p.seq + BitVec.ofNat 32 n } ∧
    (∀ j, j ≠ k → mapFind t.power.parts j = mapFind r.s.power.parts j) ∧
    (2 ^ p.esize < (word 0 + 2 ^ 64 - word 8) % 2 ^ 64 + n →
      holds (p.ectl + 16) (toBytes 8 (min (word 16 + n) (2 ^ 64 - 1))) ∧ keeps fun z => within z (p.ectl + 16) 8) ∧
    ((word 0 + 2 ^ 64 - word 8) % 2 ^ 64 + n ≤ 2 ^ p.esize →
      (∀ i e, l[i]? = some e →
        holds (p.ering + 32 * ((word 0 + i) % 2 ^ p.esize)) (e.bytes time (p.seq + BitVec.ofNat 32 i))) ∧
      holds p.ectl (toBytes 8 (word 0 + n)) ∧
      keeps fun z => within z p.ectl 8 ∨ ∃ i, i < n ∧ within z (p.ering + 32 * ((word 0 + i) % 2 ^ p.esize)) 32)) ∧
  (∀ (r : Run) (l : List EventRec),
    r.eventsAll l = r.s.power.parts.foldl (fun q e => q.events e.1 q.s.time.toNat l) r) ∧
  (∀ s : State, s.powered = true →
    let m := s.mgmt
    let now := s.time.toNat
    let told (n : Mgmt) (kind layer : Nat) (code : BitVec 8) (digest : List Byte) (r : Run) : Run :=
      r.eventsAll (firmwareGroup n kind code layer digest)
    (∀ d n, m.derive = some d → d.next = 3 → m.stage ≠ 4 → n = { m.withKey 3 with derive := none } →
      exec .keyDerivationComplete s =
        .next (told n 0x12 d.layer d.code (sha512 n.chain) (Run.start { s with mgmt := n })).s) ∧
    (∀ p n, m.replace = some p → m.repl = 2 → now < p.since + 10000000 →
      let layer := p.image.layer
      let x := measureOf (mapPut m.images layer p.image) layer
      n = { m with
        handover := handoverRecord m layer s.free, images := mapPut m.images layer p.image, repl := 4,
        announced := mapPut m.announced layer x, derive := some (m.deriveFrom 0xD0 layer),
        replace := some { p with since := now, next := 1, missed := 0, beatAt := none } } →
      Due s .quiesceSafePoint fun t => ∃ z, t = { (told n 0x10 layer 0xD0 x
        (Run.start { s with mgmt := n, free := s.free + 1 })).s with mgmt := z }) ∧
    (∀ p e l r, m.replace = some p → m.repl = 5 → (Run.start s).directory = .ok e (Run.start s) →
      (Run.start s).reinstall e p.image.layer p.before [1, 2, 3] [] = .ok l r →
      Due s .fallback fun t => ∃ n z, n.images = l ∧ n.announced = m.announced ∧
        t = { (([1, 2, 3].filter fun k => mapFind m.announced k ≠ some (measureOf l k)).foldl (fun q k =>
          told n 0x10 k 0xD1 (measureOf l k) (q.modMgmt fun y => { y with
            announced := mapPut y.announced k (measureOf l k) })) (r.emit (.mgmt n))).s with mgmt := z })) ∧
  ∀ s : State, s.Inv → s.powered = true → s.power.parts = [] →
    let m := s.mgmt
    let now := s.time.toNat
    let next (i : Instr) (n : Mgmt) : Prop := exec i s = .next { s with mgmt := n }
    let keyed (l : Nat) := mapPut m.keys l (layerKey m.images l)
    let certified (l : Nat) := mapPut m.certs l (certificate l (layerKey m.images l) (m.key (l - 1))
      (tcbInfo (measureOf m.images l) (layerNumbers m l).1 (layerNumbers m l).2 (layerSvn m l)))
    let falls (t : State) := t.mgmt.repl = 5 ∧ t.mgmt.derive = none ∧ t.mgmt.images = [] ∧
      t.mgmt.replace.map Replace.before = some m.images
    (∀ d, m.derive = some d →
      (d.next = 0 → m.staged = false →
        next .keyDerivationComplete { m with keys := keyed 0, derive := none, stage := 3 }) ∧
      (0 < d.next → d.next < 3 → next .keyDerivationComplete { m with
        keys := keyed d.next, certs := certified d.next, derive := some { d with next := d.next + 1 } }) ∧
      (d.next = 3 → m.stage ≠ 4 → next .keyDerivationComplete { m with
        keys := keyed 3, certs := certified 3, derive := none }) ∧
      (d.next = 3 → m.stage = 4 → exec .keyDerivationComplete s = .next { s with
        mgmt := { m with keys := keyed 3, certs := certified 3, derive := none, stage := 5 },
        agenda := s.agenda ++ if s.link.up then [(.linkTraining, {
          num := s.link.offer.1, aux := s.link.offer.2.1, yes := s.link.offer.2.2 })] else [] })) ∧
    (∀ e r y, s.commanded 0x0B → 5 ≤ m.stage.toNat → m.repl = 0 → m.late = false → (request s 0).toNat ≤ 15 →
      (Run.start s).directory = .ok e (Run.start s) → (Run.start s).loadImage (e.getD (request s 0).toNat
        { offset := 0, len := 0, layer := 0, boot := false }) = .ok y r → e.length = 16 →
      match y with
      | .error n => Due s .stage fun t => t.mgmt = m.ended (BitVec.ofNat 8 (stepResult n)) (BitVec.ofNat 16 (0xD200 + n)) []
      | .ok i => Due s .stage fun t => t.mgmt = { m with
          repl := 2, replace := some {
            image := i, since := now, next := 0, missed := 0, beatAt := none, redo := none, before := [] } }) ∧
    (∀ p, m.replace = some p →
      (m.repl = 2 → p.since + 10000000 ≤ now →
        next .quiesceTimeout (({ m with repl := 0, replace := none } : Mgmt).ended 9 0xD3 [])) ∧
      (m.repl = 2 → now < p.since + 10000000 → Due s .quiesceSafePoint fun t =>
        t.mgmt.images = (if p.image.reads t.mgmt = true then mapPut m.images p.image.layer p.image else []) ∧
        t.mgmt.keys = m.keys ∧
        t.mgmt.result = 0 ∧ t.mgmt.go = false ∧
        t.mgmt.repl = (if p.image.reads t.mgmt = true then 4 else 5) ∧
        ((measureOf m.images p.image.layer).length = 64 → t.mgmt.prev = measureOf m.images p.image.layer)) ∧
      (m.repl = 4 → now < p.deadline →
        (s.sel.write = false → next .heartbeat { m with replace := some { p with beatAt := some now } }) ∧
        (s.sel.write = true → s.sel.yes = true → next .heartbeat { m with handover := overlay 13 [2] m.handover }) ∧
        (s.sel.write = true → s.sel.yes = false → Due s .heartbeat falls)) ∧
      (m.repl = 4 → p.deadline ≤ now →
        let missed := if p.beatAt = none then p.missed + 1 else 0
        (3 ≤ missed ∨ (p.next = 3 ∧ m.recordState ≠ 2) → Due s .probationDeadline falls) ∧
        (missed < 3 → (p.next = 3 → m.recordState = 2) → p.next < 100 → next .probationDeadline { m with
          replace := some { p with next := p.next + 1, missed := missed, beatAt := none } }) ∧
        (missed = 0 → p.next = 100 → next .probationDeadline { m with repl := 0, replace := none })) ∧
      (∀ e l r, m.repl = 5 → m.go = false → (Run.start s).directory = .ok e (Run.start s) →
        (Run.start s).reinstall e p.image.layer p.before [1, 2, 3] [] = .ok l r → Due s .fallback fun t =>
          t.mgmt.images = l ∧ t.mgmt.repl = 0 ∧ t.mgmt.replace = none))

/-- R434: the answers of the SPDM responder. Slot 0 alone holds a chain; a signed answer waits for key 3.

R409, R442, R443, R445 to R447: training and loss of the host link and of Kenlink, a failed peer, and the accesses that
arrive over them; a peer's full/empty load whose tag forbids it joins the word's wait list. The host reads BAR 0, and writes
its own memory (R313, R428).

Model's choice, log 10: a signature is RSASSA-PKCS1-v1_5 of the transcript of SPDM 1.2, of which the bytes that the
two parties fill in are open; log 29, 59 and 60: what each link carries before FULL; log 73: the sectors that the host's
write covers are written whole; log 80: the answer to a read that fails its check; log 90: a trained Kenlink reaches every
peer again. -/
def Obligations.SpdmAndLinks : Prop :=
  (∀ s : State, s.powered = true → s.link.up = true →
    let m := s.mgmt
    let joined (code : Nat) (args : List Nat) (data : List (List Byte)) : List Config.SpdmTurn :=
      (if code = 0 then [] else m.heard) ++ [{ code := code, args := args, data := data }]
    let answers (i : Instr) (code : Nat) (args : List Nat) (nonce : List Byte) (r : SpdmReply) : Prop :=
      exec i s = .next { s with mgmt := { m with spdm := r, heard := joined code args (nonce :: r.data) } }
    let x := s.sel
    let wanted := [1, 2, 3, 4].filter fun n => x.num == 0xFF || n == x.num
    let blocks := wanted.map fun n => (n, measureOf m.images (n - 1))
    let signed := m.derive = none ∧ mapFind m.keys 3 ≠ none
    let asked (code : Nat) := m.heard.filter fun y => decide (y.code ≤ code)
    let signs (context : String) (l : List Config.SpdmTurn) : List Byte :=
      (m.key 3).sign (spdmSigned context (Config.spdmBytes l))
    answers .getVersion 0 [] [] (.version [(1, 2)]) ∧ answers .getCapabilities 1 [] [] (.capabilities true true true) ∧
    answers .negotiateAlgorithms 2 [if x.yes then 1 else 0] []
      (.algorithms (if x.yes then some ("RSASSA_4096", "SHA-512", "SHA-512") else none)) ∧
    answers .getDigests 3 [] [] (.digests (sha512 m.chain)) ∧
    (x.slot = 0 → x.num ≤ m.chain.length → answers .getCertificate 4 [x.slot, x.num, x.aux] [] (.certificate
      ((m.chain.drop x.num).take x.aux) (m.chain.length - x.num - x.aux))) ∧
    (x.slot ≠ 0 → answers .getCertificate 4 [x.slot, x.num, x.aux] [] .invalid ∧
      answers .challenge 5 [x.slot] x.data .invalid) ∧
    (x.slot = 0 → answers .challenge 5 [x.slot] x.data (if signed then
      .challenge (signs "responder-challenge_auth signing" (asked 4 ++
        [{ code := 5, args := [x.slot], data := [x.data, sha512 m.chain] }])) else .notReady)) ∧
    (wanted ≠ [] → x.yes = false → answers .getMeasurements 6 [x.num, 0] x.data (.measurements blocks [])) ∧
    (wanted ≠ [] → x.yes = true → answers .getMeasurements 6 [x.num, 1] x.data (if signed then
      .measurements blocks (signs "responder-measurements signing" (asked 2 ++ openMeasurements m.heard ++
        [{ code := 6, args := [x.num, 1], data := x.data :: blocks.map Prod.snd }])) else .notReady))) ∧
  (∀ s : State, s.powered = true →
    let x := s.sel
    let linked (i : Instr) (l : Link) : Prop := exec i s = .next { s with link := l }
    let tier := outsideTier x.yes
    let alike (p : PeerDown) : Bool := p.device == BitVec.ofNat 21 x.num
    (∀ w, (s.mgmt.stage ≠ 3 ∨ s.mgmt.staged = false) → linkLapses s = false → 5 ≤ x.num → linkWidth x.aux = some w →
      linked .linkTraining
      { s.link with cxl := x.yes && decide (s.mgmt.stage = 5), gen := if s.mgmt.stage = 5 then min x.num 7 else 5,
                    width := w, up := true, offer := (x.num, x.aux, x.yes), expired := false }) ∧
    (s.link.up = true → linked .linkDown { s.link with up := false, downAt := s.time.toNat, expired := false }) ∧
    (s.link.up = false → s.link.expired = false → s.link.downAt + 10000000 ≤ s.time.toNat → s.pageReqs = [] →
      s.link.failed = [] → (s.mgmt.stage ≠ 3 ∨ s.mgmt.staged = false) → s.slots = [] → s.cores = [] → s.colls = [] → s.gaffer.ctxs = [] →
      s.gaffer.queues = [] → s.gaffer.launches = [] → s.mgmt.go = false → s.mgmt.replace = none →
      linked .linkDownTimeout { s.link with expired := true }) ∧
    (linkLapses s = false → linked .kenlinkTraining { s.link with
      failed := [], trained := x.yes, device := if x.yes then BitVec.ofNat 21 x.num else 0 }) ∧
    (s.link.failed.any alike = false → linked .peerDeviceFailed { s.link with failed := s.link.failed ++
      [{ device := BitVec.ofNat 21 x.num, since := s.time.toNat, expired := false }] }) ∧
    (s.link.up = true → 2 ≤ s.mgmt.stage.toNat → x.slot = 0 →
      (∀ e y, x.write = false → 0 < x.aux → x.num % 32 + x.aux ≤ 32 → inTier x.yes x.num x.aux = true →
        physLoad s tier x.num x.aux (storedCompressed s tier x.num) = (e, y) → exec .hostDeviceMemoryAccess s =
          .next { applyAll s e with link := { s.link with hostReply := some (match y with
            | .ok bs => { bytes := bs }
            | .error _ => { bytes := readBytes s.mem (physKey tier x.num) x.aux,
                            poison := [x.num / 32 * 32] }) } }) ∧
      (∀ e, x.write = true → x.data ≠ [] → x.num % 128 + x.data.length ≤ 128 →
        inTier x.yes x.num x.data.length = true →
        physWrite s tier x.num x.data (storedCompressed s tier x.num) true = (e, .ok ()) →
        exec .hostDeviceMemoryAccess s =
          .next { applyAll s e with link := { s.link with hostReply := some { bytes := [] } } })) ∧
    (x.slot = 1 → x.write = true → x.data ≠ [] → x.num % 128 + x.data.length ≤ 128 →
      x.num + x.data.length ≤ 2 ^ 52 → noiseWritten s (physKey .host x.num) (x.data.map some) = [] →
      lineMetaOf s (physKey .host x.num) = 0 → exec .hostDeviceMemoryAccess s =
        .next { s with mem := writeBytes s.mem (physKey .host x.num) x.data,
                       badBytes := outOf s.badBytes (physKey .host x.num) x.data.length,
                       link := { s.link with hostReply := some { bytes := [] } } }) ∧
    (x.slot = 2 → x.write = false → s.link.up = true → x.num + x.aux ≤ 0x2000 →
      let bytes := (List.range x.aux).map fun i =>
        let j := x.num + i
        if j < 8 then (wordBytes s.mgmt.mbcmd).getD j 0
        else if j < 16 then (wordBytes s.mgmt.mbstat).getD (j - 8) 0
        else if j < 0x1000 then 0
        else readByte s.mgmt.payload (j - 0x1000)
      linked .hostDeviceMemoryAccess { s.link with hostReply := some { bytes } }) ∧
    (s.link.trained = true → 2 ≤ s.mgmt.stage.toNat → x.num % 8 = 0 → inTier x.yes x.num 8 = true →
      let k := physKey tier x.num
      let replies (l : List Answer) : Link := { s.link with peerReply := l }
      (∀ e bs, physRead s tier x.num 8 false = (e, .ok bs) → noiseRead s k 8 = [] →
        (x.slot = 0 → x.write = false → x.aux = 8 → exec .peerGlAccess s =
          .next { applyAll s e with link := replies [{ bytes := bs }] }) ∧
        (∀ f, x.slot = 1 → x.core < 9 → x.aux = 8 → physWrite (applyAll s e) tier x.num (toBytes 8
            (amoNew (BitVec.ofNat 4 x.core) (wordOf bs) (wordOf (x.data.take 8))).toNat) false false = (f, .ok ()) →
          exec .peerGlAccess s = .next { applyAll (applyAll s e) f with link := replies [{ bytes := bs }] })) ∧
      (∀ f, (x.slot = 3 ∧ f = FeKind.ldfe) ∨ (x.slot = 4 ∧ f = FeKind.ldfx) → tagFull s k = false →
        exec .peerGlAccess s = .next { s with link := replies [], feWaits := s.feWaits ++
          [{ key := k, core := remoteCore, slot := 0, seq := 0, peer := some (f, wordOf (x.data.take 8)) }] })))

/-! ### The machine as a whole -/

/-- R44, R51 to R57: words written out field by field, as the encoding tables have them, decode to the instructions that they
stand for. -/
def Obligations.DecodedWords : Prop :=
  let a (op : BitVec 7) (x : BitVec 22) : BitVec 32 := 1#1 ++ 1#1 ++ 0#1 ++ op ++ x
  let c (op : BitVec 7) (x : BitVec 22) : BitVec 32 := 1#1 ++ 0#1 ++ 0#1 ++ op ++ x
  ∀ p ∈ [(a 0x00 (3#5 ++ 1#5 ++ 2#5 ++ 0#7), Instr.add 3 1 2), (a 0x1C (7#5 ++ 30#5 ++ 0xFFF#12), .addi 7 30 0xFFF),
    (a 0x24 (9#5 ++ 0x10001#17), .kon 9 0x10001), (c 0x02 0x3FFFFF#22, .jal 0x3FFFFF),
    (c 0x05 (4#5 ++ 5#5 ++ 0x801#12), .bEq 4 5 0x801), (c 0x0B (2#2 ++ 17#5 ++ 0x4002#15), .loop 2 17 0x4002),
    (c 0x18 (6#5 ++ 7#5 ++ 1#3 ++ 0x101#9), .ldW 6 7 1 0x101),
    (c 0x21 (8#5 ++ 9#5 ++ 4#3 ++ 5#3 ++ 33#6), .vldm 8 9 4 5 33),
    (c 0x2C (10#5 ++ 11#5 ++ 12#5 ++ 1#2 ++ 1#1 ++ 8#4), .amo 10 11 12 1 1 8),
    (c 0x37 (13#5 ++ 14#5 ++ 15#5 ++ 1#1 ++ 6#3 ++ 0#3), .xcopy 13 14 15 1 6), (c 0x4C (16#5 ++ 0#5 ++ 0x040#12), .crd 16 0x040),
    (c 0x50 0#22, .rte), (a 0x28 (17#5 ++ 18#5 ++ 19#5 ++ 1#1 ++ 1#3 ++ 2#3), .vadd 17 18 19 1 1 2),
    (a 0x46 (20#5 ++ 21#5 ++ 2#5 ++ 0#1 ++ 0#3 ++ 6#3), .vred 20 21 2 0 0 6),
    (a 0x55 (7#5 ++ 6#5 ++ 5#5 ++ 0#7), .mand 7 6 5), (a 0x5C (22#5 ++ 0#5 ++ 32#12), .bget 22 32),
    (a 0x62 (23#5 ++ 24#5 ++ 25#5 ++ 0#1 ++ 0#3 ++ 0#1 ++ 1#1 ++ 1#1), .mma 23 24 25 0 0 1 1),
    (a 0x67 (3#3 ++ 0#6 ++ 26#5 ++ 0#5 ++ 2#3), .qld 3 26 2)],
    decodeWord p.1 = .ok p.2 ∧ decodeTableWord 32 p.1.toNat = some p.2

/-- R44, R58: the decoder and the encoder agree, for every operand value that the encodings admit: a well-formed instruction
that has a word is read back from it, with and without the bits L and P, and a word that is read as an instruction is the word
of that instruction and of no other. -/
def Obligations.DecodeEncode : Prop :=
  (∀ i w, wellFormed i = true → encode i = some w → decodeWord w = .ok i ∧
    ∀ p v, encodeLone i p = some v → decodeWord v = .ok i ∧ v.getLsbD 31 = true ∧ v.getLsbD 29 = p) ∧
  (∀ w i, decodeWord w = .ok i → wellFormed i = true ∧ encode i = some (w &&& 0x5FFFFFFF))

/-- R48, R56 to R58: an opcode that the opcode maps leave out is reserved, and every other word that no well-formed
instruction has breaks a reserved field or names a reserved operation of an engine. -/
def Obligations.ReservedEncodings : Prop :=
  ∀ w : BitVec 32,
    let op := (w.extractLsb' 22 7).toNat
    let assigned : Prop := if w.getLsbD 30 = true then op < 0x71 ∧ op ∉ [0x27, 0x54]
      else op < 0x58 ∧ op ∉ [0x12, 0x13, 0x2E]
    (decodeWord w = .error .reservedOp ↔ ¬ assigned) ∧
    (assigned → (∀ i, wellFormed i = true → encode i ≠ some (w &&& 0x5FFFFFFF)) →
      decodeWord w = .error .reservedField ∨
      (decodeWord w = .error .engineOpc ∧ w.getLsbD 30 = false ∧ 0x37 ≤ op ∧ op ≤ 0x3A))

/-- R118, R121, R268, R412, R432, and the reset values that the model names (log 2 to 5): what stands right after power good.
The mask ROM runs in stage SAFE (the model's reading, log 91), no slot holds a thread, no core a context; every byte of memory reads zero (the model's
choice, log 3) and every tag is full. -/
def Obligations.ResetState : Prop :=
  let r := State.reset
  r.Inv ∧ r.powered = true ∧ r.time = 0 ∧ r.mgmt.stage = 1 ∧ r.mgmt.repl = 0 ∧ r.mgmt.mbcmd = 0 ∧
  r.gaffer.queues = [] ∧ r.gaffer.launches = [] ∧ r.gaffer.ctxs = [] ∧ r.pageReqs = [] ∧ r.feWaits = [] ∧
  (∀ k, readByte r.mem k = 0 ∧ tagFull r k = true ∧ lineMetaOf r k = 0) ∧
  (∀ c, (r.core c).ctx = none ∧ (r.core c).cycle = 0 ∧ (r.core c).level = 12 ∧ (r.core c).trapq = [] ∧
    (r.core c).twinFull = 0 ∧ (r.core c).sgm = 0 ∧ (r.core c).shpen = 0 ∧ ∀ k, (r.core c).nfReg k = 0) ∧
  (∀ c sl, (r.slot c sl).wspV = false ∧ (r.slot c sl).sca = 0 ∧ (r.slot c sl).scb = 0 ∧ (r.slot c sl).munf = none) ∧
  (∀ c b, (∀ k, gReg r c b k = 0) ∧ (∀ k, vReg r c b k = 0) ∧ (∀ k, mReg r c b k = 0) ∧ fflagsOf r c b = 0 ∧
    rmMode r c b = 0 ∧ srgOf r c b = 0 ∧ wlimOf r c b = 0 ∧ strictOn r c b = false) ∧
  (∀ q, (r.quad q).held = false ∧ (r.quad q).wait = false) ∧ (∀ d, mapGet 12 r.power.level d = 12)

/-- Every step of the part, from every state in canonical form, leaves a state in canonical form: memory lists each byte once,
in rising order, and none that reads as an unlisted byte does, and so for tags, metadata, slots, cores and quads.

The forms are the model's own. -/
def Obligations.StepsKeepForms : Prop := ∀ s t : State, s.Inv → step s = .next t → t.Inv

/-- R37, R42, R45, R47, R48: on the turn of an eligible thread whose next bundle is the lone word of an instruction, the step
is that instruction's meaning; a word that does not decode traps; a slot that may not issue lets the cycle pass.

Model's choice, log 1: `exec i` is the turn of the core that is served, with i alone as the next bundle. -/
def Obligations.TurnsRunBundles : Prop :=
  (∀ s x rest i, s.Inv → s.agenda = (Instr.barrelTurn, x) :: rest → let t := { s with agenda := rest, sel := x }
    t.evenTurn → slotBarred t t.hereCore t.hereSlot = false → t.fetches i → step s = exec i t) ∧
  (∀ s i, s.Inv → s.evenTurn → slotBarred s s.hereCore s.hereSlot = false → s.fetches i →
    exec .barrelTurn s = exec i s) ∧
  (∀ (s : State) w, s.Inv → s.evenTurn → s.eligible → fetchBundle s s.hereCore s.hereSlot s.herePc = .words [w] [] →
    (decodeWord w = .error .reservedOp → exec .barrelTurn s = .next (s.trapsWith 0x01 (w.setWidth 64) 0)) ∧
    (decodeWord w = .error .reservedField → exec .barrelTurn s = .next (s.trapsWith 0x02 (w.setWidth 64) 0))) ∧
  (∀ s, s.Inv → s.evenTurn → slotBarred s s.hereCore s.hereSlot = true → slotOff s s.hereCore s.hereSlot = false →
    (slotInert s s.hereCore s.hereSlot = true ∨ s.here.faults = []) → lowestIdle s s.hereCore ≠ some s.hereSlot → exec .barrelTurn s = .next (s.ticked s.hereCore))

/-- R45 to R47, R49, R50, R60: a branch and an addition in a pair read the registers as they stood before it and take effect
together; the branch counts from the bundle's address and falls through past both words. When the jump of a pair traps 0x42
its addition takes no effect; `jal` beside an addition to its link register traps 0x05; and the park marker on a lone `addi`
parks the thread behind the bundle while an operation is outstanding. -/
def Obligations.PairsAndParks : Prop :=
  ∀ (s : State) (w v : BitVec 32), s.Inv → s.evenTurn → s.eligible →
    let traps (cause : BitVec 8) (aux : Word) (aux2 : BitVec 32) : Prop :=
      exec .barrelTurn s = .next (s.parkedBy s.here (trapRecord s s.hereSlot cause aux aux2 s.herePc true false))
    (fetchBundle s s.hereCore s.hereSlot s.herePc = .words [w, v] [] → v.getLsbD 29 = false →
      (∀ d x y a b o, decodeWord w = .ok (.bEq a b o) → decodeWord v = .ok (.add d x y) → w.getLsbD 29 = false →
        pendingOf s.here [a.toNat, b.toNat, d.toNat, x.toNat, y.toNat] = [] → (s.wordTarget o).toNat < 2 ^ 57 →
        (∀ l, l < 3 → (s.level s l).active = false ∨ (s.level s l).lastWord ≠ s.herePc + 4) →
        ∃ t, exec .barrelTurn s = .next t ∧ Turned s t { l := gBytes d } ∧ t.gIs s d (s.g x + s.g y) ∧
          t.pcAt s (if s.g a = s.g b then (s.wordTarget o).toNat else s.herePc + 8)) ∧
      (∀ d x y a m, decodeWord w = .ok (.jr a m) → decodeWord v = .ok (.add d x y) →
        pendingOf s.here [a.toNat, d.toNat, x.toNat, y.toNat] = [] → 2 ^ 57 ≤ (s.regTarget a m).toNat →
        traps 0x42 (s.regTarget a m) 0) ∧
      (∀ x y o, decodeWord w = .ok (.jal o) → decodeWord v = .ok (.add 31 x y) →
        traps 0x05 (v.setWidth 64 <<< 32 ||| w.setWidth 64) 31)) ∧
    (∀ d a m, fetchBundle s s.hereCore s.hereSlot s.herePc = .words [w] [] → decodeWord w = .ok (.addi d a m) →
      w.getLsbD 29 = true → pendingOf s.here [d.toNat, a.toNat] = [] →
      ∃ t, exec .barrelTurn s = .next t ∧ FallsThrough s t (gBytes d) ∧ t.gIs s d (s.g a + m.signExtend 64) ∧
        Turned s t { l := gBytes d ++ s.endBytes, f := fun z => if z.outstanding = 0 then z else { z with
          park := some { kind := .marker, all := true, pc := s.herePc, pair := false,
                         cycle := s.hereOf.cycle.toNat, first := s.here.seq } } })

/-- R48, R63, R126: a field value that no encoding admits traps 0x02, a privileged instruction, which only those of R126
are, in a user slot 0x06, and under strict mode an instruction that touches a pending register 0x04, in that order.

Model's choice, log 74: which of several pending registers the record names. -/
def Obligations.DecodeTraps : Prop :=
  (∀ d a b, ∀ i ∈ [Instr.rte, .wrd d a b, .wwr d a b, .walloc d, .wallocRel a, .slotctlKill d a, .slotctlStat d a,
    .slotctlStop d a, .slotctlGo d a, .wspx d a b, .cwr a 0x32, .crx d a 0x32], privileged i = true) ∧
  (∀ i, privileged i = true → i = .rte ∨ ∃ d a b, i ∈ [Instr.wrd d a b, .wwr d a b, .walloc d, .wallocRel a,
    .slotctlKill d a, .slotctlStat d a, .slotctlStop d a, .slotctlGo d a, .wspx d a b, .cwr a 0x32, .crx d a 0x32]) ∧
  ∀ (s : State) (i : Instr), s.Inv → s.eligible → encode i ≠ none →
    (s.hereSlot ≠ 0 ∨ setLevel s s.hereCore = s.hereOf.level) →
    let bad := BitVec.ofNat 64 (loneWord i).toNat
    (wellFormed i = false → Traps s i 0x02 bad 0) ∧
    (wellFormed i = true → s.hereSlot ≠ 0 → privileged i = true → Traps s i 0x06 bad 0) ∧
    (wellFormed i = true → s.hereSlot = 0 ∨ privileged i = false → (∀ p ∈ queuePorts i, (queuePorts i).count p ≤ 1) →
      strictOn s s.hereCore s.hereBlock = true →
      (∀ k l, pendingOf s.here (readsOf i) = k :: l → Traps s i 0x04 (BitVec.ofNat 64 k) 0) ∧
      (∀ k l, pendingOf s.here (readsOf i) = [] → pendingOf s.here (writesOf i) = k :: l →
        Traps s i 0x04 (BitVec.ofNat 64 k) 1))

/-- R408, R411, R412: what a station has written into a line of HBM or the second tier it reads back, with the check values of
the sectors written, when nothing damages them on their way; no other byte changes. -/
def Obligations.LinesReadBack : Prop :=
  ∀ (s : State) (k : Nat) (bs : List Byte) (whole : Bool) (e : List Eff), s.Inv → noiseWritten s k (bs.map some) = [] →
    rising s.ceData = true → rising s.ceMeta = true → bs ≠ [] → k % 128 + bs.length ≤ 128 → lineWrite s k bs false whole = (e, .ok ()) →
    let t := applyAll s e
    lineRead t k bs.length false = ([], .ok bs) ∧
    (∀ j, j < k ∨ k + bs.length ≤ j → readByte t.mem j = readByte s.mem j) ∧
    (∀ j, lineBase j ≠ lineBase k → lineMetaOf t j = lineMetaOf s j) ∧ tagOf (lineMetaOf t k) = 0
end

