-- ==== Sys2Proof/Laws/Maps.lean ====
section
/-!
SUPPORT. Sparse collections and the memory: a read after a write, a write leaves every other place
alone, and every operation keeps the canonical form.
-/

namespace Sys2Proof.Machine

variable {α : Type} [DecidableEq α]

/-- Reading the number just written gives the record written. -/
@[simp] theorem mapGet_mapSet_same (d : α) (m : Map α) (k : Nat) (v : α)
    (h : mapWf d m = true) : mapGet d (mapSet d m k v) k = v := by
  induction m with
  | nil => by_cases hv : v = d <;> simp [mapSet, mapGet, hv]
  | cons e r ih =>
    obtain ⟨j, x⟩ := e
    simp only [mapWf, Bool.and_eq_true, decide_eq_true_eq, List.all_eq_true] at h
    obtain ⟨⟨hx, hall⟩, hr⟩ := h
    have tail (k : Nat) (hk : k ≤ j) : mapGet d r k = d := by
      clear ih
      induction r with
      | nil => rfl
      | cons f r ih2 =>
        obtain ⟨i, y⟩ := f
        have hi := hall (i, y) (by simp)
        simp only [mapWf, Bool.and_eq_true] at hr
        simp only [mapGet]
        rw [if_neg (by simp only at hi; omega)]
        exact ih2 hr.2 (fun e he => hall e (by simp [he]))
    simp only [mapSet]
    split
    · split
      · rename_i h1 h2
        subst h2
        simp only [mapGet]
        rw [if_neg (by omega)]
        exact tail k (by omega)
      · simp [mapGet]
    · split
      · rename_i h1 h2
        subst h2
        split
        · rename_i h3; subst h3; exact tail k (Nat.le_refl _)
        · simp [mapGet]
      · rename_i h1 h2
        simp only [mapGet]
        rw [if_neg (by omega)]
        exact ih hr

/-- Reading another number gives what it gave before. -/
@[simp] theorem mapGet_mapSet_ne (d : α) (m : Map α) (k k' : Nat) (v : α) (h : k' ≠ k) :
    mapGet d (mapSet d m k v) k' = mapGet d m k' := by
  induction m with
  | nil =>
    by_cases hv : v = d
    · simp [mapSet, hv]
    · simp [mapSet, mapGet, hv, Ne.symm h]
  | cons e r ih =>
    obtain ⟨j, x⟩ := e
    simp only [mapSet]
    split
    · split
      · rfl
      · simp [mapGet, Ne.symm h]
    · split
      · rename_i h1 h2
        subst h2
        split
        · simp [mapGet, Ne.symm h]
        · simp [mapGet, Ne.symm h]
      · simp only [mapGet, ih]

/-- Every number listed after a write was listed before, or is the one written. -/
theorem mem_mapSet {d : α} {m : Map α} {k : Nat} {v : α} {e : Nat × α} (h : e ∈ mapSet d m k v) :
    e ∈ m ∨ e = (k, v) := by
  induction m with
  | nil =>
    simp only [mapSet] at h
    split at h <;> simp_all
  | cons f r ih =>
    obtain ⟨j, x⟩ := f
    simp only [mapSet] at h
    split at h
    · split at h
      · exact .inl h
      · rcases List.mem_cons.1 h with h | h
        · exact .inr h
        · exact .inl h
    · split at h
      · split at h
        · exact .inl (List.mem_cons_of_mem _ h)
        · rcases List.mem_cons.1 h with h | h
          · exact .inr h
          · exact .inl (List.mem_cons_of_mem _ h)
      · rcases List.mem_cons.1 h with h | h
        · exact .inl (by simp [h])
        · rcases ih h with h | h
          · exact .inl (List.mem_cons_of_mem _ h)
          · exact .inr h

/-- A write keeps the canonical form. -/
theorem mapWf_mapSet (d : α) (m : Map α) (k : Nat) (v : α) (h : mapWf d m = true) :
    mapWf d (mapSet d m k v) = true := by
  induction m with
  | nil => by_cases hv : v = d <;> simp [mapSet, mapWf, hv]
  | cons e r ih =>
    obtain ⟨j, x⟩ := e
    have h0 := h
    simp only [mapWf, Bool.and_eq_true, decide_eq_true_eq, List.all_eq_true] at h
    obtain ⟨⟨hx, hall⟩, hr⟩ := h
    simp only [mapSet]
    split
    · rename_i hk
      split
      · exact h0
      · rename_i hv
        simp only [mapWf, Bool.and_eq_true, decide_eq_true_eq, List.all_eq_true]
        refine ⟨⟨hv, ?_⟩, ⟨hx, hall⟩, hr⟩
        intro e he
        rcases List.mem_cons.1 he with he | he
        · simp [he, hk]
        · exact Nat.lt_trans hk (hall e he)
    · split
      · rename_i h1 h2
        subst h2
        split
        · exact hr
        · rename_i hv
          simp only [mapWf, Bool.and_eq_true, decide_eq_true_eq, List.all_eq_true]
          exact ⟨⟨hv, hall⟩, hr⟩
      · rename_i h1 h2
        simp only [mapWf, Bool.and_eq_true, decide_eq_true_eq, List.all_eq_true]
        refine ⟨⟨hx, ?_⟩, ih hr⟩
        intro e he
        rcases mem_mapSet he with he | he
        · exact hall e he
        · simp only [he]; omega

/-- A part of a canonical collection is canonical. -/
theorem mapWf_filter (d : α) (m : Map α) (p : Nat × α → Bool) (h : mapWf d m = true) :
    mapWf d (m.filter p) = true := by
  induction m with
  | nil => rfl
  | cons e r ih =>
    obtain ⟨j, x⟩ := e
    simp only [mapWf, Bool.and_eq_true, decide_eq_true_eq, List.all_eq_true] at h
    obtain ⟨⟨hx, hall⟩, hr⟩ := h
    simp only [List.filter_cons]
    split
    · simp only [mapWf, Bool.and_eq_true, decide_eq_true_eq, List.all_eq_true]
      exact ⟨⟨hx, fun e he => hall e (List.mem_filter.1 he).1⟩, ih hr⟩
    · exact ih hr

/-! ### The memory -/

/-- A byte just written reads as written. -/
@[simp] theorem readByte_writeByte_same (m : List Host.Cell) (k : Nat) (b : Byte)
    (h : Memory.wf m = true) : readByte (writeByte m k b) k = b :=
  mapGet_mapSet_same _ m k b h

/-- A write of one byte leaves every other byte alone. -/
@[simp] theorem readByte_writeByte_ne (m : List Host.Cell) (k k' : Nat) (b : Byte) (h : k' ≠ k) :
    readByte (writeByte m k b) k' = readByte m k' :=
  mapGet_mapSet_ne _ m k k' b h

/-- A write of one byte keeps the canonical form. -/
theorem wf_writeByte (m : List Host.Cell) (k : Nat) (b : Byte) (h : Memory.wf m = true) :
    Memory.wf (writeByte m k b) = true :=
  mapWf_mapSet _ m k b h

/-- A write of bytes keeps the canonical form. -/
theorem wf_writeBytes (m : List Host.Cell) (k : Nat) (bs : List Byte) (h : Memory.wf m = true) :
    Memory.wf (writeBytes m k bs) = true := by
  induction bs generalizing m k with
  | nil => exact h
  | cons b r ih => exact ih _ _ (wf_writeByte m k b h)

/-- A write of bytes leaves every byte outside them alone. -/
theorem readByte_writeBytes_outside (m : List Host.Cell) (k : Nat) (bs : List Byte) (k' : Nat)
    (h : k' < k ∨ k + bs.length ≤ k') : readByte (writeBytes m k bs) k' = readByte m k' := by
  induction bs generalizing m k with
  | nil => rfl
  | cons b r ih =>
    simp only [List.length_cons] at h
    simp only [writeBytes]
    rw [ih _ _ (by omega), readByte_writeByte_ne _ _ _ _ (by omega)]

/-- Bytes just written read as written. -/
theorem readByte_writeBytes_inside (m : List Host.Cell) (k : Nat) (bs : List Byte) (i : Nat)
    (hm : Memory.wf m = true) (h : i < bs.length) :
    readByte (writeBytes m k bs) (k + i) = bs.getD i 0 := by
  induction bs generalizing m k i with
  | nil => simp at h
  | cons b r ih =>
    simp only [writeBytes]
    cases i with
    | zero =>
      rw [readByte_writeBytes_outside _ _ _ _ (by omega)]
      simpa using readByte_writeByte_same m k b hm
    | succ i =>
      have := ih (writeByte m k b) (k + 1) i (wf_writeByte m k b hm) (by simpa using h)
      rw [show k + (i + 1) = k + 1 + i from by omega, this]
      simp

/-- The length of bytes read. -/
@[simp] theorem length_readBytes (m : List Host.Cell) (k n : Nat) : (readBytes m k n).length = n := by
  induction n generalizing k with
  | zero => rfl
  | succ n ih => simp [readBytes, ih]

/-- Byte i of bytes read. -/
theorem getD_readBytes (m : List Host.Cell) (k n i : Nat) (h : i < n) :
    (readBytes m k n).getD i 0 = readByte m (k + i) := by
  induction n generalizing k i with
  | zero => omega
  | succ n ih =>
    cases i with
    | zero => simp [readBytes]
    | succ i =>
      have := ih (k + 1) i (by omega)
      simp only [readBytes, List.getD_cons_succ, this]
      congr 1
      omega

/-- Bytes read that no write has touched. -/
theorem readBytes_congr (m m' : List Host.Cell) (k n : Nat)
    (h : ∀ i, i < n → readByte m (k + i) = readByte m' (k + i)) :
    readBytes m k n = readBytes m' k n := by
  induction n generalizing k with
  | zero => rfl
  | succ n ih =>
    have h0 := h 0 (by omega)
    simp only [readBytes]
    rw [ih (k + 1) fun i hi => by
      have := h (i + 1) (by omega)
      rwa [show k + (i + 1) = k + 1 + i from by omega] at this]
    simp only [Nat.add_zero] at h0
    rw [h0]

/-- Bytes written are the bytes read. -/
theorem readBytes_writeBytes (m : List Host.Cell) (k : Nat) (bs : List Byte)
    (hm : Memory.wf m = true) : readBytes (writeBytes m k bs) k bs.length = bs := by
  induction bs generalizing m k with
  | nil => rfl
  | cons b r ih =>
    simp only [writeBytes, List.length_cons, readBytes]
    rw [ih _ _ (wf_writeByte m k b hm), readByte_writeBytes_outside _ _ _ _ (by omega)]
    simp [readByte_writeByte_same m k b hm]

/-! ### Rising sets -/

/-- Membership after a change. -/
theorem mem_setPut {m : List Nat} {k j : Nat} {b : Bool} (h : j ∈ setPut m k b) : j ∈ m ∨ j = k := by
  induction m with
  | nil => cases b <;> simp_all [setPut]
  | cons i r ih =>
    simp only [setPut] at h
    split at h
    · cases b
      · exact .inl h
      · rcases List.mem_cons.1 h with h | h
        · exact .inr h
        · exact .inl h
    · split at h
      · cases b
        · exact .inl (List.mem_cons_of_mem _ h)
        · rcases List.mem_cons.1 h with h | h
          · exact .inr h
          · exact .inl (List.mem_cons_of_mem _ h)
      · rcases List.mem_cons.1 h with h | h
        · exact .inl (by simp [h])
        · rcases ih h with h | h
          · exact .inl (List.mem_cons_of_mem _ h)
          · exact .inr h

/-- A change keeps the numbers rising. -/
theorem rising_setPut (m : List Nat) (k : Nat) (b : Bool) (h : rising m = true) :
    rising (setPut m k b) = true := by
  induction m with
  | nil => cases b <;> rfl
  | cons i r ih =>
    have h0 := h
    simp only [rising, Bool.and_eq_true, List.all_eq_true, decide_eq_true_eq] at h
    simp only [setPut]
    split
    · rename_i hk
      cases b
      · exact h0
      · simp only [if_true, rising, Bool.and_eq_true, List.all_eq_true, decide_eq_true_eq]
        refine ⟨fun j hj => ?_, h.1, h.2⟩
        rcases List.mem_cons.1 hj with hj | hj
        · omega
        · exact Nat.lt_trans hk (h.1 j hj)
    · split
      · rename_i hk
        cases b
        · exact h.2
        · subst hk; simpa [rising] using h
      · simp only [rising, Bool.and_eq_true, List.all_eq_true, decide_eq_true_eq]
        refine ⟨fun j hj => ?_, ih h.2⟩
        rcases mem_setPut hj with hj | hj
        · exact h.1 j hj
        · omega

/-- A part of rising numbers is rising. -/
theorem rising_filter (m : List Nat) (p : Nat → Bool) (h : rising m = true) :
    rising (m.filter p) = true := by
  induction m with
  | nil => rfl
  | cons i r ih =>
    simp only [rising, Bool.and_eq_true, List.all_eq_true, decide_eq_true_eq] at h
    simp only [List.filter_cons]
    split
    · simp only [rising, Bool.and_eq_true, List.all_eq_true, decide_eq_true_eq]
      exact ⟨fun j hj => h.1 j (List.mem_filter.1 hj).1, ih h.2⟩
    · exact ih h.2

/-- A number changed is in the set or not, as asked. -/
theorem contains_setPut_same (m : List Nat) (k : Nat) (b : Bool) (h : rising m = true) :
    (setPut m k b).contains k = b := by
  induction m with
  | nil => cases b <;> simp [setPut]
  | cons i r ih =>
    simp only [rising, Bool.and_eq_true, List.all_eq_true, decide_eq_true_eq] at h
    simp only [setPut]
    split
    · rename_i hk
      cases b
      · simp only [Bool.false_eq_true, if_false, List.contains_eq_mem, decide_eq_false_iff_not,
          List.mem_cons, not_or]
        exact ⟨by omega, fun hm => by have := h.1 k hm; omega⟩
      · simp
    · split
      · rename_i hk
        subst hk
        cases b
        · simp only [Bool.false_eq_true, if_false, List.contains_eq_mem, decide_eq_false_iff_not]
          exact fun hm => by have := h.1 k hm; omega
        · simp
      · rename_i h1 h2
        have := ih h.2
        rw [List.contains_cons, this]
        simp [h2]

/-- Every other number is in the set as before. -/
theorem contains_setPut_ne (m : List Nat) (k j : Nat) (b : Bool) (h : j ≠ k) :
    (setPut m k b).contains j = m.contains j := by
  induction m with
  | nil => cases b <;> simp [setPut, h]
  | cons i r ih =>
    simp only [setPut]
    split
    · cases b <;> simp [h]
    · split
      · rename_i hk
        subst hk
        cases b <;> simp [h]
      · simp only [List.contains_eq_mem, List.mem_cons] at ih ⊢
        simp [ih]

end Sys2Proof.Machine
end

