-- ==== Sys2Proof/Laws/State.lean ====
section
/-!
SUPPORT. What a change of one record leaves of the state's other fields: one equation for each
field and each update.
-/

namespace Sys2Proof.Machine

/-! ### `State.setCore` -/

@[simp] theorem State.setCore_powered (s : State) (c : Nat) (x : CoreSt) :
    (s.setCore c x).powered = s.powered := rfl

@[simp] theorem State.setCore_time (s : State) (c : Nat) (x : CoreSt) :
    (s.setCore c x).time = s.time := rfl

@[simp] theorem State.setCore_mem (s : State) (c : Nat) (x : CoreSt) :
    (s.setCore c x).mem = s.mem := rfl

@[simp] theorem State.setCore_empties (s : State) (c : Nat) (x : CoreSt) :
    (s.setCore c x).empties = s.empties := rfl

@[simp] theorem State.setCore_lineMeta (s : State) (c : Nat) (x : CoreSt) :
    (s.setCore c x).lineMeta = s.lineMeta := rfl

@[simp] theorem State.setCore_ueData (s : State) (c : Nat) (x : CoreSt) :
    (s.setCore c x).ueData = s.ueData := rfl

@[simp] theorem State.setCore_ueMeta (s : State) (c : Nat) (x : CoreSt) :
    (s.setCore c x).ueMeta = s.ueMeta := rfl

@[simp] theorem State.setCore_corrected (s : State) (c : Nat) (x : CoreSt) :
    (s.setCore c x).corrected = s.corrected := rfl

@[simp] theorem State.setCore_ceData (s : State) (c : Nat) (x : CoreSt) :
    (s.setCore c x).ceData = s.ceData := rfl

@[simp] theorem State.setCore_ceMeta (s : State) (c : Nat) (x : CoreSt) :
    (s.setCore c x).ceMeta = s.ceMeta := rfl

@[simp] theorem State.setCore_noiseIn (s : State) (c : Nat) (x : CoreSt) :
    (s.setCore c x).noiseIn = s.noiseIn := rfl

@[simp] theorem State.setCore_noiseOut (s : State) (c : Nat) (x : CoreSt) :
    (s.setCore c x).noiseOut = s.noiseOut := rfl

@[simp] theorem State.setCore_badBytes (s : State) (c : Nat) (x : CoreSt) :
    (s.setCore c x).badBytes = s.badBytes := rfl

@[simp] theorem State.setCore_oldWords (s : State) (c : Nat) (x : CoreSt) :
    (s.setCore c x).oldWords = s.oldWords := rfl

@[simp] theorem State.setCore_slots (s : State) (c : Nat) (x : CoreSt) :
    (s.setCore c x).slots = s.slots := rfl

@[simp] theorem State.setCore_quads (s : State) (c : Nat) (x : CoreSt) :
    (s.setCore c x).quads = s.quads := rfl

@[simp] theorem State.setCore_feWaits (s : State) (c : Nat) (x : CoreSt) :
    (s.setCore c x).feWaits = s.feWaits := rfl

@[simp] theorem State.setCore_episodes (s : State) (c : Nat) (x : CoreSt) :
    (s.setCore c x).episodes = s.episodes := rfl

@[simp] theorem State.setCore_colls (s : State) (c : Nat) (x : CoreSt) :
    (s.setCore c x).colls = s.colls := rfl

@[simp] theorem State.setCore_pageReqs (s : State) (c : Nat) (x : CoreSt) :
    (s.setCore c x).pageReqs = s.pageReqs := rfl

@[simp] theorem State.setCore_gaffer (s : State) (c : Nat) (x : CoreSt) :
    (s.setCore c x).gaffer = s.gaffer := rfl

@[simp] theorem State.setCore_power (s : State) (c : Nat) (x : CoreSt) :
    (s.setCore c x).power = s.power := rfl

@[simp] theorem State.setCore_mgmt (s : State) (c : Nat) (x : CoreSt) :
    (s.setCore c x).mgmt = s.mgmt := rfl

@[simp] theorem State.setCore_link (s : State) (c : Nat) (x : CoreSt) :
    (s.setCore c x).link = s.link := rfl

@[simp] theorem State.setCore_agenda (s : State) (c : Nat) (x : CoreSt) :
    (s.setCore c x).agenda = s.agenda := rfl

@[simp] theorem State.setCore_free (s : State) (c : Nat) (x : CoreSt) :
    (s.setCore c x).free = s.free := rfl

@[simp] theorem State.setCore_sel (s : State) (c : Nat) (x : CoreSt) :
    (s.setCore c x).sel = s.sel := rfl

@[simp] theorem State.setCore_slot (s : State) (c : Nat) (x : CoreSt) (k j : Nat) :
    (s.setCore c x).slot k j = s.slot k j := rfl

@[simp] theorem State.setCore_quad (s : State) (c : Nat) (x : CoreSt) (k : Nat) :
    (s.setCore c x).quad k = s.quad k := rfl

/-! ### `State.setSlot` -/

@[simp] theorem State.setSlot_powered (s : State) (c sl : Nat) (x : Slot) :
    (s.setSlot c sl x).powered = s.powered := rfl

@[simp] theorem State.setSlot_time (s : State) (c sl : Nat) (x : Slot) :
    (s.setSlot c sl x).time = s.time := rfl

@[simp] theorem State.setSlot_mem (s : State) (c sl : Nat) (x : Slot) :
    (s.setSlot c sl x).mem = s.mem := rfl

@[simp] theorem State.setSlot_empties (s : State) (c sl : Nat) (x : Slot) :
    (s.setSlot c sl x).empties = s.empties := rfl

@[simp] theorem State.setSlot_lineMeta (s : State) (c sl : Nat) (x : Slot) :
    (s.setSlot c sl x).lineMeta = s.lineMeta := rfl

@[simp] theorem State.setSlot_ueData (s : State) (c sl : Nat) (x : Slot) :
    (s.setSlot c sl x).ueData = s.ueData := rfl

@[simp] theorem State.setSlot_ueMeta (s : State) (c sl : Nat) (x : Slot) :
    (s.setSlot c sl x).ueMeta = s.ueMeta := rfl

@[simp] theorem State.setSlot_corrected (s : State) (c sl : Nat) (x : Slot) :
    (s.setSlot c sl x).corrected = s.corrected := rfl

@[simp] theorem State.setSlot_ceData (s : State) (c sl : Nat) (x : Slot) :
    (s.setSlot c sl x).ceData = s.ceData := rfl

@[simp] theorem State.setSlot_ceMeta (s : State) (c sl : Nat) (x : Slot) :
    (s.setSlot c sl x).ceMeta = s.ceMeta := rfl

@[simp] theorem State.setSlot_noiseIn (s : State) (c sl : Nat) (x : Slot) :
    (s.setSlot c sl x).noiseIn = s.noiseIn := rfl

@[simp] theorem State.setSlot_noiseOut (s : State) (c sl : Nat) (x : Slot) :
    (s.setSlot c sl x).noiseOut = s.noiseOut := rfl

@[simp] theorem State.setSlot_badBytes (s : State) (c sl : Nat) (x : Slot) :
    (s.setSlot c sl x).badBytes = s.badBytes := rfl

@[simp] theorem State.setSlot_oldWords (s : State) (c sl : Nat) (x : Slot) :
    (s.setSlot c sl x).oldWords = s.oldWords := rfl

@[simp] theorem State.setSlot_cores (s : State) (c sl : Nat) (x : Slot) :
    (s.setSlot c sl x).cores = s.cores := rfl

@[simp] theorem State.setSlot_quads (s : State) (c sl : Nat) (x : Slot) :
    (s.setSlot c sl x).quads = s.quads := rfl

@[simp] theorem State.setSlot_feWaits (s : State) (c sl : Nat) (x : Slot) :
    (s.setSlot c sl x).feWaits = s.feWaits := rfl

@[simp] theorem State.setSlot_episodes (s : State) (c sl : Nat) (x : Slot) :
    (s.setSlot c sl x).episodes = s.episodes := rfl

@[simp] theorem State.setSlot_colls (s : State) (c sl : Nat) (x : Slot) :
    (s.setSlot c sl x).colls = s.colls := rfl

@[simp] theorem State.setSlot_pageReqs (s : State) (c sl : Nat) (x : Slot) :
    (s.setSlot c sl x).pageReqs = s.pageReqs := rfl

@[simp] theorem State.setSlot_gaffer (s : State) (c sl : Nat) (x : Slot) :
    (s.setSlot c sl x).gaffer = s.gaffer := rfl

@[simp] theorem State.setSlot_power (s : State) (c sl : Nat) (x : Slot) :
    (s.setSlot c sl x).power = s.power := rfl

@[simp] theorem State.setSlot_mgmt (s : State) (c sl : Nat) (x : Slot) :
    (s.setSlot c sl x).mgmt = s.mgmt := rfl

@[simp] theorem State.setSlot_link (s : State) (c sl : Nat) (x : Slot) :
    (s.setSlot c sl x).link = s.link := rfl

@[simp] theorem State.setSlot_agenda (s : State) (c sl : Nat) (x : Slot) :
    (s.setSlot c sl x).agenda = s.agenda := rfl

@[simp] theorem State.setSlot_free (s : State) (c sl : Nat) (x : Slot) :
    (s.setSlot c sl x).free = s.free := rfl

@[simp] theorem State.setSlot_sel (s : State) (c sl : Nat) (x : Slot) :
    (s.setSlot c sl x).sel = s.sel := rfl

@[simp] theorem State.setSlot_core (s : State) (c sl : Nat) (x : Slot) (k : Nat) :
    (s.setSlot c sl x).core k = s.core k := rfl

@[simp] theorem State.setSlot_quad (s : State) (c sl : Nat) (x : Slot) (k : Nat) :
    (s.setSlot c sl x).quad k = s.quad k := rfl

/-! ### `State.setQuad` -/

@[simp] theorem State.setQuad_powered (s : State) (q : Nat) (x : Quad) :
    (s.setQuad q x).powered = s.powered := rfl

@[simp] theorem State.setQuad_time (s : State) (q : Nat) (x : Quad) :
    (s.setQuad q x).time = s.time := rfl

@[simp] theorem State.setQuad_mem (s : State) (q : Nat) (x : Quad) :
    (s.setQuad q x).mem = s.mem := rfl

@[simp] theorem State.setQuad_empties (s : State) (q : Nat) (x : Quad) :
    (s.setQuad q x).empties = s.empties := rfl

@[simp] theorem State.setQuad_lineMeta (s : State) (q : Nat) (x : Quad) :
    (s.setQuad q x).lineMeta = s.lineMeta := rfl

@[simp] theorem State.setQuad_ueData (s : State) (q : Nat) (x : Quad) :
    (s.setQuad q x).ueData = s.ueData := rfl

@[simp] theorem State.setQuad_ueMeta (s : State) (q : Nat) (x : Quad) :
    (s.setQuad q x).ueMeta = s.ueMeta := rfl

@[simp] theorem State.setQuad_corrected (s : State) (q : Nat) (x : Quad) :
    (s.setQuad q x).corrected = s.corrected := rfl

@[simp] theorem State.setQuad_ceData (s : State) (q : Nat) (x : Quad) :
    (s.setQuad q x).ceData = s.ceData := rfl

@[simp] theorem State.setQuad_ceMeta (s : State) (q : Nat) (x : Quad) :
    (s.setQuad q x).ceMeta = s.ceMeta := rfl

@[simp] theorem State.setQuad_noiseIn (s : State) (q : Nat) (x : Quad) :
    (s.setQuad q x).noiseIn = s.noiseIn := rfl

@[simp] theorem State.setQuad_noiseOut (s : State) (q : Nat) (x : Quad) :
    (s.setQuad q x).noiseOut = s.noiseOut := rfl

@[simp] theorem State.setQuad_badBytes (s : State) (q : Nat) (x : Quad) :
    (s.setQuad q x).badBytes = s.badBytes := rfl

@[simp] theorem State.setQuad_oldWords (s : State) (q : Nat) (x : Quad) :
    (s.setQuad q x).oldWords = s.oldWords := rfl

@[simp] theorem State.setQuad_slots (s : State) (q : Nat) (x : Quad) :
    (s.setQuad q x).slots = s.slots := rfl

@[simp] theorem State.setQuad_cores (s : State) (q : Nat) (x : Quad) :
    (s.setQuad q x).cores = s.cores := rfl

@[simp] theorem State.setQuad_feWaits (s : State) (q : Nat) (x : Quad) :
    (s.setQuad q x).feWaits = s.feWaits := rfl

@[simp] theorem State.setQuad_episodes (s : State) (q : Nat) (x : Quad) :
    (s.setQuad q x).episodes = s.episodes := rfl

@[simp] theorem State.setQuad_colls (s : State) (q : Nat) (x : Quad) :
    (s.setQuad q x).colls = s.colls := rfl

@[simp] theorem State.setQuad_pageReqs (s : State) (q : Nat) (x : Quad) :
    (s.setQuad q x).pageReqs = s.pageReqs := rfl

@[simp] theorem State.setQuad_gaffer (s : State) (q : Nat) (x : Quad) :
    (s.setQuad q x).gaffer = s.gaffer := rfl

@[simp] theorem State.setQuad_power (s : State) (q : Nat) (x : Quad) :
    (s.setQuad q x).power = s.power := rfl

@[simp] theorem State.setQuad_mgmt (s : State) (q : Nat) (x : Quad) :
    (s.setQuad q x).mgmt = s.mgmt := rfl

@[simp] theorem State.setQuad_link (s : State) (q : Nat) (x : Quad) :
    (s.setQuad q x).link = s.link := rfl

@[simp] theorem State.setQuad_agenda (s : State) (q : Nat) (x : Quad) :
    (s.setQuad q x).agenda = s.agenda := rfl

@[simp] theorem State.setQuad_free (s : State) (q : Nat) (x : Quad) :
    (s.setQuad q x).free = s.free := rfl

@[simp] theorem State.setQuad_sel (s : State) (q : Nat) (x : Quad) :
    (s.setQuad q x).sel = s.sel := rfl

@[simp] theorem State.setQuad_core (s : State) (q : Nat) (x : Quad) (k : Nat) :
    (s.setQuad q x).core k = s.core k := rfl

@[simp] theorem State.setQuad_slot (s : State) (q : Nat) (x : Quad) (k j : Nat) :
    (s.setQuad q x).slot k j = s.slot k j := rfl

/-! ### `State.setWm` -/

@[simp] theorem State.setWm_powered (s : State) (c off : Nat) (bs : List Byte) :
    (s.setWm c off bs).powered = s.powered := rfl

@[simp] theorem State.setWm_time (s : State) (c off : Nat) (bs : List Byte) :
    (s.setWm c off bs).time = s.time := rfl

@[simp] theorem State.setWm_empties (s : State) (c off : Nat) (bs : List Byte) :
    (s.setWm c off bs).empties = s.empties := rfl

@[simp] theorem State.setWm_lineMeta (s : State) (c off : Nat) (bs : List Byte) :
    (s.setWm c off bs).lineMeta = s.lineMeta := rfl

@[simp] theorem State.setWm_ueData (s : State) (c off : Nat) (bs : List Byte) :
    (s.setWm c off bs).ueData = s.ueData := rfl

@[simp] theorem State.setWm_ueMeta (s : State) (c off : Nat) (bs : List Byte) :
    (s.setWm c off bs).ueMeta = s.ueMeta := rfl

@[simp] theorem State.setWm_corrected (s : State) (c off : Nat) (bs : List Byte) :
    (s.setWm c off bs).corrected = s.corrected := rfl

@[simp] theorem State.setWm_ceData (s : State) (c off : Nat) (bs : List Byte) :
    (s.setWm c off bs).ceData = s.ceData := rfl

@[simp] theorem State.setWm_ceMeta (s : State) (c off : Nat) (bs : List Byte) :
    (s.setWm c off bs).ceMeta = s.ceMeta := rfl

@[simp] theorem State.setWm_noiseIn (s : State) (c off : Nat) (bs : List Byte) :
    (s.setWm c off bs).noiseIn = s.noiseIn := rfl

@[simp] theorem State.setWm_noiseOut (s : State) (c off : Nat) (bs : List Byte) :
    (s.setWm c off bs).noiseOut = s.noiseOut := rfl

@[simp] theorem State.setWm_badBytes (s : State) (c off : Nat) (bs : List Byte) :
    (s.setWm c off bs).badBytes = s.badBytes := rfl

@[simp] theorem State.setWm_oldWords (s : State) (c off : Nat) (bs : List Byte) :
    (s.setWm c off bs).oldWords = s.oldWords := rfl

@[simp] theorem State.setWm_slots (s : State) (c off : Nat) (bs : List Byte) :
    (s.setWm c off bs).slots = s.slots := rfl

@[simp] theorem State.setWm_quads (s : State) (c off : Nat) (bs : List Byte) :
    (s.setWm c off bs).quads = s.quads := rfl

@[simp] theorem State.setWm_feWaits (s : State) (c off : Nat) (bs : List Byte) :
    (s.setWm c off bs).feWaits = s.feWaits := rfl

@[simp] theorem State.setWm_episodes (s : State) (c off : Nat) (bs : List Byte) :
    (s.setWm c off bs).episodes = s.episodes := rfl

@[simp] theorem State.setWm_colls (s : State) (c off : Nat) (bs : List Byte) :
    (s.setWm c off bs).colls = s.colls := rfl

@[simp] theorem State.setWm_pageReqs (s : State) (c off : Nat) (bs : List Byte) :
    (s.setWm c off bs).pageReqs = s.pageReqs := rfl

@[simp] theorem State.setWm_gaffer (s : State) (c off : Nat) (bs : List Byte) :
    (s.setWm c off bs).gaffer = s.gaffer := rfl

@[simp] theorem State.setWm_power (s : State) (c off : Nat) (bs : List Byte) :
    (s.setWm c off bs).power = s.power := rfl

@[simp] theorem State.setWm_mgmt (s : State) (c off : Nat) (bs : List Byte) :
    (s.setWm c off bs).mgmt = s.mgmt := rfl

@[simp] theorem State.setWm_link (s : State) (c off : Nat) (bs : List Byte) :
    (s.setWm c off bs).link = s.link := rfl

@[simp] theorem State.setWm_agenda (s : State) (c off : Nat) (bs : List Byte) :
    (s.setWm c off bs).agenda = s.agenda := rfl

@[simp] theorem State.setWm_free (s : State) (c off : Nat) (bs : List Byte) :
    (s.setWm c off bs).free = s.free := rfl

@[simp] theorem State.setWm_sel (s : State) (c off : Nat) (bs : List Byte) :
    (s.setWm c off bs).sel = s.sel := rfl

@[simp] theorem State.setWm_mem (s : State) (c off : Nat) (bs : List Byte) :
    (s.setWm c off bs).mem = writeBytes s.mem (localKey c .wm off) bs := rfl

@[simp] theorem State.setWm_slot (s : State) (c off : Nat) (bs : List Byte) (k j : Nat) :
    (s.setWm c off bs).slot k j = s.slot k j := rfl

@[simp] theorem State.setWm_quad (s : State) (c off : Nat) (bs : List Byte) (k : Nat) :
    (s.setWm c off bs).quad k = s.quad k := rfl

end Sys2Proof.Machine
end

