-- ==== Sys2Proof/Laws/Effect.lean ====
section
/-!
SUPPORT. Effects keep the canonical forms; every step is a list of effects; and the state of a run is
what its effects make of the state it started from.
-/

namespace Sys2Proof.Machine

theorem State.Inv.setCore {s : State} (h : s.Inv) (c : Nat) (x : CoreSt) : (s.setCore c x).Inv :=
  ⟨h.mem, h.empties, h.lineMeta, h.slots, mapWf_mapSet _ _ _ _ h.cores, h.quads⟩

theorem State.Inv.setSlot {s : State} (h : s.Inv) (c sl : Nat) (x : Slot) : (s.setSlot c sl x).Inv :=
  ⟨h.mem, h.empties, h.lineMeta, mapWf_mapSet _ _ _ _ h.slots, h.cores, h.quads⟩

theorem State.Inv.setQuad {s : State} (h : s.Inv) (q : Nat) (x : Quad) : (s.setQuad q x).Inv :=
  ⟨h.mem, h.empties, h.lineMeta, h.slots, h.cores, mapWf_mapSet _ _ _ _ h.quads⟩

theorem State.Inv.setWm {s : State} (h : s.Inv) (c off : Nat) (bs : List Byte) :
    (s.setWm c off bs).Inv :=
  ⟨wf_writeBytes _ _ _ h.mem, h.empties, h.lineMeta, h.slots, mapWf_mapSet _ _ _ _ h.cores, h.quads⟩

theorem State.Inv.repair {s : State} (h : s.Inv) (k : Nat) : (s.repair k).Inv := by
  unfold State.repair
  split
  · exact ⟨h.mem, h.empties, h.lineMeta, h.slots, h.cores, h.quads⟩
  · exact h

theorem State.Inv.repairs {s : State} (h : s.Inv) (l : List Nat) : (l.foldl State.repair s).Inv := by
  induction l generalizing s with
  | nil => exact h
  | cons k r ih => exact ih (h.repair k)

theorem State.Inv.repairMeta {s : State} (h : s.Inv) (k : Nat) : (s.repairMeta k).Inv := by
  unfold State.repairMeta
  split
  · exact ⟨h.mem, h.empties, h.lineMeta, h.slots, h.cores, h.quads⟩
  · exact h

theorem State.Inv.repairMetas {s : State} (h : s.Inv) (l : List Nat) :
    (l.foldl State.repairMeta s).Inv := by
  induction l generalizing s with
  | nil => exact h
  | cons k r ih => exact ih (h.repairMeta k)

/-- Every effect keeps the invariant. -/
theorem Eff.apply_inv {s : State} (h : s.Inv) (e : Eff) : (e.apply s).Inv := by
  cases e with
  | mem k bs => exact ⟨wf_writeBytes _ _ _ h.mem, h.empties, h.lineMeta, h.slots, h.cores, h.quads⟩
  | wm c off bs => exact h.setWm c off bs
  | clean c l n =>
    exact ⟨mapWf_filter _ _ _ h.mem, rising_filter _ _ h.empties, h.lineMeta, h.slots,
      mapWf_mapSet _ _ _ _ h.cores, h.quads⟩
  | zero k n => exact ⟨mapWf_filter _ _ _ h.mem, h.empties, h.lineMeta, h.slots, h.cores, h.quads⟩
  | tag k full => exact ⟨h.mem, rising_setPut _ _ _ h.empties, h.lineMeta, h.slots, h.cores, h.quads⟩
  | line k m => exact ⟨h.mem, h.empties, mapWf_mapSet _ _ _ _ h.lineMeta, h.slots, h.cores, h.quads⟩
  | poison k p => exact ⟨h.mem, h.empties, mapWf_mapSet _ _ _ _ h.lineMeta, h.slots, h.cores, h.quads⟩
  | repaired l m => exact (h.repairs l).repairMetas m
  | landed out l =>
    simp only [Eff.apply]
    split <;> exact ⟨h.mem, h.empties, h.lineMeta, h.slots, h.cores, h.quads⟩
  | slot c sl x => exact h.setSlot c sl x
  | core c x => exact h.setCore c x
  | quad q x => exact h.setQuad q x
  | restart keep p =>
    exact ⟨mapWf_filter _ _ _ h.mem, rfl, mapWf_filter _ _ _ h.lineMeta, rfl, rfl, rfl⟩
  | fresh keep =>
    exact ⟨mapWf_filter _ _ _ h.mem, rising_filter _ _ h.empties, mapWf_filter _ _ _ h.lineMeta,
      h.slots, h.cores, h.quads⟩
  | tick c => exact h.setCore _ _
  | op c sl o => exact h.setSlot _ _ _
  | past c sl code => exact h.setSlot _ _ _
  | sb c sl x => exact h.setSlot _ _ _
  | header c sl e x => exact h.setSlot _ _ _
  | operand c sl e v => exact h.setSlot _ _ _
  | popResult c sl e => exact h.setSlot _ _ _
  | popStream c sl t =>
    simp only [Eff.apply]
    split
    · exact h
    · exact h.setSlot _ _ _
  | munf c sl m => exact h.setSlot _ _ _
  | solve c sl x => exact h.setSlot _ _ _
  | matrix c o => exact h.setCore _ _
  | flags c off f => exact h.setWm _ _ _
  | _ => exact ⟨h.mem, h.empties, h.lineMeta, h.slots, h.cores, h.quads⟩

/-- Effects keep the invariant. -/
theorem applyAll_inv {s : State} (h : s.Inv) (l : List Eff) : (applyAll s l).Inv := by
  induction l generalizing s with
  | nil => exact h
  | cons e r ih => exact ih (e.apply_inv h)

theorem applyAll_append (s : State) (l m : List Eff) :
    applyAll s (l ++ m) = applyAll (applyAll s l) m := List.foldl_append

@[simp] theorem applyAll_nil (s : State) : applyAll s [] = s := rfl

@[simp] theorem applyAll_cons (s : State) (e : Eff) (l : List Eff) :
    applyAll s (e :: l) = applyAll (e.apply s) l := rfl

/-! ### Steps as effects -/

/-- A step that ends in a next state is a list of effects. -/
theorem finish_effects {s t : State} {l : Option (List Eff)}
    (h : finish s l = .next t) : ∃ m, t = applyAll s m := by
  unfold finish at h
  split at h
  · exact ⟨_, (Host.Outcome.next.inj h).symm⟩
  · cases h

/-- A step that power does not gate is a list of effects. -/
theorem always_effects {s t : State} {l : Option (List Eff)}
    (h : always s l = .next t) : ∃ m, t = applyAll s m :=
  ⟨_, (Host.Outcome.next.inj h).symm⟩

@[simp] theorem after_some (s : State) (l : List Eff) : after s (some l) = applyAll s l := rfl

@[simp] theorem after_none (s : State) : after s none = s := rfl

/-- The turn of a lone instruction is a list of effects. -/
theorem runLone_effects {i : Instr} {sem : Env → Issue} {s t : State}
    (h : runLone i sem s = .next t) : ∃ m, t = applyAll s m := by
  unfold runLone at h
  exact finish_effects h

/-- Every meaning is a list of effects. -/
theorem exec_effects {i : Instr} {s t : State} (h : exec i s = .next t) :
    ∃ m, t = applyAll s m := by
  cases i <;> simp only [exec] at h <;>
    first | exact runLone_effects h | exact finish_effects h | exact always_effects h

/-! ### Runs -/

/-- The state of a run is what its effects make of the state it started from. -/
def Run.Sound (s : State) (r : Run) : Prop := r.s = applyAll s r.done

theorem Run.sound_start (s : State) : Run.Sound s (Run.start s) := rfl

theorem Run.Sound.emit {s : State} {r : Run} (h : Run.Sound s r) (e : Eff) :
    Run.Sound s (r.emit e) := by
  unfold Run.Sound Run.emit Run.done at *
  simp [applyAll_append, ← h]

theorem Run.Sound.emits {s : State} {r : Run} (h : Run.Sound s r) (l : List Eff) :
    Run.Sound s (r.emits l) := by
  induction l generalizing r with
  | nil => exact h
  | cons e m ih => exact ih (h.emit e)

theorem Run.Sound.modSlot {s : State} {r : Run} (h : Run.Sound s r) (c sl : Nat) (f : Slot → Slot) :
    Run.Sound s (r.modSlot c sl f) := h.emit _

theorem Run.Sound.addFault {s : State} {r : Run} (h : Run.Sound s r) (c sl tid : Nat) (f : DeferredFault) :
    Run.Sound s (r.addFault c sl tid f) := by
  unfold Run.addFault
  split
  · exact h.modSlot _ _ _
  · exact h

theorem Run.Sound.reap {s : State} {r : Run} (h : Run.Sound s r) (c sl : Nat) : Run.Sound s (r.reap c sl) := by
  unfold Run.reap Run.freeSlot
  simp only []
  split
  · split
    · exact h.modSlot _ _ _
    · exact ((h.modSlot _ _ _).emit _).emit _
  · exact h

/-- Loads satisfied are effects. -/
theorem Run.Sound.satisfy {s : State} {r : Run} (h : Run.Sound s r) (c sl : Nat) (o : AsyncOp) :
    Run.Sound s (r.satisfy c sl o) := by
  unfold Run.satisfy
  split
  · split
    · exact (h.emits _).modSlot _ _ _
    · exact (((h.emits _).modSlot _ _ _).addFault _ _ _ _).reap _ _
    · exact (h.modSlot _ _ _).emit _
    · exact h
  · exact h

theorem Run.Sound.satisfyEach {s : State} {r : Run} (h : Run.Sound s r) (c sl : Nat) (l : List AsyncOp) :
    Run.Sound s (r.satisfyEach c sl l) := by
  induction l generalizing r with
  | nil => exact h
  | cons o l ih =>
    simp only [Run.satisfyEach]
    split
    · exact h.satisfy c sl o
    · exact ih (h.satisfy c sl o)

theorem Run.Sound.satisfyBefore {s : State} {r : Run} (h : Run.Sound s r) (c sl tid seq : Nat) :
    Run.Sound s (r.satisfyBefore c sl tid seq) := h.satisfyEach _ _ _

@[simp] theorem Run.emit_s (r : Run) (e : Eff) : (r.emit e).s = e.apply r.s := rfl

@[simp] theorem Run.emits_s (r : Run) (l : List Eff) : (r.emits l).s = applyAll r.s l := by
  induction l generalizing r with
  | nil => rfl
  | cons e m ih => exact ih (r.emit e)

theorem Run.addFault_s {r q : Run} (h : r.s = q.s) (c sl tid : Nat) (f : DeferredFault) :
    (r.addFault c sl tid f).s = (q.addFault c sl tid f).s := by
  unfold Run.addFault
  simp only [h]
  split
  · simp only [Run.modSlot, Run.emit_s, h]
  · exact h

theorem Run.reap_s {r q : Run} (h : r.s = q.s) (c sl : Nat) : (r.reap c sl).s = (q.reap c sl).s := by
  unfold Run.reap Run.freeSlot
  simp only [h]
  split
  · split <;> simp only [Run.modSlot, Run.modCore, Run.emit_s, h]
  · exact h

/-- What loads satisfied leave depends on the state alone. -/
theorem Run.satisfy_s {r q : Run} (h : r.s = q.s) (c sl : Nat) (o : AsyncOp) :
    (r.satisfy c sl o).s = (q.satisfy c sl o).s := by
  unfold Run.satisfy
  rw [h]
  split
  · split
    · simp only [Run.modSlot, Run.emit_s, Run.emits_s, h]
    · exact Run.reap_s (Run.addFault_s (by simp only [Run.modSlot, Run.emit_s, Run.emits_s, h]) _ _ _ _) _ _
    · simp only [Run.awaitPage, Run.modSlot, Run.emit_s, h]
    · exact h
  · exact h

theorem Run.satisfyBefore_s {r q : Run} (h : r.s = q.s) (c sl tid seq : Nat) :
    (r.satisfyBefore c sl tid seq).s = (q.satisfyBefore c sl tid seq).s := by
  unfold Run.satisfyBefore
  rw [h]
  generalize (List.filter _ _ : List AsyncOp) = l
  induction l generalizing r q with
  | nil => exact h
  | cons o l ih =>
    have h1 := Run.satisfy_s h c sl o
    simp only [Run.satisfyEach, h1]
    split
    · exact h1
    · exact ih h1

@[simp] theorem Run.start_s (s : State) : (Run.start s).s = s := rfl

end Sys2Proof.Machine
end

