-- ==== Sys2Proof/Laws/Issue.lean ====
section
/-!
SUPPORT. What a turn does with a lone instruction: when its meaning answers effects, a trap or that
it does not issue, the step's next state is this.
-/

namespace Sys2Proof.Machine

/-- A turn on which no change of level is due starts as it is. -/
theorem startTurn_even {s : State} {c sl : Nat} (h : sl ≠ 0 ∨ setLevel s c = (s.core c).level) :
    (Run.start s).startTurn c sl = Run.start s := by
  unfold Run.startTurn
  rw [if_neg]
  rintro ⟨h0, h1⟩
  rcases h with h | h
  · exact h h0
  · exact h1 h

/-- A slot that nothing bars is not without effect. -/
theorem not_inert {s : State} {c sl : Nat} (h : slotBarred s c sl = false) : slotInert s c sl = false := by
  simp only [slotBarred, Bool.or_eq_false_iff] at h
  exact h.1.1.1

/-- A turn whose thread is eligible goes on to its bundle. -/
theorem gate_go {s : State} {i : Instr} {n : Nat} {vals : List (Nat × Vec)} {pops : List Eff}
    (h : Reaches s i n vals pops) : (Run.start s).gate s.hereCore s.hereSlot = .go (Run.start s) := by
  have h1 : slotBarred s s.hereCore s.hereSlot = false := h.free
  have h2 : (s.slot s.hereCore s.hereSlot).faults = [] := h.faults
  have h3 : (s.slot s.hereCore s.hereSlot).park = none := h.park
  have h4 : slotOff s s.hereCore s.hereSlot = false := by
    simp only [slotBarred, Bool.or_eq_false_iff] at h1
    exact h1.1.2
  simp [Run.gate, h1, h2, h3, h4, not_inert h1]

theorem pendingOf_append (x : Slot) (l m : List Nat) :
    pendingOf x (l ++ m) = pendingOf x l ++ pendingOf x m := by simp [pendingOf]

/-- No register of an issuing instruction is pending. -/
theorem Reaches.noReads {s : State} {i : Instr} {n : Nat} {vals : List (Nat × Vec)} {pops : List Eff}
    (h : Reaches s i n vals pops) : pendingOf s.here (readsOf i) = [] := by
  have := h.clear; rw [pendingOf_append] at this; exact (List.append_eq_nil_iff.mp this).1

theorem Reaches.noWrites {s : State} {i : Instr} {n : Nat} {vals : List (Nat × Vec)}
    {pops : List Eff} (h : Reaches s i n vals pops) : pendingOf s.here (writesOf i) = [] := by
  have := h.clear; rw [pendingOf_append] at this; exact (List.append_eq_nil_iff.mp this).2

/-- A lone word writes nothing twice when it takes no port twice. -/
theorem doubleWrites_lone {i : Instr} (word : BitVec 32) (sem : Env → Issue)
    (h : ∀ p ∈ queuePorts i, (queuePorts i).count p ≤ 1) : doubleWrites [issuing i word 0 sem] = [] := by
  have h1 : portTwice [issuing i word 0 sem] = [] := by
    simp only [portTwice, issuing, List.map_cons, List.map_nil, List.flatten_cons,
      List.flatten_nil, List.append_nil]
    apply List.filter_eq_nil_iff.mpr
    intro a ha
    have := h a ha
    simp only [queuePorts] at this
    simp only [decide_eq_true_eq]; omega
  have h2 : boundRead [issuing i word 0 sem] = [] := by
    simp only [boundRead, issuing, List.map_cons, List.map_nil, List.flatten_cons, List.flatten_nil,
      List.append_nil, List.filter_cons, bne_self_eq_false, Bool.false_eq_true, if_false,
      List.filter_nil]
    split <;> simp [common]
  simp [doubleWrites, h1, h2]

/-- The state after a trap of a lone word at issue. -/
def State.trapped (s : State) (effs : List Eff) (cause : BitVec 8) (aux : Word) (aux2 : BitVec 32) :
    State :=
  applyAll s ((((Run.start s).emits effs).trapAt s.hereCore s.hereSlot s.herePc (s.herePc + 4) false
    cause aux aux2).tick s.hereCore).done

/-- The state after a turn on which a lone word does not issue. -/
def State.stalled (s : State) (effs : List Eff) (sleep : Option (Nat × Word)) : State :=
  applyAll s (((Run.start s).stallAt s.hereCore s.hereSlot s.herePc (s.herePc + 4) false effs
    sleep).tick s.hereCore).done

/-- A `susp` or `yield` reached while something of its thread is outstanding does not issue. -/
theorem runLone_unsettled {i : Instr} {sem : Env → Issue} {s : State} {n : Nat}
    {vals : List (Nat × Vec)} {pops : List Eff} (h : Reaches s i n vals pops) (hi : needsIdle i = true)
    (ho : s.here.outstanding ≠ 0) : runLone i sem s = .next (s.stalled [] none) := by
  have hg := gate_go h
  have hr : (if s.hereSlot = 0 then none
      else [issuing i (loneWord i) 0 sem].find? Issuing.priv) = none := by
    rcases h.right with h0 | h0
    · simp [h0]
    · split
      · rfl
      · simp [issuing, h0]
  have hd : lowestOf (doubleWrites [issuing i (loneWord i) 0 sem]) = none := by
    rw [doubleWrites_lone _ _ h.once]; rfl
  have hidle : ([issuing i (loneWord i) 0 sem].any Issuing.idle) = true ∧
      ((Run.start s).s.slot s.hereCore s.hereSlot).outstanding ≠ 0 := ⟨by simp [issuing, hi], ho⟩
  have hl : (Run.start s).startTurn s.hereCore s.hereSlot = Run.start s := startTurn_even h.level
  have hc : s.sel.core = s.hereCore := rfl
  have hsl : turnSlot s s.hereCore = s.hereSlot := rfl
  have hpc : fetchPc (Run.start s).s s.hereCore s.hereSlot = s.herePc := rfl
  have hw : (encodeLone i false).getD 0 = loneWord i := rfl
  unfold runLone finish
  rw [if_pos h.powered]
  simp only [hc, hsl, hl, hg, hpc, hw, Run.lone, h.formed, if_true, Run.bundle, List.length_singleton,
    Nat.lt_irrefl, decide_false, hr, hd, Nat.mul_one, Run.issue, if_pos hidle]
  rfl

/-- The turn of a lone instruction that issues comes down to what its meaning answers. -/
theorem runLone_issue {i : Instr} {sem : Env → Issue} {s : State} {n : Nat}
    {vals : List (Nat × Vec)} {pops : List Eff} (h : Issues s i n vals pops) :
    runLone i sem s =
      match sem (s.env i vals) with
      | .ok r =>
        if 16 < s.here.outstanding + startsOf r.effs then .next (s.stalled [] none)
        else .next (s.issued r pops)
      | .trap a b c => .next (s.trapped [] a b c)
      | .trapWith l a b c => .next (s.trapped l a b c)
      | .stall l z => .next (s.stalled l z) := by
  have hg := gate_go h.toReaches
  have hr : (if s.hereSlot = 0 then none
      else [issuing i (loneWord i) 0 sem].find? Issuing.priv) = none := by
    rcases h.right with h0 | h0
    · simp [h0]
    · split
      · rfl
      · simp [issuing, h0]
  have hd : lowestOf (doubleWrites [issuing i (loneWord i) 0 sem]) = none := by
    rw [doubleWrites_lone _ _ h.once]; rfl
  have hs : (if strictOn (Run.start s).s s.hereCore
        ((Run.start s).s.slot s.hereCore s.hereSlot).block then
      strictHit ((Run.start s).s.slot s.hereCore s.hereSlot) [issuing i (loneWord i) 0 sem]
      else none) = none := by
    have h1 : pendingOf (s.slot s.hereCore s.hereSlot) (readsOf i) = [] := h.noReads
    have h2 : pendingOf (s.slot s.hereCore s.hereSlot) (writesOf i) = [] := h.noWrites
    split
    · simp [strictHit, firstSome, issuing, h1, h2]
    · rfl
  have hp : (Run.start s).pendingReads s.hereCore s.hereSlot [issuing i (loneWord i) 0 sem]
      = Run.start s := by
    have h1 : pendingOf (s.slot s.hereCore s.hereSlot) (readsOf i) = [] := h.noReads
    simp [Run.pendingReads, issuing, h1]
  have hidle : ¬ (([issuing i (loneWord i) 0 sem].any Issuing.idle) = true ∧
      ((Run.start s).s.slot s.hereCore s.hereSlot).outstanding ≠ 0) := by
    rintro ⟨h1, h2⟩
    exact h2 (h.settled (by simpa [issuing] using h1))
  have hports : gatherPorts s.hereCore s.hereSlot (s.slot s.hereCore s.hereSlot)
      (portCodes (readsOf i)).eraseDups = .ok vals pops := h.ports
  have hc : s.sel.core = s.hereCore := rfl
  have hsl : turnSlot s s.hereCore = s.hereSlot := rfl
  have hpc : fetchPc (Run.start s).s s.hereCore s.hereSlot = s.herePc := rfl
  have henv : (Run.start s).env s.hereCore s.hereSlot s.herePc (s.herePc + 4) false vals
      (issuing i (loneWord i) 0 sem) = s.env i vals := rfl
  unfold runLone finish
  rw [if_pos h.powered]
  have hl : (Run.start s).startTurn s.hereCore s.hereSlot = Run.start s := startTurn_even h.level
  simp only [hc, hsl, hl, hg, hpc]
  have hw : (encodeLone i false).getD 0 = loneWord i := rfl
  rw [hw]
  simp only [Run.lone, h.formed, if_true, Run.bundle, List.length_singleton, Nat.lt_irrefl,
    decide_false, hr, hd, Nat.mul_one, Run.issue, if_neg hidle, hs, hp]
  have hports' : gatherPorts s.hereCore s.hereSlot
      ((Run.start s).s.slot s.hereCore s.hereSlot)
      (portCodes (List.map Issuing.reads [issuing i (loneWord i) 0 sem]).flatten).eraseDups
      = .ok vals pops := by
    simpa [issuing] using hports
  rw [hports']
  simp only [List.map_cons, List.map_nil]
  have hsem : (issuing i (loneWord i) 0 sem).sem = sem := rfl
  rw [henv, hsem]
  have hx : ((Run.start s).s.slot s.hereCore s.hereSlot) = s.here := rfl
  cases hsm : sem (s.env i vals) with
  | ok r =>
    simp only [firstTrap, firstStall, firstSome, resultsOf, List.filterMap_cons, List.filterMap_nil,
      List.map_cons, List.map_nil, List.flatten_cons, List.flatten_nil, List.append_nil, hx]
    split <;> rfl
  | trap a b c => simp only [firstTrap, firstSome]; rfl
  | trapWith l a b c => simp only [firstTrap, firstSome]; rfl
  | stall l z => simp only [firstTrap, firstStall, firstSome]; rfl

/-- A lone instruction whose meaning answers effects completes with them. -/
theorem runLone_ok {i : Instr} {sem : Env → Issue} {s : State} {n : Nat} {vals : List (Nat × Vec)}
    {pops : List Eff} {r : Res} (h : Issues s i n vals pops) (hs : sem (s.env i vals) = .ok r)
    (hn : startsOf r.effs ≤ n) : runLone i sem s = .next (s.issued r pops) := by
  rw [runLone_issue h, hs]
  have := h.fits
  simp only []
  rw [if_neg (by omega)]

/-- A lone instruction whose meaning answers a trap takes it. -/
theorem runLone_trap {i : Instr} {sem : Env → Issue} {s : State} {n : Nat}
    {vals : List (Nat × Vec)} {pops : List Eff} {a : BitVec 8} {b : Word} {c : BitVec 32}
    (h : Issues s i n vals pops) (hs : sem (s.env i vals) = .trap a b c) :
    runLone i sem s = .next (s.trapped [] a b c) := by
  rw [runLone_issue h, hs]

end Sys2Proof.Machine
end

