-- ==== Sys2Proof/Laws/Turn.lean ====
section
/-!
SUPPORT. What the turn of a lone instruction leaves: writes into the thread's workspace, the end of a
loop level, and the records that change with every bundle.
-/

namespace Sys2Proof.Machine

/-! ### Writes into a workspace -/

/-- Between s and t only bytes of given ranges of workspace b of core c have been written. -/
structure WspOnly (c b : Nat) (l : List (Nat × Nat)) (s t : State) : Prop where
  inv   : t.Inv
  bytes : ∀ k, inWorkspace c b l k = false → readByte t.mem k = readByte s.mem k
  core  : t.core c = { s.core c with dirty := (t.core c).dirty }
  cores : ∀ k, k ≠ c → t.core k = s.core k
  rest  : { t with mem := s.mem, cores := s.cores } = s

theorem WspOnly.refl {c b : Nat} {l : List (Nat × Nat)} {s : State} (h : s.Inv) :
    WspOnly c b l s s :=
  ⟨h, fun _ _ => rfl, rfl, fun _ _ => rfl, rfl⟩

/-- The keys of a core's WM follow one another. -/
theorem localKey_base (c : Nat) : ∃ base, ∀ x, localKey c .wm x = base + x :=
  ⟨c * 4 * 2 ^ 17, fun _ => rfl⟩

theorem inWorkspace_append (c b : Nat) (l m : List (Nat × Nat)) (k : Nat) :
    inWorkspace c b (l ++ m) k = (inWorkspace c b l k || inWorkspace c b m k) := by
  simp [inWorkspace, inRanges]

theorem WspOnly.trans {c b : Nat} {l m : List (Nat × Nat)} {s t u : State}
    (h : WspOnly c b l s t) (k : WspOnly c b m t u) : WspOnly c b (l ++ m) s u := by
  refine ⟨k.inv, fun j hj => ?_, ?_, fun j hj => (k.cores j hj).trans (h.cores j hj), ?_⟩
  · rw [inWorkspace_append, Bool.or_eq_false_iff] at hj
    rw [k.bytes j hj.2, h.bytes j hj.1]
  · rw [k.core, h.core]
  · have h1 := h.rest
    have h2 := k.rest
    obtain ⟨⟩ := s
    obtain ⟨⟩ := t
    obtain ⟨⟩ := u
    simp only [State.mk.injEq] at h1 h2 ⊢
    simp_all

theorem WspOnly.mono {c b : Nat} {l m : List (Nat × Nat)} {s t : State} (h : WspOnly c b l s t)
    (hl : ∀ k, inWorkspace c b m k = false → inWorkspace c b l k = false) : WspOnly c b m s t :=
  ⟨h.inv, fun k hk => h.bytes k (hl k hk), h.core, h.cores, h.rest⟩

/-- A write of workspace bytes. -/
theorem wspOnly_write {s : State} (h : s.Inv) (c b off : Nat) (bs : List Byte) :
    WspOnly c b [(off, bs.length)] s ((wspWrite c b off bs).apply s) := by
  refine ⟨h.setWm _ _ _, fun k hk => ?_, ?_, fun k hk => ?_, rfl⟩
  · apply readByte_writeBytes_outside
    simp only [inWorkspace, inRanges, List.map_cons, List.map_nil, List.any_cons, List.any_nil,
      Bool.or_false, Bool.and_eq_false_iff, decide_eq_false_iff_not] at hk
    omega
  · simp only [wspWrite, Eff.apply, State.setWm, State.core, State.setCore]
    rw [mapGet_mapSet_same _ _ _ _ h.cores]
  · simp only [wspWrite, Eff.apply, State.setWm, State.core, State.setCore]
    rw [mapGet_mapSet_ne _ _ _ _ _ hk]

/-- What a workspace reads as after a write of its bytes. -/
theorem readWsp_write {s : State} (h : s.Inv) (c b off : Nat) (bs : List Byte) :
    readWsp ((wspWrite c b off bs).apply s) c b off bs.length = bs :=
  readBytes_writeBytes _ _ _ h.mem

/-- Bytes outside the written ranges read as before. -/
theorem WspOnly.readWsp {c b : Nat} {l : List (Nat × Nat)} {s t : State} (h : WspOnly c b l s t)
    (off n : Nat) (hd : ∀ r ∈ l, off + n ≤ r.1 ∨ r.1 + r.2 ≤ off) :
    readWsp t c b off n = readWsp s c b off n := by
  apply readBytes_congr
  intro i hi
  apply h.bytes
  simp only [inWorkspace, inRanges, List.any_map, List.any_eq_false, Function.comp,
    Bool.and_eq_true, decide_eq_true_eq, not_and, Nat.not_lt]
  intro r hr
  obtain ⟨base, hk⟩ := localKey_base c
  rw [hk (b * 2048 + r.1), hk (b * 2048 + off)]
  intro _
  rcases hd r hr with h1 | h1 <;> omega

/-- Flags recorded in the FFLAGS byte. -/
theorem flags_apply (s : State) (c b off : Nat) (f : BitVec 8) :
    (Eff.flags c (b * 2048 + off) f).apply s =
      (wspWrite c b off [readByte s.mem (localKey c .wm (b * 2048 + off)) ||| f]).apply s := rfl

/-! ### The end of a loop level (04 R108) -/

/-- The ranges that the end of a bundle writes. -/
def endRanges : List (Nat × Nat) := [(0x290, 48), (0x2E0, 8)]

theorem setPc_eq (c b pc : Nat) : setPc c b pc = wspWrite c b 0x2E0 (toBytes 8 (pc % 2 ^ 57)) := rfl

theorem length_toBytes (n v : Nat) : (toBytes n v).length = n := by
  induction n generalizing v with
  | zero => rfl
  | succ n ih => simp [toBytes, ih]

/-- A range within the loop levels. -/
theorem inWorkspace_within {c b off n : Nat} {k : Nat} (h1 : 0x290 ≤ off) (h2 : off + n ≤ 0x2C0)
    (hk : inWorkspace c b endRanges k = false) : inWorkspace c b [(off, n)] k = false := by
  obtain ⟨base, hl⟩ := localKey_base c
  simp only [inWorkspace, inRanges, endRanges, List.map_cons, List.map_nil, List.any_cons,
    List.any_nil, Bool.or_false, Bool.or_eq_false_iff, Bool.and_eq_false_iff,
    decide_eq_false_iff_not, hl] at *
  omega

theorem wspOnly_setLoop {s : State} (h : s.Inv) (c b l : Nat) (hl : l < 3) (x : LoopState) :
    WspOnly c b endRanges s ((setLoop c b l x).apply s) := by
  have hw := wspOnly_write h c b (0x290 + 16 * l)
    (toBytes 8 (natOf x.active * 2 ^ 63 + x.length * 2 ^ 48 + x.count) ++ toBytes 8 x.start)
  refine hw.mono fun k hk => inWorkspace_within (by omega) ?_ hk
  simp only [List.length_append, length_toBytes]
  omega

theorem wspOnly_setPc {s : State} (h : s.Inv) (c b pc : Nat) :
    WspOnly c b endRanges s ((setPc c b pc).apply s) := by
  have hw := wspOnly_write h c b 0x2E0 (toBytes 8 (pc % 2 ^ 57))
  refine hw.mono fun k hk => ?_
  rw [length_toBytes]
  simp only [inWorkspace, inRanges, endRanges, List.map_cons, List.map_nil, List.any_cons,
    List.any_nil, Bool.or_false, Bool.or_eq_false_iff] at *
  exact hk.2

theorem WspOnly.trans' {c b : Nat} {l : List (Nat × Nat)} {s t u : State}
    (h : WspOnly c b l s t) (k : WspOnly c b l t u) : WspOnly c b l s u :=
  (h.trans k).mono fun j hj => by simp [inWorkspace_append, hj]

/-- A run that goes on by effects from r to q, writing only given ranges of a workspace. -/
structure Grows (c b : Nat) (l : List (Nat × Nat)) (r q : Run) : Prop where
  only  : WspOnly c b l r.s q.s
  sound : ∀ s, Run.Sound s r → Run.Sound s q

theorem Grows.refl {c b : Nat} {l : List (Nat × Nat)} {r : Run} (h : r.s.Inv) : Grows c b l r r :=
  ⟨WspOnly.refl h, fun _ h => h⟩

theorem Grows.trans {c b : Nat} {l : List (Nat × Nat)} {r q p : Run} (h : Grows c b l r q)
    (k : Grows c b l q p) : Grows c b l r p :=
  ⟨h.only.trans' k.only, fun s hs => k.sound s (h.sound s hs)⟩

theorem grows_emit {c b : Nat} {l : List (Nat × Nat)} {r : Run} {e : Eff}
    (h : WspOnly c b l r.s (e.apply r.s)) : Grows c b l r (r.emit e) :=
  ⟨h, fun _ hs => hs.emit e⟩

/-- Levels cleared one after another. -/
theorem grows_clear (c b : Nat) (f : Run → Nat → LoopState) (ls : List Nat)
    (hl : ∀ m ∈ ls, m < 3) (r : Run) (h : r.s.Inv) :
    Grows c b endRanges r (ls.foldl (fun r m => r.emit (setLoop c b m (f r m))) r) := by
  induction ls generalizing r with
  | nil => exact Grows.refl h
  | cons m rest ih =>
    have h1 := grows_emit (r := r) (wspOnly_setLoop h c b m (hl m (by simp)) (f r m))
    exact h1.trans (ih (fun k hk => hl k (by simp [hk])) _ h1.only.inv)

/-- The end step writes nothing but loop levels and the PC image. -/
theorem grows_endStep (c b last n : Nat) (hn : n ≤ 3) (r : Run) (h : r.s.Inv) :
    Grows c b endRanges r (r.endStep c b last n) := by
  induction n generalizing r with
  | zero => exact Grows.refl h
  | succ l ih =>
    simp only [Run.endStep]
    split
    · have h1 : Grows c b endRanges r _ := grows_emit (r := r)
        (wspOnly_setLoop h c b l (by omega)
          (loopState r.s c b l).less)
      split
      · refine h1.trans ?_
        have h2 := grows_clear c b
          (fun r m => { loopState r.s c b m with active := false }) (fromTo (l + 1) (2 - l))
          (by intro m hm; simp only [fromTo, List.mem_map, List.mem_range] at hm
              obtain ⟨a, ha, rfl⟩ := hm; omega) _ h1.only.inv
        exact h2.trans (grows_emit (wspOnly_setPc h2.only.inv c b _))
      · exact h1.trans (ih (by omega) _ h1.only.inv)
    · exact ih (by omega) r h

/-- With no level ending at the bundle the end step does nothing. -/
theorem endStep_none (c b last n : Nat) (r : Run)
    (h : ∀ l, l < n → ((loopState r.s c b l).active && (loopState r.s c b l).lastWord == last)
      = false) : r.endStep c b last n = r := by
  induction n with
  | zero => rfl
  | succ l ih =>
    simp only [Run.endStep]
    rw [if_neg (by simp [h l (by omega)])]
    exact ih fun m hm => h m (by omega)

end Sys2Proof.Machine
end

