-- ==== Sys2Proof/Laws/Levels.lean ====
section
/-!
SUPPORT. Loop levels read back as written, and the end step of a bundle does to the levels and to the PC what the
specification's loop over the levels does.
-/

namespace Sys2Proof.Machine

/-- Little-endian bytes read back. -/
theorem ofBytes_toBytes (n v : Nat) (hv : v < 256 ^ n) : ofBytes (toBytes n v) = v := by
  induction n generalizing v with
  | zero => simp [toBytes, ofBytes] at *; omega
  | succ n ih =>
    have h2 : v / 256 < 256 ^ n := by
      rw [Nat.div_lt_iff_lt_mul (by omega)]; rw [Nat.pow_succ] at hv; omega
    simp only [toBytes, ofBytes, BitVec.toNat_ofNat, ih _ h2]
    omega

theorem pcImage_of_bytes {t : State} {c b pc : Nat}
    (h : readWsp t c b 0x2E0 8 = toBytes 8 (pc % 2 ^ 57)) : pcImage t c b = pc % 2 ^ 57 := by
  have h1 : pc % 2 ^ 57 < 2 ^ 57 := Nat.mod_lt _ (by omega)
  simp only [pcImage, wspDword, h, wordOf, BitVec.toNat_ofNat,
    ofBytes_toBytes 8 _ (by omega : pc % 2 ^ 57 < 256 ^ 8)]
  omega

/-- Loop levels read the same when the workspace bytes that hold them do. -/
theorem loopState_congr {s t : State} {c b : Nat}
    (h : ∀ off, 0x290 ≤ off → off + 8 ≤ 0x2C0 → readWsp t c b off 8 = readWsp s c b off 8)
    (l : Nat) (hl : l < 3) : loopState t c b l = loopState s c b l := by
  have h1 := h (0x290 + 16 * l) (by omega) (by omega)
  have h2 := h (0x298 + 16 * l) (by omega) (by omega)
  simp only [loopState, wspDword, h1, h2]

/-- The fields of a loop level fit their places. -/
structure LoopState.Fits (x : LoopState) : Prop where
  length : x.length < 2 ^ 15
  count  : x.count < 2 ^ 48
  start  : x.start < 2 ^ 57

theorem loopState_fits (s : State) (c b l : Nat) : (loopState s c b l).Fits := by
  constructor <;> simp only [loopState, field, fieldN] <;> omega

theorem readBytes_succ (m : List Host.Cell) (k n : Nat) :
    readBytes m k (n + 1) = readByte m k :: readBytes m (k + 1) n := rfl

theorem readBytes_append (m : List Host.Cell) (k i j : Nat) :
    readBytes m k (i + j) = readBytes m k i ++ readBytes m (k + i) j := by
  induction i generalizing k with
  | zero => simp [readBytes]
  | succ i ih =>
    rw [Nat.succ_add, readBytes_succ, readBytes_succ, ih, List.cons_append]
    congr 3; omega

/-- A loop level reads back as written. -/
theorem loopState_same {u : State} {c b l : Nat} {x : LoopState} (h : u.Inv) (hx : x.Fits) :
    loopState ((setLoop c b l x).apply u) c b l = x := by
  have hw := readWsp_write h c b (0x290 + 16 * l)
    (toBytes 8 (natOf x.active * 2 ^ 63 + x.length * 2 ^ 48 + x.count) ++ toBytes 8 x.start)
  rw [List.length_append, length_toBytes, length_toBytes] at hw
  obtain ⟨base, hk⟩ := localKey_base c
  unfold readWsp at hw
  rw [readBytes_append] at hw
  obtain ⟨h1, h2⟩ := List.append_inj hw (by simp [length_toBytes])
  have e2 : localKey c .wm (b * 2048 + (0x290 + 16 * l)) + 8
      = localKey c .wm (b * 2048 + (0x298 + 16 * l)) := by rw [hk, hk]; omega
  rw [e2] at h2
  obtain ⟨a1, a2, a3⟩ := hx
  have b1 : natOf x.active ≤ 1 := by cases x.active <;> simp [natOf]
  have d1 : wspDword ((setLoop c b l x).apply u) c b (0x290 + 16 * l)
      = BitVec.ofNat 64 (natOf x.active * 2 ^ 63 + x.length * 2 ^ 48 + x.count) := by
    unfold wspDword readWsp
    rw [show readBytes ((setLoop c b l x).apply u).mem _ 8 = _ from h1, wordOf,
      ofBytes_toBytes 8 _ (by omega)]
  have d2 : wspDword ((setLoop c b l x).apply u) c b (0x298 + 16 * l) = BitVec.ofNat 64 x.start := by
    unfold wspDword readWsp
    rw [show readBytes ((setLoop c b l x).apply u).mem _ 8 = _ from h2, wordOf,
      ofBytes_toBytes 8 _ (by omega)]
  have hb : bitAt (BitVec.ofNat 64 (natOf x.active * 2 ^ 63 + x.length * 2 ^ 48 + x.count)) 63
      = x.active := by
    rw [bitAt, BitVec.getLsbD_ofNat, Nat.testBit_eq_decide_div_mod_eq]
    cases hxa : x.active <;> simp [natOf] <;> omega
  unfold loopState
  simp only [d1, d2, hb]
  cases x with
  | mk active length count start =>
    simp only [LoopState.mk.injEq, field, fieldN, BitVec.toNat_ofNat, true_and] at *
    refine ⟨?_, ?_, ?_⟩ <;> omega

/-- A level's write changes its bytes alone. -/
theorem wspOnly_level {u : State} (h : u.Inv) (c b l : Nat) (x : LoopState) :
    WspOnly c b [(0x290 + 16 * l, 16)] u ((setLoop c b l x).apply u) := by
  have hw := wspOnly_write h c b (0x290 + 16 * l)
    (toBytes 8 (natOf x.active * 2 ^ 63 + x.length * 2 ^ 48 + x.count) ++ toBytes 8 x.start)
  simp only [List.length_append, length_toBytes] at hw
  exact hw

/-- Another level stays as it was. -/
theorem loopState_other {u : State} {c b l : Nat} {x : LoopState} (h : u.Inv) {k : Nat} (hk : k ≠ l) :
    loopState ((setLoop c b l x).apply u) c b k = loopState u c b k := by
  have hc := wspOnly_level h c b l x
  have h1 := hc.readWsp (0x290 + 16 * k) 8 (by
    intro r hr; simp only [List.mem_singleton] at hr; subst hr; simp only []; omega)
  have h2 := hc.readWsp (0x298 + 16 * k) 8 (by
    intro r hr; simp only [List.mem_singleton] at hr; subst hr; simp only []; omega)
  simp only [loopState, wspDword, h1, h2]

/-- The loop levels of a run after one is written. -/
theorem loopState_set {r : Run} {c b l : Nat} {y : LoopState} (h : r.s.Inv) (hy : y.Fits) (k : Nat) :
    loopState (r.emit (setLoop c b l y)).s c b k = if k = l then y else loopState r.s c b k := by
  split
  · next hk => subst hk; exact loopState_same h hy
  · next hk => exact loopState_other h hk

/-- A level's write leaves the PC image. -/
theorem pcImage_setLoop {r : Run} {c b l : Nat} {y : LoopState} (h : r.s.Inv) (hl : l < 3) :
    pcImage (r.emit (setLoop c b l y)).s c b = pcImage r.s c b := by
  have := (wspOnly_level h c b l y).readWsp 0x2E0 8 (by
    intro z hz; simp only [List.mem_singleton] at hz; subst hz; simp only []; omega)
  simp only [pcImage, wspDword]
  rw [show readWsp (r.emit (setLoop c b l y)).s c b 0x2E0 8 = _ from this]

/-- Levels that have been left. -/
theorem levels_left {c b : Nat} (ls : List Nat) (hl : ∀ m ∈ ls, m < 3) (r : Run) (h : r.s.Inv) :
    let q := ls.foldl (fun r m => r.emit (setLoop c b m { loopState r.s c b m with active := false })) r
    q.s.Inv ∧ ∀ k, loopState q.s c b k =
      if k ∈ ls then { loopState r.s c b k with active := false } else loopState r.s c b k := by
  induction ls generalizing r with
  | nil => exact ⟨h, fun k => by simp⟩
  | cons m rest ih =>
    have hf := loopState_fits r.s c b m
    have h1 : (r.emit (setLoop c b m { loopState r.s c b m with active := false })).s.Inv :=
      (wspOnly_level h c b m _).inv
    obtain ⟨h2, h3⟩ := ih (fun k hk => hl k (by simp [hk])) _ h1
    simp only [List.foldl_cons]
    refine ⟨h2, fun k => ?_⟩
    rw [h3 k, loopState_set (r := r) (c := c) (b := b) (l := m)
      (y := { loopState r.s c b m with active := false }) h ⟨hf.length, hf.count, hf.start⟩ k]
    by_cases hk : k = m
    · subst hk; simp
    · simp [hk]

theorem LoopState.Fits.less {x : LoopState} (h : x.Fits) : x.less.Fits := by
  have h2 := h.count
  refine ⟨h.length, ?_, h.start⟩
  simp only [LoopState.less]
  split <;> omega

theorem LoopState.less_count {x : LoopState} : x.less.count = 0 ↔ x.count = 1 := by
  simp only [LoopState.less]
  split <;> omega

theorem LoopState.less_last {x : LoopState} (hc : x.count = 1) :
    x.less = { x with active := false, count := 0 } := by
  simp [LoopState.less, hc]

theorem LoopState.less_more {x : LoopState} (ha : x.active = true) (hc : x.count ≠ 1) :
    x.less = { x with count := if x.count = 0 then 2 ^ 48 - 1 else x.count - 1 } := by
  simp [LoopState.less, hc, ha]

theorem Run.endStep_succ (r : Run) (c b last l : Nat) :
    r.endStep c b last (l + 1) =
      if (loopState r.s c b l).active && (loopState r.s c b l).lastWord == (last : Int) then
        if (loopState r.s c b l).less.count ≠ 0 then
          ((fromTo (l + 1) (2 - l)).foldl (fun r m =>
            r.emit (setLoop c b m { loopState r.s c b m with active := false }))
            (r.emit (setLoop c b l (loopState r.s c b l).less))).emit (setPc c b (loopState r.s c b l).start)
        else (r.emit (setLoop c b l (loopState r.s c b l).less)).endStep c b last l
      else r.endStep c b last l := rfl

/-- The levels and the PC once a level has gone round. -/
theorem level_round (c b l : Nat) (hl : l < 3) (r : Run) (h : r.s.Inv) {y : LoopState} (hy : y.Fits) (a : Nat) :
    let q := ((fromTo (l + 1) (2 - l)).foldl (fun r m =>
      r.emit (setLoop c b m { loopState r.s c b m with active := false })) (r.emit (setLoop c b l y))).emit
        (setPc c b a)
    pcImage q.s c b = a % 2 ^ 57 ∧ ∀ k, k < 3 → loopState q.s c b k =
      if k = l then y else if l < k then { loopState r.s c b k with active := false } else loopState r.s c b k := by
  have h1 : (r.emit (setLoop c b l y)).s.Inv := (wspOnly_level h c b l y).inv
  obtain ⟨h2, h3⟩ := levels_left (c := c) (b := b) (fromTo (l + 1) (2 - l)) (by
    intro m hm; simp only [fromTo, List.mem_map, List.mem_range] at hm
    obtain ⟨a, ha, rfl⟩ := hm; omega) _ h1
  have hw := wspOnly_write h2 c b 0x2E0 (toBytes 8 (a % 2 ^ 57))
  have hr := readWsp_write h2 c b 0x2E0 (toBytes 8 (a % 2 ^ 57))
  rw [length_toBytes] at hr
  refine ⟨pcImage_of_bytes hr, fun k hk => ?_⟩
  refine (loopState_congr (fun off h4 h5 => hw.readWsp off 8 ?_) k hk).trans ((h3 k).trans ?_)
  · intro z hz
    simp only [List.mem_singleton, length_toBytes] at hz
    subst hz; simp only []; omega
  · have hmem : k ∈ fromTo (l + 1) (2 - l) ↔ l < k := by
      simp only [fromTo, List.mem_map, List.mem_range]
      constructor
      · rintro ⟨a, ha, rfl⟩; omega
      · intro hlk; exact ⟨k - (l + 1), by omega, by omega⟩
    rw [loopState_set h hy k]
    by_cases hkl : k = l
    · subst hkl
      rw [if_neg (by rw [hmem]; omega), if_pos rfl, if_pos rfl]
    · rw [if_neg hkl, if_neg hkl]
      by_cases hlk : l < k
      · rw [if_pos (hmem.mpr hlk), if_pos hlk]
      · rw [if_neg (by rw [hmem]; exact hlk), if_neg hlk]

/-- The end step on a run is the end step on its levels and its PC. -/
theorem endStep_levels (c b last n : Nat) (hn : n ≤ 3) (r : Run) (h : r.s.Inv) {x : Nat → LoopState} {pc : Nat}
    (hx : ∀ k, k < 3 → loopState r.s c b k = x k) (hp : pcImage r.s c b = pc % 2 ^ 57) :
    pcImage (r.endStep c b last n).s c b = (levelsEnd last pc n x).2 % 2 ^ 57 ∧
      ∀ k, k < 3 → loopState (r.endStep c b last n).s c b k = (levelsEnd last pc n x).1 k := by
  induction n generalizing r x with
  | zero => exact ⟨hp, hx⟩
  | succ l ih =>
    have hxl := hx l (by omega)
    have hf := loopState_fits r.s c b l
    rw [hxl] at hf
    rw [Run.endStep_succ, hxl]
    simp only [levelsEnd]
    by_cases he : (x l).active = true ∧ (x l).lastWord = (last : Int)
    · rw [if_pos (by simp [he.1, he.2]), if_pos he]
      by_cases hc : (x l).count = 1
      · have h0 : (x l).less.count = 0 := LoopState.less_count.mpr hc
        rw [if_pos hc]
        simp only [h0, ne_eq, not_true_eq_false, if_false]
        have h1 : (r.emit (setLoop c b l (x l).less)).s.Inv := (wspOnly_level h c b l _).inv
        have h2 := pcImage_setLoop (c := c) (b := b) (y := (x l).less) h (show l < 3 by omega)
        refine ih (by omega) _ h1 (fun k hk => ?_) (h2.trans hp)
        rw [loopState_set h hf.less k, LoopState.less_last hc]
        split
        · rfl
        · exact hx k hk
      · rw [if_neg hc, if_pos (fun h0 => hc (LoopState.less_count.mp h0))]
        obtain ⟨h1, h2⟩ := level_round c b l (by omega) r h hf.less (x l).start
        refine ⟨h1, fun k hk => (h2 k hk).trans ?_⟩
        rw [LoopState.less_more he.1 hc]
        by_cases hkl : k = l
        · simp only [if_pos hkl]
        · simp only [if_neg hkl, hx k hk]
    · rw [if_neg (by simpa using he), if_neg he]
      exact ih (by omega) r h hx hp

end Sys2Proof.Machine
end

