-- ==== Sys2Proof/Laws/Commit.lean ====
section
/-!
SUPPORT. The state after a lone instruction: what its effects, what follows them, and its park change
composed with what every bundle changes.
-/

namespace Sys2Proof.Machine

/-! ### Changes beside memory accesses -/

/-- Between s and t a workspace's ranges, a slot's record, a core's record and the quads' records
change as d says, and the Gaffer's as k says; nothing else does. -/
structure Changes (c sl b : Nat) (d : Delta) (k : Gaffer → Gaffer) (s t : State) : Prop where
  inv   : t.Inv
  bytes : ∀ j, inWorkspace c b d.l j = false → readByte t.mem j = readByte s.mem j
  slots : ∀ j, mapGet Slot.reset t.slots j =
    if j = slotKey c sl then d.f (s.slot c sl) else mapGet Slot.reset s.slots j
  core  : t.core c = { d.g (s.core c) with dirty := (t.core c).dirty }
  blind : ∀ x y z, { d.g { x with dirty := y } with dirty := z } = { d.g x with dirty := z }
  cores : ∀ j, j ≠ c → t.core j = s.core j
  quads : t.quads = d.h s.quads
  gaffer : t.gaffer = k s.gaffer
  rest  : { t with mem := s.mem, slots := s.slots, cores := s.cores, quads := s.quads,
                   gaffer := s.gaffer } = s

/-- One change after another. -/
def Delta.comp (d e : Delta) : Delta :=
  { l := d.l ++ e.l, f := fun x => e.f (d.f x), g := fun x => e.g (d.g x), h := fun x => e.h (d.h x) }

theorem Changes.slot {c sl b : Nat} {d : Delta} {k : Gaffer → Gaffer} {s t : State}
    (h : Changes c sl b d k s t) : t.slot c sl = d.f (s.slot c sl) := by
  have := h.slots (slotKey c sl)
  rwa [if_pos rfl] at this

theorem five_trans {s t u : State}
    (h1 : { t with mem := s.mem, slots := s.slots, cores := s.cores, quads := s.quads,
                   gaffer := s.gaffer } = s)
    (h2 : { u with mem := t.mem, slots := t.slots, cores := t.cores, quads := t.quads,
                   gaffer := t.gaffer } = t) :
    { u with mem := s.mem, slots := s.slots, cores := s.cores, quads := s.quads,
             gaffer := s.gaffer } = s := by
  rw [← h2] at h1
  rw [← h1]

theorem Changes.trans {c sl b : Nat} {d e : Delta} {k m : Gaffer → Gaffer} {s t u : State}
    (h1 : Changes c sl b d k s t) (h2 : Changes c sl b e m t u) :
    Changes c sl b (d.comp e) (fun y => m (k y)) s u := by
  refine ⟨h2.inv, fun j hj => ?_, fun j => ?_, ?_, fun x y z => ?_, fun j hj => ?_, ?_, ?_, ?_⟩
  · simp only [Delta.comp, inWorkspace_append, Bool.or_eq_false_iff] at hj
    rw [h2.bytes j hj.2, h1.bytes j hj.1]
  · rw [h2.slots j]
    split
    · rw [h1.slot]; rfl
    · next h => rw [h1.slots j, if_neg h]
  · rw [h2.core, h1.core]; exact h2.blind _ _ _
  · show ({ e.g (d.g { x with dirty := y }) with dirty := z } : CoreSt) = { e.g (d.g x) with dirty := z }
    have h := h1.blind x y y
    have e1 := h2.blind (d.g { x with dirty := y }) y z
    have e2 := h2.blind (d.g x) y z
    rw [← e1, h, e2]
  · rw [h2.cores j hj, h1.cores j hj]
  · rw [h2.quads, h1.quads]; rfl
  · rw [h2.gaffer, h1.gaffer]
  · exact five_trans h1.rest h2.rest

theorem Changes.mono {c sl b : Nat} {d : Delta} {k : Gaffer → Gaffer} {s t : State}
    {l : List (Nat × Nat)} (h : Changes c sl b d k s t)
    (hl : ∀ j, inWorkspace c b l j = false → inWorkspace c b d.l j = false) :
    Changes c sl b { d with l := l } k s t :=
  ⟨h.inv, fun j hj => h.bytes j (hl j hj), h.slots, h.core, h.blind, h.cores, h.quads, h.gaffer, h.rest⟩

theorem Changes.refl {c sl b : Nat} {s : State} (h : s.Inv) : Changes c sl b {} id s s :=
  ⟨h, fun _ _ => rfl, fun j => by split <;> simp_all [State.slot], rfl, fun _ _ _ => rfl, fun _ _ => rfl,
    rfl, rfl, rfl⟩

theorem WspOnly.changes {c b : Nat} {l : List (Nat × Nat)} {s t : State} (h : WspOnly c b l s t)
    (sl : Nat) : Changes c sl b { l := l } id s t := by
  have hr := h.rest
  have e1 : t.slots = s.slots := by simpa using congrArg State.slots hr
  have e2 : t.quads = s.quads := by simpa using congrArg State.quads hr
  have e3 : t.gaffer = s.gaffer := by simpa using congrArg State.gaffer hr
  refine ⟨h.inv, h.bytes, fun j => ?_, h.core, fun _ _ _ => rfl, h.cores, e2, e3, ?_⟩
  · rw [e1]; split
    · next hk => subst hk; rfl
    · rfl
  · rw [← e1, ← e2, ← e3]; exact hr

theorem changes_write {s : State} (h : s.Inv) (c sl b off : Nat) (bs : List Byte) (n : Nat)
    (hn : bs.length = n) :
    Changes c sl b { l := [(off, n)] } id s ((wspWrite c b off bs).apply s) := by
  subst hn; exact (wspOnly_write h c b off bs).changes sl

theorem changes_slot {s t : State} (h : s.Inv) (c sl b : Nat) (f : Slot → Slot)
    (ht : t = s.setSlot c sl (f (s.slot c sl))) : Changes c sl b { f := f } id s t := by
  subst ht
  refine ⟨h.setSlot _ _ _, fun _ _ => rfl, fun j => ?_, rfl, fun _ _ _ => rfl, fun _ _ => rfl, rfl, rfl, rfl⟩
  show mapGet Slot.reset (mapSet Slot.reset s.slots _ _) j = _
  split
  · next hk => subst hk; exact mapGet_mapSet_same _ _ _ _ h.slots
  · next hk => exact mapGet_mapSet_ne _ _ _ _ _ hk

theorem changes_core {s t : State} (h : s.Inv) (c sl b : Nat) (g : CoreSt → CoreSt)
    (hg : ∀ x y z, { g { x with dirty := y } with dirty := z } = { g x with dirty := z })
    (ht : t = s.setCore c (g (s.core c))) : Changes c sl b { g := g } id s t := by
  subst ht
  have hc : (s.setCore c (g (s.core c))).core c = g (s.core c) :=
    mapGet_mapSet_same _ _ _ _ h.cores
  refine ⟨h.setCore _ _, fun _ _ => rfl, fun j => ?_, ?_, hg, fun j hj => ?_, rfl, rfl, rfl⟩
  · split
    · next hk => subst hk; rfl
    · rfl
  · rw [hc]
  · exact mapGet_mapSet_ne _ _ _ _ _ hj

/-- Bytes outside the changed ranges read as before. -/
theorem Changes.readWsp {c sl b : Nat} {d : Delta} {k : Gaffer → Gaffer} {s t : State}
    (h : Changes c sl b d k s t) (off n : Nat) (hd : ∀ r ∈ d.l, off + n ≤ r.1 ∨ r.1 + r.2 ≤ off) :
    readWsp t c b off n = readWsp s c b off n := by
  apply readBytes_congr
  intro i hi
  apply h.bytes
  simp only [inWorkspace, inRanges, List.any_map, List.any_eq_false, Function.comp,
    Bool.and_eq_true, decide_eq_true_eq, not_and, Nat.not_lt]
  intro r hr
  obtain ⟨base, hk⟩ := localKey_base c
  rw [hk (b * 2048 + r.1), hk (b * 2048 + off)]
  intro _
  rcases hd r hr with h1 | h1 <;> omega

/-! ### The launch that runs on -/

theorem Run.woken_s (r : Run) (l : Option Nat) :
    (r.woken l).s = { r.s with gaffer := r.s.gaffer.woken l } := by
  unfold Run.woken Gaffer.woken
  cases l with
  | none => rfl
  | some k =>
    simp only []
    cases hm : mapFind r.s.gaffer.launches k with
    | none => rfl
    | some y =>
      simp only []
      cases hy : y.hung <;> simp [Run.modGaffer, Eff.apply]

theorem sound_woken {s : State} {r : Run} (h : Run.Sound s r) (l : Option Nat) :
    Run.Sound s (r.woken l) := by
  unfold Run.woken
  split
  · exact h
  · split
    · split
      · exact h.emit _
      · exact h
    · exact h

theorem changes_woken (c sl b : Nat) {r : Run} (h : r.s.Inv) (l : Option Nat) :
    Changes c sl b {} (fun y => y.woken l) r.s (r.woken l).s := by
  rw [Run.woken_s]
  exact ⟨⟨h.mem, h.empties, h.lineMeta, h.slots, h.cores, h.quads⟩, fun _ _ => rfl,
    fun j => by split <;> simp_all [State.slot], rfl, fun _ _ _ => rfl, fun _ _ => rfl, rfl, rfl, rfl⟩

/-! ### The turn -/

/-- What follows the effects of a bundle. -/
structure Late (s : State) (r : Res) (d : Delta) : Prop where
  sound : ∀ q : Run, Run.Sound s q → Run.Sound s (r.late q)
  does  : ∀ q : Run, q.s.Inv → Changes s.hereCore s.hereSlot s.hereBlock d id q.s (r.late q).s
  wakes : ∀ x, d.f x.awake = (d.f x).awake

theorem late_id (s : State) {r : Res} (h : r.late = id) : Late s r {} :=
  ⟨fun q hq => by rw [h]; exact hq, fun q hq => by rw [h]; exact Changes.refl hq, fun _ => rfl⟩

/-- The record of a slot after the park of a word. -/
def parkedBy (s : State) (kind : Option ParkKind) (x : Slot) : Slot :=
  let parked (k : ParkKind) : Slot := { x with
    park := some { kind := k, all := false, pc := s.herePc, pair := false,
                   cycle := s.hereOf.cycle.toNat, first := s.here.seq } }
  if x.tid ≠ s.here.tid ∨ ! x.wspV ∨ x.dying ∨ x.trap.isSome then x
  else match kind with
    | none => x
    | some .marker => if x.outstanding = 0 then x else parked .marker
    | some k => parked k

/-- SRG's bytes, when a word draws from the generator. -/
def srgBytes (r : Res) : List (Nat × Nat) := if r.srg.isSome then [(0x2F8, 4)] else []

/-- The loop levels that the turn may write: all of them; those of a level that ends here; or none, when
control is transferred. -/
structure Ends (s : State) (r : Res) (l1 E : List (Nat × Nat)) : Prop where
  cases : E = loopBytes ∨ (E = s.endBytes ∧ ∀ x ∈ l1, x.1 + x.2 ≤ 0x290 ∨ 0x2C0 ≤ x.1) ∨
    (E = [] ∧ r.jump.isSome = true)

theorem inWorkspace_mono {c b : Nat} {l m : List (Nat × Nat)} (h : ∀ x ∈ l, x ∈ m) (j : Nat)
    (hj : inWorkspace c b m j = false) : inWorkspace c b l j = false := by
  simp only [inWorkspace, inRanges, List.any_map, List.any_eq_false] at *
  exact fun x hx => hj x (h x hx)

/-- The end step keeps within the loop levels and the PC image, and does nothing when no level ends. -/
theorem changes_end {s : State} {c b last : Nat} (sl : Nat) {r : Run} (h : r.s.Inv)
    (hr : Run.Sound s r) :
    Changes c sl b { l := loopBytes ++ pcBytes } id r.s (r.endStep c b last 3).s ∧
      Run.Sound s (r.endStep c b last 3) := by
  have hg := grows_endStep c b last 3 (by omega) r h
  exact ⟨hg.only.changes sl, hg.sound s hr⟩

/-- The run once the slot's thread has issued a bundle. -/
def Run.roused (r : Run) (c sl : Nat) : Run :=
  if (r.s.slot c sl).awake = r.s.slot c sl then r else r.modSlot c sl Slot.awake

theorem sound_slept {s : State} {r : Run} (h : Run.Sound s r) (c sl : Nat) :
    Run.Sound s (r.roused c sl) := by
  unfold Run.roused
  split
  · exact h
  · exact h.emit _

theorem changes_slept {r : Run} (h : r.s.Inv) (c sl b : Nat) :
    Changes c sl b { f := Slot.awake } id r.s (r.roused c sl).s := by
  unfold Run.roused
  split
  · next ha =>
    refine ⟨h, fun _ _ => rfl, fun j => ?_, rfl, fun _ _ _ => rfl, fun _ _ => rfl, rfl, rfl, rfl⟩
    split
    · next hk => subst hk; exact ha.symm
    · rfl
  · exact changes_slot h c sl b Slot.awake rfl

theorem parkAfter_does {r : Run} (h : r.s.Inv) {s : State} (hs : Run.Sound s r) (b : Nat)
    (kind : Option ParkKind) (hc : (r.s.core s.hereCore).cycle = s.hereOf.cycle) :
    let q := r.parkAfter s.hereCore s.hereSlot s.here.tid s.here.seq s.herePc false false kind
    Run.Sound s q ∧ Changes s.hereCore s.hereSlot b { f := parkedBy s kind } id r.s q.s := by
  have hid : ∀ x, (parkedBy s kind (r.s.slot s.hereCore s.hereSlot)) = r.s.slot s.hereCore s.hereSlot →
      x = r → Run.Sound s x ∧ Changes s.hereCore s.hereSlot b { f := parkedBy s kind } id r.s x.s := by
    rintro x hx rfl
    refine ⟨hs, h, fun _ _ => rfl, fun j => ?_, rfl, fun _ _ _ => rfl, fun _ _ => rfl, rfl, rfl, rfl⟩
    split
    · next hk => subst hk; exact hx.symm
    · rfl
  have hpark : ∀ x k, x = r.modSlot s.hereCore s.hereSlot (fun x => { x with
        park := some { kind := k, all := false, pc := s.herePc, pair := false,
                       cycle := (r.s.core s.hereCore).cycle.toNat, first := s.here.seq } }) →
      parkedBy s kind (r.s.slot s.hereCore s.hereSlot) = { r.s.slot s.hereCore s.hereSlot with
        park := some { kind := k, all := false, pc := s.herePc, pair := false,
                       cycle := s.hereOf.cycle.toNat, first := s.here.seq } } →
      Run.Sound s x ∧ Changes s.hereCore s.hereSlot b { f := parkedBy s kind } id r.s x.s := by
    rintro x k rfl hx
    refine ⟨hs.emit _, ?_⟩
    apply changes_slot h
    rw [hx, ← hc]; rfl
  intro q
  simp only [q, Run.parkAfter]
  split
  · next h1 => exact hid _ (by simp only [parkedBy]; rw [if_pos h1]) rfl
  · next h1 =>
    cases kind with
    | none => exact hid _ (by simp only [parkedBy]; rw [if_neg h1]) (by simp)
    | some k =>
      cases k with
      | marker =>
        simp only []
        split
        · next h2 => exact hid _ (by simp only [parkedBy]; rw [if_neg h1, if_pos h2]) rfl
        · next h2 => exact hpark _ .marker rfl (by simp only [parkedBy]; rw [if_neg h1, if_neg h2])
      | fenceSc n => exact hpark _ (.fenceSc n) rfl (by simp only [parkedBy]; rw [if_neg h1])
      | join => exact hpark _ .join rfl (by simp only [parkedBy]; rw [if_neg h1])
      | susp => exact hpark _ .susp rfl (by simp only [parkedBy]; rw [if_neg h1])
      | halt => exact hpark _ .halt rfl (by simp only [parkedBy]; rw [if_neg h1])

/-- No loop level ends at the bundle as the levels stand in u. -/
def NoEnd (s u : State) : Prop :=
  ∀ k, k < 3 → ((loopState u s.hereCore s.hereBlock k).active &&
    (loopState u s.hereCore s.hereBlock k).lastWord == s.herePc) = false

theorem firstSome_one {α β : Type} (f : α → Option β) (x : α) : firstSome f [x] = f x := by
  simp only [firstSome]; cases f x <;> rfl

theorem cycle_core {x : CoreSt} {n : BitVec 64} (h : x.cycle = n) (d : List Nat) :
    ({ { x with cycle := x.cycle + 1 } with dirty := d } : CoreSt)
      = { x with cycle := n + 1, dirty := d } := by subst h; rfl

/-- The turn on which a lone word issues: d1 is what its effects and the elements it takes change, d2 what
follows them. -/
theorem issued_turned {s : State} (hi : s.Inv) {r : Res} {pops : List Eff} {d1 d2 : Delta}
    {E : List (Nat × Nat)} (ho : r.ownsSrg = false)
    (he : Changes s.hereCore s.hereSlot s.hereBlock d1 id
      ((setPc s.hereCore s.hereBlock (s.herePc + 4)).apply s)
      (applyAll ((setPc s.hereCore s.hereBlock (s.herePc + 4)).apply s) (r.effs ++ pops)))
    (hl : Late s r d2) (hE : Ends s r d1.l E)
    (hcy : ∀ x, (d2.g (d1.g x)).cycle = x.cycle)
    (hpw : ∀ x : Slot, parkedBy s r.park x.awake = (parkedBy s r.park x).awake) :
    Turned s (s.issued r pops)
      { l := d1.l ++ srgBytes r ++ E ++ d2.l, f := fun x => parkedBy s r.park (d2.f (d1.f x)),
        g := fun x => d2.g (d1.g x), h := fun x => d2.h (d1.h x) } ∧
    (∀ off n, (∀ x ∈ srgBytes r ++ E ++ pcBytes ++ d2.l, off + n ≤ x.1 ∨ x.1 + x.2 ≤ off) →
      readWsp (s.issued r pops) s.hereCore s.hereBlock off n =
        readWsp (applyAll ((setPc s.hereCore s.hereBlock (s.herePc + 4)).apply s) (r.effs ++ pops))
          s.hereCore s.hereBlock off n) ∧
    (∀ a, r.jump = some a → (∀ x ∈ d2.l, x.1 + x.2 ≤ 0x2E0 ∨ 0x2E8 ≤ x.1) → (s.issued r pops).pcAt s a) ∧
    (r.jump = none → s.loopEnds = false → (∀ x ∈ d1.l, x.1 + x.2 ≤ 0x290 ∨ 0x2C0 ≤ x.1) →
      (∀ x ∈ d1.l ++ d2.l, x.1 + x.2 ≤ 0x2E0 ∨ 0x2E8 ≤ x.1) → (s.issued r pops).pcAt s s.nextPc) ∧
    (∀ g, r.srg = some g → (∀ x ∈ E ++ d2.l, x.1 + x.2 ≤ 0x2F8 ∨ 0x2FC ≤ x.1) →
      readWsp (s.issued r pops) s.hereCore s.hereBlock 0x2F8 4 = toBytes 4 g.toNat) ∧
    (r.jump = none → NoEnd s (applyAll ((setPc s.hereCore s.hereBlock (s.herePc + 4)).apply s)
        (r.effs ++ pops)) →
      ((∀ x ∈ d1.l ++ d2.l, x.1 + x.2 ≤ 0x2E0 ∨ 0x2E8 ≤ x.1) → (s.issued r pops).pcAt s s.nextPc) ∧
      ∀ off n, (∀ x ∈ srgBytes r ++ d2.l, off + n ≤ x.1 ∨ x.1 + x.2 ≤ off) →
        readWsp (s.issued r pops) s.hereCore s.hereBlock off n =
          readWsp (applyAll ((setPc s.hereCore s.hereBlock (s.herePc + 4)).apply s) (r.effs ++ pops))
            s.hereCore s.hereBlock off n) ∧
    (r.jump = none → Aside d1.l → Aside d2.l →
      (s.issued r pops).pcAt s (levelsEnd s.herePc s.nextPc 3 (fun k => loopState s s.hereCore s.hereBlock k)).2 ∧
      ∀ k, k < 3 → loopState (s.issued r pops) s.hereCore s.hereBlock k =
        (levelsEnd s.herePc s.nextPc 3 (fun k => loopState s s.hereCore s.hereBlock k)).1 k) ∧
    Run.Sound s ((Run.start s).commit s.hereCore s.hereSlot s.herePc (s.herePc + 4) false false [r]
      pops) := by
  generalize hu : applyAll ((setPc s.hereCore s.hereBlock (s.herePc + 4)).apply s) (r.effs ++ pops) = u
    at he ⊢
  -- up to the effects of the word
  have h0 : Changes s.hereCore s.hereSlot s.hereBlock { l := pcBytes } id s
      ((setPc s.hereCore s.hereBlock (s.herePc + 4)).apply s) :=
    changes_write hi _ _ _ _ _ 8 (length_toBytes _ _)
  have hsu := h0.trans he
  let r2 := (((Run.start s).emit (setPc s.hereCore s.hereBlock (s.herePc + 4))).emits r.effs).emits pops
  have e2 : r2.s = u := by rw [← hu, applyAll_append]; simp [r2]
  have o2 : Run.Sound s r2 := (((Run.sound_start s).emit _).emits _).emits _
  -- the generator
  let r3 := match r.srg with
    | some g => r2.emit (setSrg s.hereCore s.hereBlock g)
    | none => r2
  have h3 : Changes s.hereCore s.hereSlot s.hereBlock { l := srgBytes r } id u r3.s ∧ Run.Sound s r3 := by
    simp only [r3, srgBytes]
    cases r.srg with
    | none => exact ⟨by rw [e2]; exact Changes.refl he.inv, o2⟩
    | some g =>
      refine ⟨?_, o2.emit _⟩
      rw [← e2]
      exact changes_write (by rw [e2]; exact he.inv) _ _ _ _ _ 4 (length_toBytes _ _)
  -- the loop levels are those of s
  have hloop : (∀ x ∈ d1.l, x.1 + x.2 ≤ 0x290 ∨ 0x2C0 ≤ x.1) → ∀ k, k < 3 →
      loopState r3.s s.hereCore s.hereBlock k = loopState s s.hereCore s.hereBlock k := by
    intro hd k hk
    refine loopState_congr (fun off h1 h2 => (hsu.trans h3.1).readWsp off 8 fun x hx => ?_) k hk
    simp only [Delta.comp, pcBytes, srgBytes, List.mem_append, List.mem_singleton] at hx
    rcases hx with (rfl | hx) | hx
    · simp only []; omega
    · rcases hd x hx with h | h <;> omega
    · split at hx <;> simp at hx
      subst hx; simp only []; omega
  have hnone : s.loopEnds = false → (∀ x ∈ d1.l, x.1 + x.2 ≤ 0x290 ∨ 0x2C0 ≤ x.1) →
      r3.endStep s.hereCore s.hereBlock s.herePc 3 = r3 := by
    intro h hd
    refine endStep_none _ _ _ _ _ fun k hk => ?_
    rw [hloop hd k hk]
    simp only [State.loopEnds, List.any_eq_false, List.mem_range, Bool.not_eq_true] at h
    exact h k hk
  -- the transfer of control or the end step
  let r4 := match r.jump with
    | some t => r3.emit (setPc s.hereCore s.hereBlock t)
    | none => r3.endStep s.hereCore s.hereBlock s.herePc 3
  have hpcC : ∀ q : Run, q.s.Inv → ∀ t, Changes s.hereCore s.hereSlot s.hereBlock { l := pcBytes } id q.s
      (q.emit (setPc s.hereCore s.hereBlock t)).s := fun q hq t =>
    changes_write hq _ _ _ _ _ 8 (length_toBytes _ _)
  have h4 : Changes s.hereCore s.hereSlot s.hereBlock { l := E ++ pcBytes } id r3.s r4.s ∧
      Run.Sound s r4 := by
    simp only [r4]
    cases hj : r.jump with
    | some t =>
      exact ⟨(hpcC r3 h3.1.inv t).mono fun j hj => inWorkspace_mono (fun x hx => List.mem_append_right _ hx) j hj, h3.2.emit _⟩
    | none =>
      have hend := changes_end s.hereSlot (c := s.hereCore) (b := s.hereBlock) (last := s.herePc) h3.1.inv h3.2
      refine ⟨?_, hend.2⟩
      rcases hE.cases with h | ⟨h, hd⟩ | ⟨h, hjs⟩
      · rw [h]; exact hend.1
      · rw [h]
        cases hle : s.loopEnds with
        | true => simp only [State.endBytes, hle, if_true]; exact hend.1
        | false =>
          simp only [hnone hle hd]
          exact (Changes.refl h3.1.inv).mono fun j _ => rfl
      · rw [hj] at hjs; simp at hjs
  -- the sleep ends, and the launch runs on
  let r5 := r4.roused s.hereCore s.hereSlot
  have h5 := changes_slept h4.1.inv s.hereCore s.hereSlot s.hereBlock
  have o5 : Run.Sound s r5 := sound_slept h4.2 _ _
  have h6 := changes_woken s.hereCore s.hereSlot s.hereBlock h5.inv (wokenLaunch s s.hereCore s.here)
  have o6 : Run.Sound s (r5.woken (wokenLaunch s s.hereCore s.here)) := sound_woken o5 _
  -- what follows
  have h7 := hl.does _ h6.inv
  have o7 := hl.sound _ o6
  let r7 := r.late (r5.woken (wokenLaunch s s.hereCore s.here))
  have hup := ((((h3.1.trans h4.1).trans h5).trans h6).trans h7)
  have hall := hsu.trans hup
  have hc7 : (r7.s.core s.hereCore).cycle = s.hereOf.cycle := by
    rw [show r7.s.core s.hereCore = _ from hall.core]
    exact hcy _
  have h8 := parkAfter_does h7.inv o7 s.hereBlock r.park hc7
  let r8 := r7.parkAfter s.hereCore s.hereSlot s.here.tid s.here.seq s.herePc false false r.park
  -- the tick
  have hcommit : (Run.start s).commit s.hereCore s.hereSlot s.herePc (s.herePc + 4) false false [r] pops
      = r8 := by
    have hx : (Run.start s).s.slot s.hereCore s.hereSlot = s.here := rfl
    have hb : s.here.block = s.hereBlock := rfl
    unfold Run.commit
    simp only [hx, hb, List.map_cons, List.map_nil, List.flatten_cons, List.flatten_nil,
      List.append_nil, firstSome_one, Nat.add_sub_cancel, List.foldl_cons, List.foldl_nil,
      List.any_cons, List.any_nil, ho, Bool.false_or, Bool.false_eq_true, if_false]
    rfl
  have ht : s.issued r pops = (r8.tick s.hereCore).s := by
    unfold State.issued
    rw [hcommit]
    exact (h8.1.emit (.tick s.hereCore)).symm
  have h9 : Changes s.hereCore s.hereSlot s.hereBlock { g := fun x => { x with cycle := x.cycle + 1 } } id
      r8.s (s.issued r pops) := by
    rw [ht]
    exact changes_core h8.2.inv _ _ _ (fun x => { x with cycle := x.cycle + 1 }) (fun _ _ _ => rfl) rfl
  have hup9 := (hup.trans h8.2).trans h9
  have hall9 := hsu.trans hup9
  refine ⟨?_, ?_, ?_, ?_, ?_, ?_, ?_, by rw [hcommit]; exact h8.1⟩
  · refine ⟨fun k hk => hall9.bytes k ?_, fun k => ?_, ?_, hall9.cores, hall9.quads, hall9.gaffer,
      hall9.rest⟩
    · refine inWorkspace_mono (fun x hx => ?_) k hk
      simp only [Delta.comp, List.mem_append] at hx ⊢
      rcases hx with (hx | hx) | ((((((hx | (hx | hx)) | hx) | hx) | hx) | hx) | hx) <;> simp_all
    · rw [hall9.slots k]
      split
      · show parkedBy s r.park (d2.f (d1.f s.here).awake) = (parkedBy s r.park (d2.f (d1.f s.here))).awake
        rw [hl.wakes, hpw]
      · rfl
    · refine hall9.core.trans ?_
      exact cycle_core (hcy _) _
  · intro off n hd
    refine hup9.readWsp off n fun x hx => hd x ?_
    simp only [Delta.comp, List.mem_append] at hx ⊢
    rcases hx with ((((((hx | (hx | hx)) | hx) | hx) | hx) | hx) | hx) <;> simp_all
  · intro a ha hd
    have hp := (((h5.trans h6).trans h7).trans h8.2).trans h9
    apply pcImage_of_bytes
    rw [hp.readWsp 0x2E0 8 fun x hx => ?_]
    · have hr4 : r4 = r3.emit (setPc s.hereCore s.hereBlock a) := by simp only [r4, ha]
      rw [hr4]
      have := readWsp_write (s := r3.s) h3.1.inv s.hereCore s.hereBlock 0x2E0 (toBytes 8 (a % 2 ^ 57))
      rwa [length_toBytes] at this
    · simp only [Delta.comp, List.mem_append] at hx
      rcases hx with ((((hx | hx) | hx) | hx) | hx)
      · simp at hx
      · simp at hx
      · rcases hd x hx with h | h <;> omega
      · simp at hx
      · simp at hx
  · intro hj hle hd hpcd
    have hp := (((h5.trans h6).trans h7).trans h8.2).trans h9
    apply pcImage_of_bytes
    rw [hp.readWsp 0x2E0 8 fun x hx => ?_]
    · have hr4 : r4 = r3 := by simp only [r4, hj]; exact hnone hle hd
      rw [hr4, h3.1.readWsp 0x2E0 8 fun x hx => ?_, he.readWsp 0x2E0 8 fun x hx => ?_]
      · have := readWsp_write (s := s) hi s.hereCore s.hereBlock 0x2E0 (toBytes 8 ((s.herePc + 4) % 2 ^ 57))
        rwa [length_toBytes] at this
      · rcases hpcd x (List.mem_append_left _ hx) with h | h <;> omega
      · simp only [srgBytes] at hx
        split at hx <;> simp at hx
        subst hx; simp only []; omega
    · simp only [Delta.comp, List.mem_append] at hx
      rcases hx with ((((hx | hx) | hx) | hx) | hx)
      · simp at hx
      · simp at hx
      · rcases hpcd x (List.mem_append_right _ hx) with h | h <;> omega
      · simp at hx
      · simp at hx
  · intro g hg hd
    have hp := ((((h4.1.trans h5).trans h6).trans h7).trans h8.2).trans h9
    rw [hp.readWsp 0x2F8 4 fun x hx => ?_]
    · have hr3 : r3 = r2.emit (setSrg s.hereCore s.hereBlock g) := by simp only [r3, hg]
      rw [hr3]
      have := readWsp_write (s := r2.s) (by rw [e2]; exact he.inv) s.hereCore s.hereBlock 0x2F8
        (toBytes 4 g.toNat)
      rwa [length_toBytes] at this
    · simp only [Delta.comp, List.mem_append] at hx
      rcases hx with (((((hx | hx) | hx) | hx) | hx) | hx) | hx
      · rcases hd x (List.mem_append_left _ hx) with h | h <;> omega
      · simp only [pcBytes, List.mem_singleton] at hx; subst hx; simp only []; omega
      · simp at hx
      · simp at hx
      · rcases hd x (List.mem_append_right _ hx) with h | h <;> omega
      · simp at hx
      · simp at hx
  · intro hj hne
    have hp := (((h5.trans h6).trans h7).trans h8.2).trans h9
    have hne3 : r3.endStep s.hereCore s.hereBlock s.herePc 3 = r3 := by
      refine endStep_none _ _ _ _ _ fun k hk => ?_
      have : loopState r3.s s.hereCore s.hereBlock k = loopState u s.hereCore s.hereBlock k :=
        loopState_congr (fun off h1 h2 => h3.1.readWsp off 8 fun x hx => by
          simp only [srgBytes] at hx
          split at hx <;> simp at hx
          subst hx; simp only []; omega) k hk
      rw [this]; exact hne k hk
    have hr4 : r4 = r3 := by simp only [r4, hj]; exact hne3
    have hrd : ∀ off n, (∀ x ∈ srgBytes r ++ d2.l, off + n ≤ x.1 ∨ x.1 + x.2 ≤ off) →
        readWsp (s.issued r pops) s.hereCore s.hereBlock off n =
          readWsp u s.hereCore s.hereBlock off n := by
      intro off n hd
      rw [hp.readWsp off n fun x hx => ?_]
      · show readWsp r4.s _ _ _ _ = _
        rw [hr4, h3.1.readWsp off n fun x hx => hd x (List.mem_append_left _ hx)]
      · simp only [Delta.comp, List.mem_append] at hx
        rcases hx with ((((hx | hx) | hx) | hx) | hx)
        · simp at hx
        · simp at hx
        · exact hd x (List.mem_append_right _ hx)
        · simp at hx
        · simp at hx
    refine ⟨fun hpcd => ?_, hrd⟩
    apply pcImage_of_bytes
    rw [hrd 0x2E0 8 fun x hx => ?_, he.readWsp 0x2E0 8 fun x hx => ?_]
    · have := readWsp_write (s := s) hi s.hereCore s.hereBlock 0x2E0 (toBytes 8 ((s.herePc + 4) % 2 ^ 57))
      rwa [length_toBytes] at this
    · rcases hpcd x (List.mem_append_left _ hx) with h | h <;> omega
    · rcases List.mem_append.mp hx with h | h
      · simp only [srgBytes] at h
        split at h <;> simp at h
        subst h; simp only []; omega
      · rcases hpcd x (List.mem_append_right _ h) with h | h <;> omega
  · intro hj ha hb
    have hp := (((h5.trans h6).trans h7).trans h8.2).trans h9
    have hr4 : r4 = r3.endStep s.hereCore s.hereBlock s.herePc 3 := by simp only [r4, hj]
    have hpc3 : pcImage r3.s s.hereCore s.hereBlock = s.nextPc % 2 ^ 57 := by
      apply pcImage_of_bytes
      rw [h3.1.readWsp 0x2E0 8 fun x hx => ?_, he.readWsp 0x2E0 8 fun x hx => ?_]
      · have := readWsp_write (s := s) hi s.hereCore s.hereBlock 0x2E0 (toBytes 8 ((s.herePc + 4) % 2 ^ 57))
        rwa [length_toBytes] at this
      · rcases (ha x hx).2 with h | h <;> omega
      · simp only [srgBytes] at hx
        split at hx <;> simp at hx
        subst hx; simp only []; omega
    obtain ⟨e1, e2⟩ := endStep_levels s.hereCore s.hereBlock s.herePc 3 (Nat.le_refl 3) r3 h3.1.inv
      (x := fun k => loopState s s.hereCore s.hereBlock k) (pc := s.nextPc)
      (hloop fun x hx => (ha x hx).1) hpc3
    rw [← hr4] at e1 e2
    have hq : ∀ off m, off + m ≤ 0x2E8 → (off + m ≤ 0x2C0 ∨ 0x2E0 ≤ off) → 0x290 ≤ off →
        readWsp (s.issued r pops) s.hereCore s.hereBlock off m = readWsp r4.s s.hereCore s.hereBlock off m := by
      intro off m h1 h2 h3
      refine hp.readWsp off m fun x hx => ?_
      simp only [Delta.comp, List.mem_append] at hx
      rcases hx with ((((hx | hx) | hx) | hx) | hx)
      · simp at hx
      · simp at hx
      · have := hb x hx; omega
      · simp at hx
      · simp at hx
    refine ⟨?_, fun k hk => ?_⟩
    · show pcImage (s.issued r pops) s.hereCore s.hereBlock = _
      rw [← e1]
      simp only [pcImage, wspDword, hq 0x2E0 8 (by omega) (by omega) (by omega)]
    · rw [← e2 k hk]
      exact loopState_congr (fun off a1 a2 => hq off 8 (by omega) (by omega) a1) k hk

end Sys2Proof.Machine
end

