-- ==== Sys2Proof/Laws/Forms.lean ====
section
/-!
SUPPORT. The operands of an issuing instruction, and the forms of results: an instruction whose meaning
answers effects of a form leaves the state that the form says.
-/

namespace Sys2Proof.Machine

/-! ### Operands -/

theorem pendingOf_nil {x : Slot} {l : List Nat} (h : pendingOf x l = []) {c : Nat} (hc : c ∈ l) :
    x.pending c = false := by
  simp only [pendingOf, List.filter_eq_nil_iff] at h
  simpa using h c hc

/-- A read of a register that is not pending gives the register. -/
theorem readMixed_clear (s : State) {x : Slot} {code : Nat} (n old : Nat)
    (h : x.pending code = false) : readMixed s x code n old = old := by
  unfold readMixed
  simp only [Slot.pending, List.any_eq_false] at h
  generalize x.own = l at h
  induction l generalizing old with
  | nil => rfl
  | cons o r ih =>
    have h1 := h o (by simp)
    simp only [List.foldl_cons]
    cases o.st with
    | done w =>
      simp only []
      rw [if_neg h1]
      exact ih old fun p hp => h p (by simp [hp])
    | _ => exact ih old fun p hp => h p (by simp [hp])

section
variable {s : State} {i : Instr} {n : Nat} {vals : List (Nat × Vec)} {pops : List Eff}

theorem Issues.notRead (h : Issues s i n vals pops) {c : Nat} (hc : c ∈ readsOf i) :
    s.here.pending c = false := pendingOf_nil h.noReads hc

theorem Issues.notWritten (h : Issues s i n vals pops) {c : Nat} (hc : c ∈ writesOf i) :
    s.here.pending c = false := pendingOf_nil h.noWrites hc

/-- A g operand. -/
theorem Issues.env_g (h : Issues s i n vals pops) {r : Reg} (hr : gc r ∈ readsOf i) :
    (s.env i vals).g r = s.g r := by
  have := readMixed_clear s 2 (gReg s s.hereCore s.hereBlock r).toNat (h.notRead hr)
  show BitVec.ofNat 64 (readMixed s s.here (gc r) 2 (gReg s s.hereCore s.hereBlock r).toNat) = _
  rw [this]; simp; rfl

/-- A g operand that is also the destination. -/
theorem Issues.env_gw (h : Issues s i n vals pops) {r : Reg} (hr : gc r ∈ writesOf i) :
    (s.env i vals).g r = s.g r := by
  have := readMixed_clear s 2 (gReg s s.hereCore s.hereBlock r).toNat (h.notWritten hr)
  show BitVec.ofNat 64 (readMixed s s.here (gc r) 2 (gReg s s.hereCore s.hereBlock r).toNat) = _
  rw [this]; simp; rfl

/-- A vector operand. -/
theorem Issues.env_v (h : Issues s i n vals pops) {r : Reg} (hr : vc r ∈ readsOf i) :
    (s.env i vals).v r = s.vIn vals r := by
  have := readMixed_clear s 4 (vReg s s.hereCore s.hereBlock r).toNat (h.notRead hr)
  unfold Env.v State.vIn
  split
  · show BitVec.ofNat 128 (readMixed s s.here (vc r) 4 (vReg s s.hereCore s.hereBlock r).toNat) = _
    rw [this]; simp; rfl
  · show (match mapFind vals r.toNat with | some v => v | none => 0) = _
    cases mapFind vals r.toNat <;> rfl

theorem Issues.env_m (_h : Issues s i n vals pops) (r : Reg) : (s.env i vals).m r = s.m r := rfl

theorem Issues.env_q (_h : Issues s i n vals pops) (r : BitVec 3) : (s.env i vals).q r = s.q r := rfl

/-- A write of a register that is not pending takes no result away. -/
theorem Issues.env_over (h : Issues s i n vals pops) {c : Nat} (hc : c ∈ writesOf i) :
    (s.env i vals).past c = [] := by
  have : (s.env i vals).slot.pending c = false := h.notWritten hc
  simp [Env.past, this]

theorem Issues.env_setG (h : Issues s i n vals pops) {r : Reg} (hr : gc r ∈ writesOf i) (v : Word) :
    (s.env i vals).setG r v = setG s.hereCore s.hereBlock r v := by
  simp only [Env.setG, h.env_over hr, List.append_nil]; rfl

theorem Issues.env_setV (h : Issues s i n vals pops) {r : Reg} (hr : vc r ∈ writesOf i) (v : Vec) :
    (s.env i vals).setV r v = setV s.hereCore s.hereBlock r v := by
  simp only [Env.setV, h.env_over hr, List.append_nil]; rfl

/-! ### Writes of registers -/

theorem writable_lt (r : Reg) : r.toNat < 32 := r.isLt

theorem parkedBy_none (s : State) (x : Slot) : parkedBy s none x = x := by
  simp only [parkedBy, ite_self]

theorem Slot.awake_park (s : State) (k : Option ParkKind) (x : Slot) :
    parkedBy s k x.awake = (parkedBy s k x).awake := by
  unfold parkedBy
  have h1 : x.awake.tid = x.tid := rfl
  have h2 : x.awake.wspV = x.wspV := rfl
  have h3 : x.awake.dying = x.dying := rfl
  have h4 : x.awake.trap = x.trap := rfl
  have h5 : x.awake.outstanding = x.outstanding := rfl
  simp only [h1, h2, h3, h4, h5]
  split
  · rfl
  · cases k with
    | none => rfl
    | some k =>
      cases k <;> simp only []
      · split <;> rfl
      all_goals rfl

theorem mem_swap {α : Type} {a b c d : List α} {x : α} (h : x ∈ a ++ b ++ c ++ d) :
    x ∈ a ++ b ++ d ++ c := by
  rcases List.mem_append.mp h with h | h
  · rcases List.mem_append.mp h with h | h
    · exact List.mem_append_left _ (List.mem_append_left _ h)
    · exact List.mem_append_right _ h
  · exact List.mem_append_left _ (List.mem_append_right _ h)

theorem mem_ends {s : State} {a c d : List (Nat × Nat)} {x : Nat × Nat}
    (h : x ∈ a ++ s.endBytes ++ c ++ d) : x ∈ a ++ loopBytes ++ c ++ d := by
  have he : ∀ y ∈ s.endBytes, y ∈ loopBytes := by
    intro y hy; unfold State.endBytes at hy; split at hy
    · exact hy
    · cases hy
  rcases List.mem_append.mp h with h | h
  · rcases List.mem_append.mp h with h | h
    · rcases List.mem_append.mp h with h | h
      · exact List.mem_append_left _ (List.mem_append_left _ (List.mem_append_left _ h))
      · exact List.mem_append_left _ (List.mem_append_left _ (List.mem_append_right _ (he x h)))
    · exact List.mem_append_left _ (List.mem_append_right _ h)
  · exact List.mem_append_right _ h

/-- A word that answers effects and transfers no control. -/
theorem does_of (hi : s.Inv) (hI : Issues s i n vals pops) {sem : Env → Issue}
    (hx : exec i s = runLone i sem s) {r : Res} (hs : sem (s.env i vals) = .ok r)
    (hn : startsOf r.effs ≤ n) (ho : r.ownsSrg = false) (hj : r.jump = none) {d1 d2 : Delta}
    (he : ∀ s0, s0 = (setPc s.hereCore s.hereBlock (s.herePc + 4)).apply s → s0.Inv →
      Changes s.hereCore s.hereSlot s.hereBlock d1 id s0 (applyAll s0 (r.effs ++ pops)))
    (hl : Late s r d2) (ha : Aside d1.l) (hb : Aside d2.l)
    (hcy : ∀ x, (d2.g (d1.g x)).cycle = x.cycle) {P : State → Prop}
    (hP : ∀ s0 t, s0 = (setPc s.hereCore s.hereBlock (s.herePc + 4)).apply s → s0.Inv →
      (∀ off m, (∀ x ∈ srgBytes r ++ loopBytes ++ pcBytes ++ d2.l, off + m ≤ x.1 ∨ x.1 + x.2 ≤ off) →
        readWsp t s.hereCore s.hereBlock off m =
          readWsp (applyAll s0 (r.effs ++ pops)) s.hereCore s.hereBlock off m) →
      (∀ g, r.srg = some g → (∀ x ∈ d2.l, x.1 + x.2 ≤ 0x2F8 ∨ 0x2FC ≤ x.1) →
        readWsp t s.hereCore s.hereBlock 0x2F8 4 = toBytes 4 g.toNat) → P t) :
    Does s i { l := d1.l ++ srgBytes r ++ d2.l, f := fun x => parkedBy s r.park (d2.f (d1.f x)),
               g := fun x => d2.g (d1.g x), h := fun x => d2.h (d1.h x) } P := by
  have h0 := (Eff.apply_inv hi (setPc s.hereCore s.hereBlock (s.herePc + 4)))
  obtain ⟨k1, k2, _, k4, k5, _, k6, _⟩ := issued_turned (E := s.endBytes) hi ho (he _ rfl h0) hl
    ⟨.inr (.inl ⟨rfl, fun x hx => (ha x hx).1⟩)⟩ hcy (Slot.awake_park s r.park)
  refine ⟨s.issued r pops, by rw [hx]; exact runLone_ok hI hs hn, ⟨fun hle => ?_, fun _ => k6 hj ha hb⟩, ?_, ?_⟩
  · exact k4 hj hle (fun x hx => (ha x hx).1) fun x hx => by
      rcases List.mem_append.mp hx with h | h
      · exact (ha x h).2
      · exact (hb x h).2
  · refine ⟨fun k hk => k1.bytes k (inWorkspace_mono (fun x hx => ?_) k hk), k1.slots, k1.core,
      k1.cores, k1.quads, k1.gaffer, k1.rest⟩
    have hx' : x ∈ d1.l ++ srgBytes r ++ s.endBytes ++ d2.l ++ pcBytes := hx
    show x ∈ d1.l ++ srgBytes r ++ d2.l ++ s.endBytes ++ pcBytes
    rcases List.mem_append.mp hx' with h | h
    · exact List.mem_append_left _ (mem_swap h)
    · exact List.mem_append_right _ h
  · refine hP _ _ rfl h0 (fun off m hd => k2 off m fun x hx => hd x (mem_ends hx)) fun g hg hd =>
      k5 g hg fun x hx => ?_
    rcases List.mem_append.mp hx with h | h
    · unfold State.endBytes at h
      split at h
      · simp only [loopBytes, List.mem_singleton] at h; subst h; simp only []; omega
      · cases h
    · exact hd x h

/-- A word that transfers control. -/
theorem goes_of (hi : s.Inv) (hI : Issues s i n vals pops) {sem : Env → Issue}
    (hx : exec i s = runLone i sem s) {r : Res} (hs : sem (s.env i vals) = .ok r)
    (hn : startsOf r.effs ≤ n) (ho : r.ownsSrg = false) {a : Nat} (hj : r.jump = some a)
    {d1 d2 : Delta}
    (he : ∀ s0, s0 = (setPc s.hereCore s.hereBlock (s.herePc + 4)).apply s → s0.Inv →
      Changes s.hereCore s.hereSlot s.hereBlock d1 id s0 (applyAll s0 (r.effs ++ pops)))
    (hl : Late s r d2) (hb : Aside d2.l)
    (hcy : ∀ x, (d2.g (d1.g x)).cycle = x.cycle) {P : State → Prop}
    (hP : ∀ s0 t, s0 = (setPc s.hereCore s.hereBlock (s.herePc + 4)).apply s → s0.Inv →
      (∀ off m, (∀ x ∈ srgBytes r ++ pcBytes ++ d2.l, off + m ≤ x.1 ∨ x.1 + x.2 ≤ off) →
        readWsp t s.hereCore s.hereBlock off m =
          readWsp (applyAll s0 (r.effs ++ pops)) s.hereCore s.hereBlock off m) → P t) :
    Goes s i a { l := d1.l ++ srgBytes r ++ d2.l, f := fun x => parkedBy s r.park (d2.f (d1.f x)),
                 g := fun x => d2.g (d1.g x), h := fun x => d2.h (d1.h x) } P := by
  have h0 := (Eff.apply_inv hi (setPc s.hereCore s.hereBlock (s.herePc + 4)))
  obtain ⟨k1, k2, k3, _, _, _⟩ := issued_turned (E := []) hi ho (he _ rfl h0) hl
    ⟨.inr (.inr ⟨rfl, by rw [hj]; rfl⟩)⟩ hcy (Slot.awake_park s r.park)
  refine ⟨s.issued r pops, by rw [hx]; exact runLone_ok hI hs hn, k3 a hj fun x hx => (hb x hx).2, ?_, ?_⟩
  · simpa using k1
  · exact hP _ _ rfl h0 fun off m hd => k2 off m fun x hx => hd x (by simpa using hx)

end

/-! ### What effects change -/

theorem applyAll_one (s : State) (e : Eff) : applyAll s [e] = e.apply s := rfl

theorem length_wordBytes (w : Word) : (wordBytes w).length = 8 := length_toBytes _ _

theorem length_vecBytes (v : Vec) : (vecBytes v).length = 16 := length_toBytes _ _

theorem wordOf_wordBytes (w : Word) : wordOf (wordBytes w) = w := by
  simp only [wordOf, wordBytes]
  rw [ofBytes_toBytes 8 _ (by have := w.isLt; omega)]
  simp

theorem vecOf_vecBytes (v : Vec) : vecOf (vecBytes v) = v := by
  simp only [vecOf, vecBytes]
  rw [ofBytes_toBytes 16 _ (by have := v.isLt; omega)]
  simp

section
variable {s : State} {c sl b : Nat}

theorem changes_setG (h : s.Inv) (r : Reg) (v : Word) :
    Changes c sl b { l := gBytes r } id s (applyAll s (setG c b r v)) := by
  unfold gBytes setG
  split
  · exact Changes.refl h
  · exact changes_write h _ _ _ _ _ 8 (length_wordBytes v)

theorem changes_setV (h : s.Inv) (r : Reg) (v : Vec) :
    Changes c sl b { l := vBytes r } id s (applyAll s (setV c b r v)) :=
  changes_write h _ _ _ _ _ 16 (length_vecBytes v)

theorem changes_setM (h : s.Inv) (r : Reg) (v : BitVec 16) :
    Changes c sl b { l := mBytes r } id s (applyAll s (setM c b r v)) :=
  changes_write h _ _ _ _ _ 2 (length_toBytes _ _)

theorem changes_flags (h : s.Inv) (f : BitVec 8) :
    Changes c sl b { l := flagBytes } id s (applyAll s [.flags c (b * 2048 + 0x2F0) f]) := by
  show Changes c sl b { l := flagBytes } id s ((Eff.flags c (b * 2048 + 0x2F0) f).apply s)
  rw [flags_apply]
  exact changes_write h _ _ _ _ _ 1 rfl

theorem changes_op (h : s.Inv) (o : AsyncOp) :
    Changes c sl b
      { f := fun x => x.starts { o with seq := x.seq, cycle := (s.core c).cycle.toNat, launch := x.launch } } id s
      (applyAll s [.op c sl o]) :=
  changes_slot h c sl b _ rfl

theorem changes_sb (h : s.Inv) (e : SbEntry) :
    Changes c sl b
      { f := fun x => x.buffers { e with seq := x.seq, cycle := (s.core c).cycle.toNat, launch := x.launch } } id s
      (applyAll s [.sb c sl e]) :=
  changes_slot h c sl b _ rfl

/-- The PC of a thread written leaves the core's cycle count. -/
theorem setPc_cycle (h : s.Inv) (k b' pc : Nat) :
    (((setPc k b' pc).apply s).core c).cycle = (s.core c).cycle := by
  simp only [setPc, wspWrite, Eff.apply, State.setWm, State.core, State.setCore]
  by_cases hk : c = k
  · subst hk; rw [mapGet_mapSet_same _ _ _ _ h.cores]
  · rw [mapGet_mapSet_ne _ _ _ _ _ hk]

theorem changes_operand (h : s.Inv) (e : Nat) (v : Vec) :
    Changes c sl b { f := fun x => x.operand e v } id s (applyAll s [.operand c sl e v]) :=
  changes_slot h c sl b _ rfl

theorem changes_header (h : s.Inv) (e : Nat) (x : EngCmd) :
    Changes c sl b { f := fun y => { y.accept e { x with seq := y.seq } with seq := y.seq + 1 } } id s
      (applyAll s [.header c sl e x]) :=
  changes_slot h c sl b _ rfl

theorem changes_munf (h : s.Inv) (m : Munf) :
    Changes c sl b { f := fun x => { x with munf := some m } } id s (applyAll s [.munf c sl m]) :=
  changes_slot h c sl b _ rfl

theorem changes_solve (h : s.Inv) (y : Solve) :
    Changes c sl b { f := fun x => { x with solves := x.solves ++ [y] } } id s
      (applyAll s [.solve c sl y]) :=
  changes_slot h c sl b _ rfl

theorem changes_same (h : s.Inv) {f : Slot → Slot} (hf : f (s.slot c sl) = s.slot c sl) :
    Changes c sl b { f := f } id s s := by
  refine ⟨h, fun _ _ => rfl, fun j => ?_, rfl, fun _ _ _ => rfl, fun _ _ => rfl, rfl, rfl, rfl⟩
  split
  · next hk => subst hk; exact hf.symm
  · rfl

theorem Slot.id_of_popStream {x : Slot} {t : Nat} (h : mapFind x.streams t = none) (c sl : Nat) :
    x.pop (.popStream c sl t) = x := by simp [Slot.pop, h]

theorem changes_pop (h : s.Inv) {e : Eff} (he : (∃ t, e = .popStream c sl t) ∨ ∃ t, e = .popResult c sl t) :
    Changes c sl b { f := fun x => x.pop e } id s (e.apply s) := by
  rcases he with ⟨t, rfl⟩ | ⟨t, rfl⟩
  · simp only [Eff.apply]
    cases hm : mapFind (s.slot c sl).streams t with
    | none =>
      exact changes_same h (Slot.id_of_popStream hm _ _)
    | some y =>
      apply changes_slot h c sl b
      simp only [Slot.pop, hm]
  · exact changes_slot h c sl b _ rfl

theorem changes_pops (h : s.Inv) {l : List Eff}
    (hl : ∀ e ∈ l, (∃ t, e = .popStream c sl t) ∨ ∃ t, e = .popResult c sl t) :
    Changes c sl b { f := fun x => x.pops l } id s (applyAll s l) := by
  induction l generalizing s with
  | nil => exact Changes.refl h
  | cons e r ih =>
    have h1 := changes_pop (b := b) h (hl e (by simp))
    exact h1.trans (ih h1.inv fun x hx => hl x (by simp [hx]))

/-- The elements that a bundle takes are of its slot's ports. -/
theorem gatherPorts_pops (x : Slot) (ps : List Nat) {vals : List (Nat × Vec)} {pops : List Eff}
    (h : gatherPorts c sl x ps = .ok vals pops) :
    ∀ e ∈ pops, (∃ t, e = .popStream c sl t) ∨ ∃ t, e = .popResult c sl t := by
  induction ps generalizing vals pops with
  | nil => simp only [gatherPorts, PortsIn.ok.injEq] at h; obtain ⟨-, rfl⟩ := h; simp
  | cons p r ih =>
    simp only [gatherPorts] at h
    cases h1 : readPort c sl x p with
    | trap a b d => rw [h1] at h; cases h
    | stall z =>
      rw [h1] at h
      cases h2 : gatherPorts c sl x r <;> rw [h2] at h <;> cases h
    | ok v e =>
      rw [h1] at h
      cases h2 : gatherPorts c sl x r with
      | trap a b d => rw [h2] at h; cases h
      | stall z => rw [h2] at h; cases h
      | ok v2 e2 =>
        rw [h2] at h
        simp only [PortsIn.ok.injEq] at h
        obtain ⟨-, rfl⟩ := h
        intro y hy
        rcases List.mem_append.mp hy with hy | hy
        · unfold readPort at h1
          split at h1
          · split at h1
            · cases h1
            · split at h1
              · cases h1
              · split at h1 <;> simp at h1
                obtain ⟨-, rfl⟩ := h1
                simp only [List.mem_singleton] at hy
                exact .inl ⟨_, hy⟩
          · split at h1 <;> simp at h1
            obtain ⟨-, rfl⟩ := h1
            simp only [List.mem_singleton] at hy
            exact .inr ⟨_, hy⟩
        · exact ih h2 y hy

end

theorem Issues.pops_ok {s : State} {i : Instr} {n : Nat} {vals : List (Nat × Vec)} {pops : List Eff}
    (h : Issues s i n vals pops) : ∀ e ∈ pops,
      (∃ t, e = .popStream s.hereCore s.hereSlot t) ∨ ∃ t, e = .popResult s.hereCore s.hereSlot t :=
  gatherPorts_pops _ _ h.ports

/-! ### The forms -/

theorem startsOf_setG (c b : Nat) (r : Reg) (v : Word) : startsOf (setG c b r v) = 0 := by
  unfold setG; split <;> rfl

theorem aside_gBytes (r : Reg) : Aside (gBytes r) := by
  have := r.isLt
  unfold gBytes
  split
  · intro x hx; cases hx
  · intro x hx; simp only [List.mem_singleton] at hx; subst hx; simp only []; omega

theorem aside_vBytes {r : Reg} (h : r.toNat < 24) : Aside (vBytes r) := by
  intro x hx; simp only [vBytes, List.mem_singleton] at hx; subst hx; simp only []; omega

theorem aside_mBytes {r : Reg} (h : r.toNat < 8) : Aside (mBytes r) := by
  intro x hx; simp only [mBytes, List.mem_singleton] at hx; subst hx; simp only []; omega

theorem aside_nil : Aside [] := by intro x hx; cases hx

theorem Aside.append {l m : List (Nat × Nat)} (h : Aside l) (k : Aside m) : Aside (l ++ m) := by
  intro x hx
  rcases List.mem_append.mp hx with h1 | h1
  · exact h x h1
  · exact k x h1

theorem Does.mono {s : State} {i : Instr} {d : Delta} {P Q : State → Prop} (h : Does s i d P)
    (hq : ∀ t, P t → Q t) : Does s i d Q := by
  obtain ⟨t, a, b, c, p⟩ := h
  exact ⟨t, a, b, c, hq t p⟩

theorem Does.same {s : State} {i : Instr} {d e : Delta} {P : State → Prop} (h : Does s i d P)
    (hd : d = e) : Does s i e P := hd ▸ h

theorem Turned.at {s t : State} {d e : Delta} (h : Turned s t d) (hl : d.l = e.l)
    (hf : d.f s.here = e.f s.here) (hg : d.g s.hereOf = e.g s.hereOf) (hh : d.h s.quads = e.h s.quads) :
    Turned s t e :=
  ⟨hl ▸ h.bytes, hf ▸ h.slots, hg ▸ h.core, h.cores, hh ▸ h.quads, h.gaffer, h.rest⟩

/-- More ranges say less of the end of a bundle. -/
theorem FallsThrough.wider {s t : State} {l m : List (Nat × Nat)} (h : FallsThrough s t l)
    (hl : ∀ x ∈ l, x ∈ m) : FallsThrough s t m :=
  ⟨h.1, fun ha => h.2 fun x hx => ha x (hl x hx)⟩

/-- What a record becomes counts only where it is. -/
theorem Does.at {s : State} {i : Instr} {d e : Delta} {P : State → Prop} (h : Does s i d P)
    (hl : d.l = e.l) (hf : d.f s.here = e.f s.here) (hg : d.g s.hereOf = e.g s.hereOf)
    (hh : d.h s.quads = e.h s.quads) : Does s i e P := by
  obtain ⟨t, a, b, c, p⟩ := h
  exact ⟨t, a, hl ▸ b, c.at (by simp only [hl]) hf hg hh, p⟩

theorem Goes.at {s : State} {i : Instr} {a : Nat} {d e : Delta} {P : State → Prop} (h : Goes s i a d P)
    (hl : d.l = e.l) (hf : d.f s.here = e.f s.here) (hg : d.g s.hereOf = e.g s.hereOf)
    (hh : d.h s.quads = e.h s.quads) : Goes s i a e P := by
  obtain ⟨t, x, b, c, p⟩ := h
  exact ⟨t, x, b, c.at hl hf hg hh, p⟩

section
variable {s : State} {i : Instr} {n : Nat} {vals : List (Nat × Vec)} {pops : List Eff}
  {sem : Env → Issue}

/-- g register r reads back after its write. -/
theorem gReg_setG {u : State} (h : u.Inv) (c b : Nat) (r : Reg) (v : Word) :
    gReg (applyAll u (setG c b r v)) c b r = if r = 0 then 0 else v := by
  unfold gReg
  split
  · rfl
  · next hr =>
    simp only [setG, if_neg hr, wspDword]
    have := readWsp_write h c b (8 * r.toNat) (wordBytes v)
    rw [length_wordBytes] at this
    rw [applyAll_one, this, wordOf_wordBytes]

/-- A word with effects alone, which change d, and the elements it takes. -/
theorem plain_of (hi : s.Inv) (hI : Issues s i n vals pops) (hx : exec i s = runLone i sem s)
    {l : List Eff} {g : Option (BitVec 32)} {k : Option ParkKind}
    (hs : sem (s.env i vals) = .ok { effs := l, srg := g, park := k }) (hn : startsOf l ≤ n)
    {d : Delta} (hc : ∀ s0 : State, s0 = (setPc s.hereCore s.hereBlock (s.herePc + 4)).apply s → s0.Inv →
      Changes s.hereCore s.hereSlot s.hereBlock d id s0 (applyAll s0 l))
    (ha : Aside d.l) (hcy : ∀ x, (d.g x).cycle = x.cycle) {P : State → Prop}
    (hP : ∀ s0 t, s0 = (setPc s.hereCore s.hereBlock (s.herePc + 4)).apply s → s0.Inv →
      (∀ off m, off + m ≤ 0x290 ∨ 0x2C0 ≤ off → off + m ≤ 0x2E0 ∨ 0x2E8 ≤ off →
        (g.isSome → off + m ≤ 0x2F8 ∨ 0x2FC ≤ off) →
        readWsp t s.hereCore s.hereBlock off m =
          readWsp (applyAll s0 l) s.hereCore s.hereBlock off m) →
      (∀ v, g = some v → readWsp t s.hereCore s.hereBlock 0x2F8 4 = toBytes 4 v.toNat) → P t) :
    Does s i { d with l := d.l ++ (if g.isSome then [(0x2F8, 4)] else []),
                      f := fun x => parkedBy s k ((d.f x).pops pops) } P := by
  have hz : Delta.comp d { f := fun x => x.pops pops } =
      { d with l := d.l ++ [], f := fun x => (d.f x).pops pops } := rfl
  refine (does_of (d1 := { d with f := fun x => (d.f x).pops pops }) (d2 := {}) hi hI hx hs hn rfl rfl ?_
    (late_id s rfl) ha aside_nil hcy ?_).same ?_
  · intro s0 hs0 h0
    rw [applyAll_append]
    have h1 := hc s0 hs0 h0
    have h2 := h1.trans (changes_pops h1.inv hI.pops_ok)
    rw [hz, List.append_nil] at h2
    exact h2
  · intro s0 t hs0 h0 hr hsrg
    refine hP s0 t hs0 h0 (fun off m ho hp hg => ?_) fun v hv => hsrg v hv (by intro x hx; cases hx)
    rw [hr off m ?_, applyAll_append]
    · exact (changes_pops (b := s.hereBlock) (hc s0 hs0 h0).inv hI.pops_ok).readWsp off m
        (by intro r hr; cases hr)
    · intro x hx
      simp only [List.mem_append] at hx
      rcases hx with ((hx | hx) | hx) | hx
      · simp only [srgBytes] at hx
        split at hx
        · next hgs =>
          simp only [List.mem_singleton] at hx; subst hx
          have := hg hgs; simp only []; omega
        · cases hx
      · simp only [loopBytes, List.mem_singleton] at hx; subst hx; simp only []; omega
      · simp only [pcBytes, List.mem_singleton] at hx; subst hx; simp only []; omega
      · cases hx
  · simp only [srgBytes, List.append_nil]; rfl

/-- A word whose only effect is the write of a g register. -/
theorem setsG_of (hi : s.Inv) (hI : Issues s i n vals pops) (hx : exec i s = runLone i sem s)
    {d : Reg} (hd : gc d ∈ writesOf i) {v : Word}
    (hs : sem (s.env i vals) = (s.env i vals).putG d v) : SetsG s i d v pops := by
  have hs' : sem (s.env i vals) = .ok { effs := setG s.hereCore s.hereBlock d v } := by
    rw [hs, Env.putG, hI.env_setG hd v]
  have hl := d.isLt
  refine (plain_of (d := { l := gBytes d }) hi hI hx hs' (by simp only [startsOf_setG]; omega)
    (fun s0 _ h0 => changes_setG h0 d v) (aside_gBytes d) (fun _ => rfl) ?_).same ?_
  · intro s0 t _ h0 hr _
    unfold State.gIs
    rw [← gReg_setG h0 s.hereCore s.hereBlock d v]
    unfold gReg
    split
    · rfl
    · simp only [wspDword, hr (8 * d.toNat) 8 (by omega) (by omega) (by simp)]
  · simp [parkedBy]

/-- A word whose only effect is the write of a mask register. -/
theorem setsM_of (hi : s.Inv) (hI : Issues s i n vals pops) (hx : exec i s = runLone i sem s)
    {d : Reg} (hd : d.toNat < 8) {v : BitVec 16}
    (hs : sem (s.env i vals) = (s.env i vals).putM d v) : SetsM s i d v pops := by
  have hs' : sem (s.env i vals) = .ok { effs := setM s.hereCore s.hereBlock d v } := hs
  refine (plain_of (d := { l := mBytes d }) hi hI hx hs' (Nat.zero_le _)
    (fun s0 _ h0 => changes_setM h0 d v) (aside_mBytes hd) (fun _ => rfl) ?_).same ?_
  · intro s0 t _ h0 hr _
    have h1 := readWsp_write h0 s.hereCore s.hereBlock (0x280 + 2 * d.toNat) (toBytes 2 v.toNat)
    rw [length_toBytes] at h1
    simp only [mReg, hr (0x280 + 2 * d.toNat) 2 (by omega) (by omega) (by simp)]
    show BitVec.ofNat 16 (ofBytes (readWsp ((wspWrite s.hereCore s.hereBlock (0x280 + 2 * d.toNat)
      (toBytes 2 v.toNat)).apply s0) _ _ _ _)) = v
    rw [h1, ofBytes_toBytes 2 _ (by have := v.isLt; omega)]
    simp
  · simp [parkedBy]

/-- A word whose only effect is a new outstanding operation. -/
theorem starts_of (hi : s.Inv) (hI : Issues s i n vals pops) (hx : exec i s = runLone i sem s)
    {dst : Dst} {kind : OpKind} (hn : 1 ≤ n)
    (hs : sem (s.env i vals) = Issue.effs [(s.env i vals).async dst kind]) :
    Starts s i dst kind pops := by
  have hs' : sem (s.env i vals) = .ok { effs := [(s.env i vals).async dst kind] } := hs
  refine (plain_of (d := { f := fun x => x.starts { (s.newOp dst kind) with
      seq := x.seq, launch := x.launch } }) hi hI hx hs' hn (fun s0 hs0 h0 => ?_)
    aside_nil (fun _ => rfl) (fun _ _ _ _ _ _ => trivial)).at rfl ?_ rfl rfl
  · have hcy : (s0.core s.hereCore).cycle = s.hereOf.cycle := by rw [hs0]; exact setPc_cycle hi _ _ _
    have := changes_op (c := s.hereCore) (sl := s.hereSlot) (b := s.hereBlock) h0
      { seq := 0, tid := s.here.tid, block := s.hereBlock, pc := s.herePc, pair := false, dst := dst, kind := kind,
        st := .sent, tries := 0, past := false, cycle := 0 }
    rw [hcy] at this
    exact this
  · show parkedBy s none _ = _
    simp only [parkedBy, ite_self]
    rfl

/-- A word whose only effect is a new store-buffer entry. -/
theorem buffers_of (hi : s.Inv) (hI : Issues s i n vals pops) (hx : exec i s = runLone i sem s)
    {kind : SbKind} (hn : startsOf [(s.env i vals).entry kind] ≤ n)
    (hs : sem (s.env i vals) = Issue.effs [(s.env i vals).entry kind]) :
    Buffers s i kind pops := by
  have hs' : sem (s.env i vals) = .ok { effs := [(s.env i vals).entry kind] } := hs
  refine (plain_of (d := { f := fun x => x.buffers { (s.newEntry kind) with
      seq := x.seq, launch := x.launch } }) hi hI hx hs' hn (fun s0 hs0 h0 => ?_)
    aside_nil (fun _ => rfl) (fun _ _ _ _ _ _ => trivial)).at rfl ?_ rfl rfl
  · have hcy : (s0.core s.hereCore).cycle = s.hereOf.cycle := by rw [hs0]; exact setPc_cycle hi _ _ _
    have := changes_sb (c := s.hereCore) (sl := s.hereSlot) (b := s.hereBlock) h0 ((s.newEntry kind))
    rw [hcy] at this
    exact this
  · show parkedBy s none _ = _
    simp only [parkedBy, ite_self]
    rfl

/-- A word that transfers control, with effects. -/
theorem jumps_of (hi : s.Inv) (hI : Issues s i n vals pops) (hx : exec i s = runLone i sem s)
    {l : List Eff} {a : Nat} (hs : sem (s.env i vals) = .ok { effs := l, jump := some a })
    (hn : startsOf l ≤ n) {d : Delta} (hc : ∀ s0 : State, s0.Inv →
      Changes s.hereCore s.hereSlot s.hereBlock d id s0 (applyAll s0 l))
    (hcy : ∀ x, (d.g x).cycle = x.cycle) {P : State → Prop}
    (hP : ∀ s0 t, s0 = (setPc s.hereCore s.hereBlock (s.herePc + 4)).apply s → s0.Inv →
      (∀ off m, off + m ≤ 0x2E0 ∨ 0x2E8 ≤ off → readWsp t s.hereCore s.hereBlock off m =
          readWsp (applyAll s0 l) s.hereCore s.hereBlock off m) → P t) :
    Goes s i a { d with f := fun x => (d.f x).pops pops } P := by
  have hz : Delta.comp d { f := fun x => x.pops pops } =
      { d with l := d.l ++ [], f := fun x => (d.f x).pops pops } := rfl
  refine (goes_of (d1 := { d with f := fun x => (d.f x).pops pops }) (d2 := {}) hi hI hx hs hn rfl rfl ?_
    (late_id s rfl) aside_nil hcy ?_).at ?_ ?_ rfl rfl
  · intro s0 _ h0
    rw [applyAll_append]
    have h1 := hc s0 h0
    have h2 := h1.trans (changes_pops h1.inv hI.pops_ok)
    rw [hz, List.append_nil] at h2
    exact h2
  · intro s0 t hs0 h0 hr
    refine hP s0 t hs0 h0 fun off m hp => ?_
    rw [hr off m ?_, applyAll_append]
    · exact (changes_pops (b := s.hereBlock) (hc s0 h0).inv hI.pops_ok).readWsp off m
        (by intro r hr; cases hr)
    · intro x hx
      simp only [srgBytes, Option.isSome_none, Bool.false_eq_true, if_false, List.nil_append,
        List.append_nil, pcBytes, List.mem_singleton] at hx
      subst hx; simp only []; omega
  · show d.l ++ srgBytes { effs := l, jump := some a } ++ [] = d.l
    simp [srgBytes]
  · exact parkedBy_none s _

/-- A word that transfers control and writes a g register. -/
theorem jumpsG_of (hi : s.Inv) (hI : Issues s i n vals pops) (hx : exec i s = runLone i sem s)
    {d : Reg} (hd : gc d ∈ writesOf i) {v : Word} {a : Nat}
    (hs : sem (s.env i vals) = .ok { effs := (s.env i vals).setG d v, jump := some a }) :
    Goes s i a { l := gBytes d, f := fun x => x.pops pops } fun t => t.gIs s d v := by
  rw [hI.env_setG hd v] at hs
  have hl := d.isLt
  refine jumps_of (d := { l := gBytes d }) hi hI hx hs (by rw [startsOf_setG]; omega)
    (fun s0 h0 => changes_setG h0 d v) (fun _ => rfl) ?_
  intro s0 t _ h0 hr
  unfold State.gIs
  rw [← gReg_setG h0 s.hereCore s.hereBlock d v]
  unfold gReg
  split
  · rfl
  · simp only [wspDword, hr (8 * d.toNat) 8 (by omega)]

/-- A word without an effect of its own. -/
theorem does_nothing (hi : s.Inv) (hI : Issues s i n vals pops) (hx : exec i s = runLone i sem s)
    (hs : sem (s.env i vals) = .ok {}) : Does s i { f := fun x => x.pops pops } fun _ => True :=
  (plain_of (d := {}) hi hI hx hs (Nat.zero_le _) (fun _ _ h0 => Changes.refl h0) aside_nil (fun _ => rfl)
    (fun _ _ _ _ _ _ => trivial)).at rfl (parkedBy_none s _) rfl rfl

end

/-! ### Vector results -/

theorem wordOf_or (x f : Byte) (r : List Byte) :
    wordOf ((x ||| f) :: r) = wordOf (x :: r) ||| f.setWidth 64 := by
  have h : ∀ R : Nat, (x ||| f).toNat + 256 * R = (x.toNat + 256 * R) ||| f.toNat := by
    intro R
    have e1 := Nat.two_pow_add_eq_or_of_lt (b := (x ||| f).toNat) (i := 8) (x ||| f).isLt R
    have e2 := Nat.two_pow_add_eq_or_of_lt (b := x.toNat) (i := 8) x.isLt R
    rw [Nat.add_comm, show (256 : Nat) = 2 ^ 8 from rfl, e1, Nat.add_comm x.toNat, e2, BitVec.toNat_or,
      Nat.or_assoc]
  simp only [wordOf, ofBytes]
  rw [h]
  apply BitVec.eq_of_toNat_eq
  simp only [BitVec.toNat_ofNat, BitVec.toNat_or, BitVec.toNat_setWidth]
  rw [Nat.or_mod_two_pow]

/-- FFLAGS after flags are recorded. -/
theorem fflags_flags {u : State} (h : u.Inv) (c b : Nat) (f : BitVec 8) :
    fflagsOf ((Eff.flags c (b * 2048 + 0x2F0) f).apply u) c b =
      fflagsOf u c b ||| f.setWidth 14 := by
  have hw : ctlDword ((Eff.flags c (b * 2048 + 0x2F0) f).apply u) c b
      = ctlDword u c b ||| f.setWidth 64 := by
    obtain ⟨base, hk⟩ := localKey_base c
    rw [flags_apply]
    simp only [ctlDword, wspDword, Machine.readWsp, wspWrite, Eff.apply, State.setWm_mem]
    generalize hk0 : localKey c .wm (b * 2048 + 0x2F0) = k0
    rw [readBytes_succ _ _ 7, readBytes_succ _ _ 7]
    have e1 : readByte (writeBytes u.mem k0 [readByte u.mem k0 ||| f]) k0 = readByte u.mem k0 ||| f :=
      readByte_writeBytes_inside u.mem k0 [readByte u.mem k0 ||| f] 0 h.mem (by simp)
    have e2 : readBytes (writeBytes u.mem k0 [readByte u.mem k0 ||| f]) (k0 + 1) 7
        = readBytes u.mem (k0 + 1) 7 := by
      apply readBytes_congr
      intro i hi
      apply readByte_writeBytes_outside
      simp only [List.length_singleton]; omega
    rw [e1, e2, wordOf_or]
  simp only [fflagsOf, hw]
  apply BitVec.eq_of_getLsbD_eq
  intro j hj
  simp only [BitVec.getLsbD_extractLsb', BitVec.getLsbD_or, BitVec.getLsbD_setWidth]
  by_cases h8 : j < 8
  · have h64 : j < 64 := by omega
    simp [hj, h64]
  · have h64 : j < 64 := by omega
    simp [hj, h64]

section
variable {s : State} {i : Instr} {n : Nat} {vals : List (Nat × Vec)} {pops : List Eff}
  {sem : Env → Issue}

theorem Turned.wider {s t : State} {d : Delta} (h : Turned s t d) {l : List (Nat × Nat)}
    (hl : ∀ x ∈ d.l, x ∈ l) : Turned s t { d with l := l } :=
  ⟨fun k hk => h.bytes k (inWorkspace_mono (fun x hx => by
      rcases List.mem_append.mp hx with h1 | h1
      · exact List.mem_append_left _ (hl x h1)
      · exact List.mem_append_right _ h1) k hk), h.slots, h.core, h.cores, h.quads, h.gaffer, h.rest⟩

/-- More ranges say less. -/
theorem Does.wider {s : State} {i : Instr} {d : Delta} {P : State → Prop} (h : Does s i d P)
    {l : List (Nat × Nat)} (hl : ∀ x ∈ d.l, x ∈ l) : Does s i { d with l := l } P := by
  obtain ⟨t, a, b, c, p⟩ := h
  refine ⟨t, a, b.wider hl, ?_, p⟩
  have := c.wider (l := l ++ s.endBytes) fun x hx => by
    rcases List.mem_append.mp hx with h1 | h1
    · exact List.mem_append_left _ (hl x h1)
    · exact List.mem_append_right _ h1
  exact this

/-- The flags that a word raises, as effects. -/
def raiseEffs (s : State) (fl : Nat) : List Eff :=
  if fl = 0 then [] else [.flags s.hereCore (s.hereBlock * 2048 + 0x2F0) (BitVec.ofNat 8 fl)]

theorem startsOf_raise (s : State) (fl : Nat) (l : List Eff) :
    startsOf (raiseEffs s fl ++ l) = startsOf l := by
  unfold raiseEffs; split <;> simp [startsOf]

theorem changes_raise {c sl : Nat} {u : State} (h : u.Inv) (s : State) (hc : c = s.hereCore) (fl : Nat) :
    Changes c sl s.hereBlock { l := if fl = 0 then [] else flagBytes } id u
      (applyAll u (raiseEffs s fl)) := by
  subst hc
  unfold raiseEffs
  split
  · exact Changes.refl h
  · exact changes_flags h _

theorem aside_flags (fl : Nat) : Aside (if fl = 0 then [] else flagBytes) := by
  split
  · exact aside_nil
  · intro x hx; simp only [flagBytes, List.mem_singleton] at hx; subst hx; simp only []; omega

/-- The write of the PC image leaves other bytes of the workspace. -/
theorem readWsp_setPc {u : State} (h : u.Inv) (c b pc off m : Nat) (hd : off + m ≤ 0x2E0 ∨ 0x2E8 ≤ off) :
    readWsp ((setPc c b pc).apply u) c b off m = readWsp u c b off m := by
  have hw := wspOnly_write h c b 0x2E0 (toBytes 8 (pc % 2 ^ 57))
  rw [length_toBytes] at hw
  exact hw.readWsp off m (by
    intro x hx; simp only [List.mem_singleton] at hx; subst hx; simp only []; omega)

theorem srgOf_of_bytes {t : State} {c b : Nat} {v : BitVec 32}
    (h : readWsp t c b 0x2F8 4 = toBytes 4 v.toNat) : srgOf t c b = v := by
  have h8 : readWsp t c b 0x2F8 8 = readWsp t c b 0x2F8 4 ++
      readBytes t.mem (localKey c .wm (b * 2048 + 0x2F8) + 4) 4 := rfl
  simp only [srgOf, wspDword, h8, h, wordOf]
  have e : ∀ l : List Byte, ofBytes (toBytes 4 v.toNat ++ l) = v.toNat + 2 ^ 32 * ofBytes l := by
    intro l
    have := v.isLt
    simp only [toBytes, List.cons_append, List.nil_append, ofBytes, BitVec.toNat_ofNat]
    omega
  rw [e]
  apply BitVec.eq_of_toNat_eq
  simp only [BitVec.extractLsb'_toNat, BitVec.toNat_ofNat, Nat.shiftRight_zero]
  have := v.isLt
  omega

theorem besides_mem {fl : Nat} {g : Option (BitVec 32)} {l : List (Nat × Nat)} :
    ∀ x ∈ ((if fl = 0 then [] else flagBytes) ++ l) ++ (if g.isSome then [(0x2F8, 4)] else []),
      x ∈ l ++ besides fl g := by
  intro x hx
  simp only [besides, List.mem_append] at hx ⊢
  rcases hx with (hx | hx) | hx
  · exact .inr (.inl hx)
  · exact .inl hx
  · exact .inr (.inr hx)

/-- More ranges say less. -/
theorem Then.wider {s : State} {i : Instr} {d : Delta} {P : State → Prop} {K : State → State → Prop}
    (h : Then s i d P K) {l : List (Nat × Nat)} (hl : ∀ x ∈ d.l, x ∈ l) : Then s i { d with l := l } P K := by
  obtain ⟨u, v, a, b, c, p⟩ := h
  refine ⟨u, v, a, b.wider hl, ?_, p⟩
  have := c.wider (l := l ++ s.endBytes) fun x hx => by
    rcases List.mem_append.mp hx with h1 | h1
    · exact List.mem_append_left _ (hl x h1)
    · exact List.mem_append_right _ h1
  exact this

/-- A word with effects, and more that follows its bundle. -/
theorem then_of (hi : s.Inv) (hI : Issues s i n vals pops) (hx : exec i s = runLone i sem s)
    {l : List Eff} {g : Option (BitVec 32)} {f : Run → Run}
    (hs : sem (s.env i vals) = .ok { effs := l, srg := g, late := f })
    (hn : startsOf l ≤ n) {d : Delta} (hc : ∀ s0 : State, s0.Inv →
      Changes s.hereCore s.hereSlot s.hereBlock d id s0 (applyAll s0 l))
    (ha : Aside d.l) (hcy : ∀ x, (d.g x).cycle = x.cycle)
    (hf : ∀ q, Run.Sound s q → Run.Sound s (f q)) {P : State → Prop} {K : State → State → Prop}
    (hP : ∀ s0 u, s0 = (setPc s.hereCore s.hereBlock (s.herePc + 4)).apply s → s0.Inv →
      (∀ off m, off + m ≤ 0x290 ∨ 0x2C0 ≤ off → off + m ≤ 0x2E0 ∨ 0x2E8 ≤ off →
        (g.isSome → off + m ≤ 0x2F8 ∨ 0x2FC ≤ off) →
        readWsp (u.ticked s.hereCore) s.hereCore s.hereBlock off m =
          readWsp (applyAll s0 l) s.hereCore s.hereBlock off m) →
      (∀ v, g = some v → readWsp (u.ticked s.hereCore) s.hereCore s.hereBlock 0x2F8 4 = toBytes 4 v.toNat) → P u)
    (hK : ∀ q : Run, Run.Sound s q → Turned s (q.s.ticked s.hereCore)
      { d with l := d.l ++ (if g.isSome then [(0x2F8, 4)] else []) ++ s.endBytes,
               f := fun x => (d.f x).pops pops } → K q.s (f q).s) :
    Then s i { d with l := d.l ++ (if g.isSome then [(0x2F8, 4)] else []),
                      f := fun x => (d.f x).pops pops } P K := by
  have hz : Delta.comp d { f := fun x => x.pops pops } =
      { d with l := d.l ++ [], f := fun x => (d.f x).pops pops } := rfl
  let q0 := (Run.start s).commit s.hereCore s.hereSlot s.herePc (s.herePc + 4) false false
    [{ effs := l, srg := g }] pops
  have hpark : ∀ r : Run, ∀ a b c d e, r.parkAfter a b c d e false false none = r := by
    intro r a b c d e
    unfold Run.parkAfter
    simp only [Bool.false_and, Bool.false_eq_true, if_false, ite_self]
  have hcom : (Run.start s).commit s.hereCore s.hereSlot s.herePc (s.herePc + 4) false false
      [{ effs := l, srg := g, late := f }] pops = f q0 := by
    show _ = f ((Run.start s).commit _ _ _ _ _ _ _ _)
    unfold Run.commit
    simp only [List.map_cons, List.map_nil, List.flatten_cons, List.flatten_nil, List.append_nil,
      firstSome_one, List.foldl_cons, List.foldl_nil, hpark, id_eq, List.any_cons, List.any_nil]
  have h0 := (Eff.apply_inv hi (setPc s.hereCore s.hereBlock (s.herePc + 4)))
  have he : Changes s.hereCore s.hereSlot s.hereBlock { d with f := fun x => (d.f x).pops pops } id
      ((setPc s.hereCore s.hereBlock (s.herePc + 4)).apply s)
      (applyAll ((setPc s.hereCore s.hereBlock (s.herePc + 4)).apply s) (l ++ pops)) := by
    rw [applyAll_append]
    have h1 := hc _ h0
    have h2 := h1.trans (changes_pops h1.inv hI.pops_ok)
    rw [hz, List.append_nil] at h2
    exact h2
  obtain ⟨k1, k2, _, k4, k5, _, k6, k7⟩ := issued_turned (E := s.endBytes) (r := { effs := l, srg := g }) hi rfl he
    (late_id s rfl) ⟨.inr (.inl ⟨rfl, fun x hx => (ha x hx).1⟩)⟩ hcy (Slot.awake_park s none)
  have ht : s.issued { effs := l, srg := g } pops = q0.s.ticked s.hereCore := (k7.emit (.tick s.hereCore)).symm
  have hv : s.issued { effs := l, srg := g, late := f } pops = (f q0).s.ticked s.hereCore := by
    unfold State.issued
    rw [hcom]
    exact ((hf _ k7).emit (.tick s.hereCore)).symm
  rw [ht] at k1 k2 k4 k5 k6
  have hT : Turned s (q0.s.ticked s.hereCore)
      { d with l := d.l ++ (if g.isSome then [(0x2F8, 4)] else []) ++ s.endBytes, f := fun x => (d.f x).pops pops } := by
    refine ⟨fun k hk => k1.bytes k (inWorkspace_mono (fun x hx => ?_) k hk), fun k => ?_, k1.core,
      k1.cores, k1.quads, k1.gaffer, k1.rest⟩
    · simpa [srgBytes] using hx
    · refine (k1.slots k).trans ?_
      show (if _ then (parkedBy s none ((d.f s.here).pops pops)).awake else _) = _
      rw [parkedBy_none]
  refine ⟨q0.s, (f q0).s, ?_, ⟨fun hle => ?_, fun _ => k6 rfl ha aside_nil⟩, hT, ?_, hK q0 k7 hT⟩
  · rw [hx, runLone_ok hI hs hn, hv]
  · exact k4 rfl hle (fun x hx => (ha x hx).1) fun x hx => by
      rcases List.mem_append.mp hx with h | h
      · exact (ha x h).2
      · cases h
  · refine hP _ _ rfl h0 (fun off m h1 h2 h3 => ?_) fun v hv => k5 v hv fun x hx => ?_
    · rw [k2 off m fun x hx => ?_, applyAll_append]
      · exact (changes_pops (b := s.hereBlock) (hc _ h0).inv hI.pops_ok).readWsp off m
          (by intro r hr; cases hr)
      · have hx' := mem_ends (a := srgBytes { effs := l, srg := g }) (d := []) (by simpa using hx)
        simp only [List.append_nil, List.mem_append] at hx'
        rcases hx' with (hx' | hx') | hx'
        · simp only [srgBytes] at hx'
          split at hx'
          · next hgs =>
            simp only [List.mem_singleton] at hx'; subst hx'
            have := h3 hgs; simp only []; omega
          · cases hx'
        · simp only [loopBytes, List.mem_singleton] at hx'; subst hx'; simp only []; omega
        · simp only [pcBytes, List.mem_singleton] at hx'; subst hx'; simp only []; omega
    · rw [List.append_nil] at hx
      unfold State.endBytes at hx
      split at hx
      · simp only [loopBytes, List.mem_singleton] at hx; subst hx; simp only []; omega
      · cases hx

/-- The flags and the draws of a word stand in the state afterwards. -/
theorem raised_drew (hi : s.Inv) {l : List Eff} {fl : Nat} {g : Option (BitVec 32)} {d : Delta}
    (hc : ∀ s0 : State, s0.Inv → Changes s.hereCore s.hereSlot s.hereBlock d id s0 (applyAll s0 l))
    (hb : ∀ x ∈ d.l, x.1 + x.2 ≤ 0x2F0 ∨ 0x300 ≤ x.1) {s0 t : State}
    (hs0 : s0 = (setPc s.hereCore s.hereBlock (s.herePc + 4)).apply s) (h0 : s0.Inv)
    (hr : ∀ off m, off + m ≤ 0x290 ∨ 0x2C0 ≤ off → off + m ≤ 0x2E0 ∨ 0x2E8 ≤ off →
      (g.isSome → off + m ≤ 0x2F8 ∨ 0x2FC ≤ off) → readWsp t s.hereCore s.hereBlock off m =
        readWsp (applyAll s0 (raiseEffs s fl ++ l)) s.hereCore s.hereBlock off m)
    (hsrg : ∀ v, g = some v → readWsp t s.hereCore s.hereBlock 0x2F8 4 = toBytes 4 v.toNat) :
    t.raised s fl ∧ t.drew s g := by
  have hl : ∀ u : State, applyAll u (raiseEffs s fl ++ l) = applyAll (applyAll u (raiseEffs s fl)) l :=
    fun u => applyAll_append u _ _
  have hfl : ∀ u : State, u.Inv → fflagsOf (applyAll u (raiseEffs s fl)) s.hereCore s.hereBlock
      = fflagsOf u s.hereCore s.hereBlock ||| BitVec.ofNat 14 (fl % 2 ^ 8) := by
    intro u hu
    unfold raiseEffs
    split
    · next h => subst h; simp
    · rw [applyAll_one, fflags_flags hu]
      congr 1
      apply BitVec.eq_of_toNat_eq
      simp only [BitVec.toNat_setWidth, BitVec.toNat_ofNat]
  have h1 := changes_raise (sl := s.hereSlot) h0 s rfl fl
  have h2 := hc _ h1.inv
  refine ⟨?_, ?_⟩
  · have e1 : fflagsOf t s.hereCore s.hereBlock
        = fflagsOf (applyAll s0 (raiseEffs s fl)) s.hereCore s.hereBlock := by
      simp only [fflagsOf, ctlDword, wspDword]
      rw [hr 0x2F0 8 (by omega) (by omega) (by intro; omega), hl,
        h2.readWsp 0x2F0 8 fun x hx => by rcases hb x hx with h | h <;> omega]
    have e2 : fflagsOf s0 s.hereCore s.hereBlock = fflagsOf s s.hereCore s.hereBlock := by
      subst hs0
      simp only [fflagsOf, ctlDword, wspDword]
      rw [readWsp_setPc hi _ _ _ 0x2F0 8 (by omega)]
    unfold State.raised
    rw [e1, hfl s0 h0, e2]
  · unfold State.drew
    cases g with
    | none =>
      simp only [Option.getD_none, srgOf, wspDword]
      rw [hr 0x2F8 8 (by omega) (by omega) (by simp), hl,
        h2.readWsp 0x2F8 8 (fun x hx => by rcases hb x hx with h | h <;> omega),
        h1.readWsp 0x2F8 8 (fun x hx => by
          split at hx
          · cases hx
          · simp only [flagBytes, List.mem_singleton] at hx; subst hx; simp only []; omega)]
      subst hs0
      rw [readWsp_setPc hi _ _ _ 0x2F8 8 (by omega)]
    | some v =>
      simp only [Option.getD_some]
      exact srgOf_of_bytes (hsrg v rfl)

/-- A word with flags and draws beside other effects. -/
theorem flagged_of (hi : s.Inv) (hI : Issues s i n vals pops) (hx : exec i s = runLone i sem s)
    {l : List Eff} {fl : Nat} {g : Option (BitVec 32)}
    (hs : sem (s.env i vals) = .ok { effs := raiseEffs s fl ++ l, srg := g }) (hn : startsOf l ≤ n)
    {d : Delta} (hc : ∀ s0 : State, s0.Inv →
      Changes s.hereCore s.hereSlot s.hereBlock d id s0 (applyAll s0 l))
    (ha : Aside d.l) (hb : ∀ x ∈ d.l, x.1 + x.2 ≤ 0x2F0 ∨ 0x300 ≤ x.1)
    (hcy : ∀ x, (d.g x).cycle = x.cycle) {P : State → Prop}
    (hP : ∀ s0 t, s0.Inv →
      (∀ off m, off + m ≤ 0x290 → readWsp t s.hereCore s.hereBlock off m =
          readWsp (applyAll s0 l) s.hereCore s.hereBlock off m) → P t) :
    Does s i { d with l := d.l ++ besides fl g, f := fun x => (d.f x).pops pops }
      fun t => P t ∧ t.raised s fl ∧ t.drew s g := by
  refine ((plain_of (d := { d with l := (if fl = 0 then [] else flagBytes) ++ d.l }) hi hI hx hs
    (by rw [startsOf_raise]; exact hn) ?_ ((aside_flags fl).append ha) hcy ?_).wider
      (l := d.l ++ besides fl g) ?_).at rfl ?_ rfl rfl
  · intro s0 _ h0
    rw [applyAll_append]
    have h1 := changes_raise (sl := s.hereSlot) h0 s rfl fl
    exact h1.trans (hc _ h1.inv)
  · intro s0 t hs0 h0 hr hsrg
    refine ⟨hP _ t (changes_raise (sl := s.hereSlot) h0 s rfl fl).inv fun off m ho => ?_,
      raised_drew hi hc hb hs0 h0 hr hsrg⟩
    rw [hr off m (by omega) (by omega) (by intro; omega), applyAll_append]
  · exact besides_mem
  · show parkedBy s none _ = _
    simp only [parkedBy, ite_self]

/-- A word with flags and draws beside other effects, and more that follows its bundle. -/
theorem flaggedThen_of (hi : s.Inv) (hI : Issues s i n vals pops) (hx : exec i s = runLone i sem s)
    {l : List Eff} {fl : Nat} {g : Option (BitVec 32)} {f : Run → Run}
    (hs : sem (s.env i vals) = .ok { effs := raiseEffs s fl ++ l, srg := g, late := f }) (hn : startsOf l ≤ n)
    {d : Delta} (hc : ∀ s0 : State, s0.Inv →
      Changes s.hereCore s.hereSlot s.hereBlock d id s0 (applyAll s0 l))
    (ha : Aside d.l) (hb : ∀ x ∈ d.l, x.1 + x.2 ≤ 0x2F0 ∨ 0x300 ≤ x.1)
    (hcy : ∀ x, (d.g x).cycle = x.cycle)
    (hf : ∀ q, Run.Sound s q → Run.Sound s (f q)) {K : State → State → Prop}
    (hK : ∀ q : Run, Run.Sound s q → K q.s (f q).s) :
    Then s i { d with l := d.l ++ besides fl g, f := fun x => (d.f x).pops pops }
      (fun t => t.raised s fl ∧ t.drew s g) K := by
  refine (then_of (d := { d with l := (if fl = 0 then [] else flagBytes) ++ d.l }) hi hI hx hs
    (by rw [startsOf_raise]; exact hn) ?_ ((aside_flags fl).append ha) hcy hf ?_ fun q hq _ => hK q hq).wider ?_
  · intro s0 h0
    rw [applyAll_append]
    have h1 := changes_raise (sl := s.hereSlot) h0 s rfl fl
    exact h1.trans (hc _ h1.inv)
  · intro s0 u hs0 h0 hr hsrg
    exact raised_drew (t := u.ticked s.hereCore) hi hc hb hs0 h0 hr hsrg
  · exact besides_mem

/-- A g register result with flags and draws. -/
theorem flaggedG_of (hi : s.Inv) (hI : Issues s i n vals pops) (hx : exec i s = runLone i sem s)
    {d : Reg} (hd : gc d ∈ writesOf i) {v : Word} {fl : Nat} {g : Option (BitVec 32)}
    (hs : sem (s.env i vals) =
      .ok { effs := raiseEffs s fl ++ (s.env i vals).setG d v, srg := g }) :
    Does s i { l := gBytes d ++ besides fl g, f := fun x => x.pops pops }
      fun t => t.gIs s d v ∧ t.raised s fl ∧ t.drew s g := by
  rw [hI.env_setG hd v] at hs
  have hl := d.isLt
  refine flagged_of (d := { l := gBytes d }) hi hI hx hs (by rw [startsOf_setG]; omega)
    (fun s0 h0 => changes_setG h0 d v) (aside_gBytes d) ?_ (fun _ => rfl) (P := fun t => t.gIs s d v) ?_
  · intro x hx
    unfold gBytes at hx
    split at hx
    · cases hx
    · simp only [List.mem_singleton] at hx; subst hx; simp only []; omega
  · intro s0 t h0 hr
    unfold State.gIs
    rw [← gReg_setG h0 s.hereCore s.hereBlock d v]
    unfold gReg
    split
    · rfl
    · simp only [wspDword, hr (8 * d.toNat) 8 (by omega)]

/-- A mask result with flags. -/
theorem flaggedM_of (hi : s.Inv) (hI : Issues s i n vals pops) (hx : exec i s = runLone i sem s)
    {d : Reg} (hd : d.toNat < 8) {v : BitVec 16} {fl : Nat} {g : Option (BitVec 32)}
    (hs : sem (s.env i vals) =
      .ok { effs := raiseEffs s fl ++ (s.env i vals).setM d v, srg := g }) :
    Does s i { l := mBytes d ++ besides fl g, f := fun x => x.pops pops }
      fun t => mReg t s.hereCore s.hereBlock d = v ∧ t.raised s fl ∧ t.drew s g := by
  refine flagged_of (d := { l := mBytes d }) (l := setM s.hereCore s.hereBlock d v) hi hI hx hs (Nat.zero_le _)
    (fun s0 h0 => changes_setM h0 d v) (aside_mBytes hd) ?_ (fun _ => rfl)
    (P := fun t => mReg t s.hereCore s.hereBlock d = v) ?_
  · intro x hx
    simp only [mBytes, List.mem_singleton] at hx; subst hx; simp only []; omega
  · intro s0 t h0 hr
    have h1 := readWsp_write h0 s.hereCore s.hereBlock (0x280 + 2 * d.toNat) (toBytes 2 v.toNat)
    rw [length_toBytes] at h1
    simp only [mReg, hr (0x280 + 2 * d.toNat) 2 (by omega)]
    show BitVec.ofNat 16 (ofBytes (readWsp ((wspWrite s.hereCore s.hereBlock (0x280 + 2 * d.toNat)
      (toBytes 2 v.toNat)).apply s0) _ _ _ _)) = v
    rw [h1, ofBytes_toBytes 2 _ (by have := v.isLt; omega)]
    simp

/-- The state after a precise trap that is no `trap n`, behind some effects. -/
theorem trapped_from (s : State) (l : List Eff) {a : BitVec 8} (b : Word) (c : BitVec 32) (h : isTrapN a = false) :
    s.trapped l a b c = (applyAll s l).trapsFrom s a b c := by
  have hr : Run.Sound s ((Run.start s).emits l) := (Run.sound_start s).emits l
  have hs : ((Run.start s).emits l).s = applyAll s l := Run.emits_s _ _
  have hc : ∀ t : State, (trapRecord t s.hereSlot a b c s.herePc false false).cause = a := fun _ => rfl
  unfold State.trapped Run.trapAt
  simp only [h, Bool.false_eq_true, if_false, takeTrap, hc, and_false, hs]
  have hq := (hr.emits [Eff.slot s.hereCore s.hereSlot { ((applyAll s l).slot s.hereCore s.hereSlot).unparked a with
    trap := some { record := { trapRecord (applyAll s l) s.hereSlot a b c s.herePc false false with
      launch := ((applyAll s l).slot s.hereCore s.hereSlot).launch,
      tid := ((applyAll s l).slot s.hereCore s.hereSlot).tid }, queued := false },
    asleep := none }]).emit (.tick s.hereCore)
  refine Eq.trans hq.symm ?_
  simp only [Run.emits_s, Run.emit_s, applyAll_one]
  rfl

/-- The state after a precise trap that is no `trap n`. -/
theorem trapped_eq (s : State) {a : BitVec 8} (b : Word) (c : BitVec 32) (h : isTrapN a = false) :
    s.trapped [] a b c = s.trapsWith a b c := trapped_from s [] b c h

/-- A word whose meaning answers a trap. -/
theorem traps_of (hI : Issues s i n vals pops) (hx : exec i s = runLone i sem s)
    {a : BitVec 8} {b : Word} {c : BitVec 32} (ha : isTrapN a = false)
    (hs : sem (s.env i vals) = .trap a b c) : Traps s i a b c := by
  unfold Traps
  rw [hx, runLone_trap hI hs, trapped_eq s b c ha]

theorem both_effs (p : Res) (l : List Eff) :
    Issue.both (.ok p) (Issue.effs l) = .ok { p with effs := p.effs ++ l } := rfl

/-- A word whose meaning answers that it does not issue. -/
theorem stalls_of (hI : Issues s i n vals pops) (hx : exec i s = runLone i sem s)
    (hs : sem (s.env i vals) = .stall [] none) : Stalls s i := by
  unfold Stalls
  rw [hx, runLone_issue hI, hs]
  simp only [State.stalled, State.stays, Run.stallAt, Run.emits, List.foldl_nil]
  have e : ∀ r : Run, Run.Sound s r → applyAll s (r.tick s.hereCore).done = r.s.ticked s.hereCore :=
    fun r hr => ((hr.emit (.tick s.hereCore))).symm
  rw [e]
  · show Host.Outcome.next (State.ticked (Run.s (if s.here.asleep.isSome then _ else _)) _) = _
    split <;> rfl
  · show Run.Sound s (if s.here.asleep.isSome then _ else _)
    split
    · exact (Run.sound_start s).emit _
    · exact Run.sound_start s

/-- A word whose answer, a trap, rests on a load from local WM. -/
theorem trapsAfter_of (hI : Issues s i n vals pops) (hx : exec i s = runLone i sem s)
    {a : BitVec 8} {b : Word} {c : BitVec 32} (ha : isTrapN a = false)
    (hs : sem (s.env i vals) = (Issue.trap a b c).afterLoads (s.env i vals)) : TrapsAfterLoads s i a b c := by
  have hb : (s.env i vals).readBlocked = s.readsHeld := rfl
  refine ⟨fun hr => ?_, fun hr => ?_⟩
  · apply stalls_of hI hx
    rw [hs]
    simp only [Issue.afterLoads, hb, hr, if_true]
  · have hl : sem (s.env i vals) = .trapWith
        ((Run.start s).satisfyBefore s.hereCore s.hereSlot s.here.tid s.here.seq).done a b c := by
      rw [hs]
      simp only [Issue.afterLoads, hb, hr, Bool.false_eq_true, if_false]
      rfl
    have hd : applyAll s ((Run.start s).satisfyBefore s.hereCore s.hereSlot s.here.tid s.here.seq).done
        = s.satisfied := ((Run.sound_start s).satisfyBefore _ _ _ _).symm
    rw [hx, runLone_issue hI, hl]
    simp only []
    rw [trapped_from s _ b c ha, hd]

/-- The causes of a header's own checks are no `trap n`. -/
theorem headerFault_cause {e : Env} {k : Nat} {v : Vec} {x : BitVec 8} {y : Word} {z : BitVec 32}
    (h : e.headerFault k v = some (x, y, z)) : isTrapN x = false := by
  have hl : ∀ {c : Nat} {a : Word} {m n : Nat} {x : BitVec 8}, localCheck c a m n = some x →
      isTrapN x = false := by
    intro c a m n x h
    unfold localCheck at h
    split at h
    · cases h; rfl
    · split at h
      · cases h; rfl
      · split at h <;> cases h
        rfl
  have ho : ∀ (l : List (Option (BitVec 8 × Word × BitVec 32))) r, (∀ o ∈ l, ∀ p, o = some p → isTrapN p.1 = false) →
      firstFail l = some r → isTrapN r.1 = false := by
    intro l
    induction l with
    | nil => intro r _ h; cases h
    | cons o l ih =>
      intro r hl h
      cases o with
      | none => exact ih r (fun o ho => hl o (List.mem_cons_of_mem _ ho)) h
      | some p => cases h; exact hl _ List.mem_cons_self _ rfl
  refine ho _ (x, y, z) (fun o hm p hp => ?_) h
  subst hp
  simp only [List.mem_cons, List.not_mem_nil, or_false] at hm
  rcases hm with hm | hm | hm | hm | hm | hm | hm
  all_goals
    first
    | (split at hm <;> cases hm <;> rfl)
    | (split at hm <;> try cases hm
       cases hc : localCheck e.c _ 8 _ with
       | none => rw [hc] at hm; cases hm
       | some w => rw [hc] at hm; cases hm; exact hl hc)

/-- The delivery of a vector result. -/
theorem delivers_of (hi : s.Inv) (hI : Issues s i n vals pops) (hx : exec i s = runLone i sem s)
    {d : Reg} (hd : vc d ∈ writesOf i) {v : Vec} {fl : Nat} {g : Option (BitVec 32)}
    (hs : sem (s.env i vals) =
      Issue.both (.ok { effs := raiseEffs s fl, srg := g }) ((s.env i vals).putV d v)) :
    Delivers s i vals pops d v fl g := by
  refine ⟨fun h => ?_, fun h1 h2 => ?_, fun h cmd hc hu => ?_, fun h hc hf cmd ha hu => ?_,
    fun h hc x y z hf => ?_, fun h hc hf x y z ha hn => ?_, fun h hw => ?_⟩
  · have hp : (s.env i vals).putV d v = Issue.effs (setV s.hereCore s.hereBlock d v) := by
      rw [Env.putV, if_pos h, hI.env_setV hd v]
    rw [hp, both_effs] at hs
    have := d.isLt
    refine ((flagged_of (d := { l := vBytes d }) hi hI hx hs (Nat.zero_le _)
      (fun s0 h0 => changes_setV h0 d v) (aside_vBytes h)
      (by intro x hx; simp only [vBytes, List.mem_singleton] at hx; subst hx; simp only []; omega)
      (fun _ => rfl) (P := fun t => vReg t s.hereCore s.hereBlock d = v) ?_)).at rfl rfl rfl rfl
    intro s0 t h0 hr
    have h1 := readWsp_write h0 s.hereCore s.hereBlock (0x100 + 16 * d.toNat) (vecBytes v)
    rw [length_vecBytes] at h1
    simp only [vReg, hr (0x100 + 16 * d.toNat) 16 (by omega)]
    show vecOf (readWsp ((wspWrite s.hereCore s.hereBlock (0x100 + 16 * d.toNat)
      (vecBytes v)).apply s0) _ _ _ _) = v
    rw [h1, vecOf_vecBytes]
  · have hp : (s.env i vals).putV d v =
        .trap 0x63 (BitVec.ofNat 64 (loneWord i).toNat) (BitVec.ofNat 32 d.toNat) := by
      rw [Env.putV, if_neg (by omega), if_pos h2]; rfl
    rw [hp] at hs
    have := traps_of hI hx (by decide) hs
    exact this
  · have hp : (s.env i vals).putV d v =
        Issue.effs [.operand s.hereCore s.hereSlot (d.toNat - 28) v] := by
      have hc' : ((s.env i vals).slot.port (d.toNat - 28)).opened = some cmd := hc
      have hu' : ((s.env i vals).slot.port (d.toNat - 28)).used < 8 := hu
      rw [Env.putV, if_neg (by omega), if_neg (by omega)]
      simp only [Env.push, hc', if_pos hu']
      rfl
    rw [hp, both_effs] at hs
    exact ((flagged_of (d := { f := fun x => x.operand (d.toNat - 28) v }) hi hI hx hs (Nat.zero_le _)
      (fun s0 h0 => changes_operand h0 _ v) aside_nil (by intro x hx; cases hx) (fun _ => rfl)
      (P := fun _ => True) (fun _ _ _ _ => trivial)).mono fun t ht => ht.2).at rfl rfl rfl rfl
  · have hc' : ((s.env i vals).slot.port (d.toNat - 28)).opened = none := hc
    have hu' : ((s.env i vals).slot.port (d.toNat - 28)).used + 1 + field v 19 16 ≤ 8 := hu
    have hp : (s.env i vals).putV d v =
        (Issue.effs [.header s.hereCore s.hereSlot (d.toNat - 28) cmd]).afterLoads (s.env i vals) := by
      rw [Env.putV, if_neg (by omega), if_neg (by omega)]
      simp only [Env.push, hc', hf, ha]
      rw [if_pos hu']
      rfl
    rw [hp] at hs
    have hb : (s.env i vals).readBlocked = s.readsHeld := rfl
    constructor
    · intro hr
      apply stalls_of hI hx
      rw [hs]
      simp only [Issue.effs, Issue.afterLoads, hb, hr, if_true, Issue.both]
    · intro hr
      simp only [Issue.effs, Issue.afterLoads, hb, hr, Bool.false_eq_true, if_false, Issue.both] at hs
      exact flaggedThen_of (d := { f := fun y => { y.accept (d.toNat - 28) { cmd with seq := y.seq } with
          seq := y.seq + 1 } }) hi hI hx hs (Nat.zero_le _)
        (fun s0 h0 => changes_header h0 _ cmd) aside_nil (by intro x hx; cases hx) (fun _ => rfl)
        (fun q hq => hq.satisfyBefore _ _ _ _) fun q _ =>
          Run.satisfyBefore_s (r := q) (q := Run.start q.s) rfl _ _ _ _
  · have hc' : ((s.env i vals).slot.port (d.toNat - 28)).opened = none := hc
    have hp : (s.env i vals).putV d v = .trap x y z := by
      rw [Env.putV, if_neg (by omega), if_neg (by omega)]
      simp only [Env.push, hc', hf]
    rw [hp] at hs
    exact traps_of hI hx (headerFault_cause hf) hs
  · have hc' : ((s.env i vals).slot.port (d.toNat - 28)).opened = none := hc
    have hp : (s.env i vals).putV d v = (Issue.trap x y z).afterLoads (s.env i vals) := by
      rw [Env.putV, if_neg (by omega), if_neg (by omega)]
      simp only [Env.push, hc', hf, ha]
    apply trapsAfter_of hI hx hn
    rw [hs, hp]
    cases hb : (s.env i vals).readBlocked <;>
      simp only [Issue.afterLoads, hb, Bool.false_eq_true, if_false, if_true, Issue.both]
  · have hp : (s.env i vals).putV d v = .stall [] none := by
      rw [Env.putV, if_neg (by omega), if_neg (by omega)]
      rcases hw with ⟨cmd, h1, h2⟩ | ⟨h1, h2, h3⟩
      · have h1' : ((s.env i vals).slot.port (d.toNat - 28)).opened = some cmd := h1
        have h2' : ¬ ((s.env i vals).slot.port (d.toNat - 28)).used < 8 := by show ¬ (s.here.port _).used < 8; omega
        simp only [Env.push, h1', if_neg h2']
      · have h1' : ((s.env i vals).slot.port (d.toNat - 28)).opened = none := h1
        rcases h3 with h3 | ⟨cmd, h3, h4⟩
        · simp only [Env.push, h1', h2, h3, Issue.afterLoads]
        · have h4' : ¬ ((s.env i vals).slot.port (d.toNat - 28)).used + 1 + field v 19 16 ≤ 8 := by
            show ¬ (s.here.port _).used + 1 + _ ≤ 8; omega
          simp only [Env.push, h1', h2, h3, if_neg h4', Issue.afterLoads]
    apply stalls_of hI hx
    rw [hs, hp]
    rfl

end

/-- A field of the top bits is clear when the word is small. -/
theorem field_top {a : Word} : field a 63 57 = 0 ↔ a.toNat < 2 ^ 57 := by
  have := a.isLt
  simp only [field, fieldN]; omega

section
variable {s : State} {i : Instr} {n : Nat} {vals : List (Nat × Vec)} {pops : List Eff}
  {sem : Env → Issue}

/-- A word that transfers control, or traps when its target leaves the address space. -/
theorem goesTo_of (hI : Issues s i n vals pops) (hx : exec i s = runLone i sem s)
    {l : List Eff} {a : Word} {d : Delta} {P : State → Prop}
    (hs : sem (s.env i vals) = Issue.jumpTo a l)
    (hg : sem (s.env i vals) = .ok { effs := l, jump := some a.toNat } → Goes s i a.toNat d P) :
    GoesTo s i a d P := by
  constructor
  · intro h
    apply hg
    rw [hs, Issue.jumpTo, if_neg]
    simp [field_top.mpr h]
  · intro h
    apply traps_of hI hx (by decide)
    rw [hs, Issue.jumpTo, if_pos]
    intro h2; have := field_top.mp h2; omega

/-- A good address goes on, and a bad one traps. -/
theorem checked_none {sp : Space} {a : Word} {m : Nat} (h : addrFault sp a m = none) (k : Issue) :
    checked sp a m k = k := by simp only [checked, h]

theorem checked_some {sp : Space} {a : Word} {m : Nat} {c : BitVec 8} (h : addrFault sp a m = some c)
    (k : Issue) : checked sp a m k = .trap c a 0 := by simp only [checked, h]

/-- The causes of address faults are no `trap n`. -/
theorem addrFault_cause {sp : Space} {a : Word} {m : Nat} {c : BitVec 8} (h : addrFault sp a m = some c) :
    isTrapN c = false := by
  unfold addrFault at h
  split at h
  · cases h; rfl
  · split at h
    all_goals split at h <;> cases h
    all_goals rfl

/-- A word whose address is bad. -/
theorem traps_checked (hI : Issues s i n vals pops) (hx : exec i s = runLone i sem s) {sp : Space} {a : Word}
    {m : Nat} {k : Issue} {c : BitVec 8} (hs : sem (s.env i vals) = checked sp a m k)
    (h : addrFault sp a m = some c) : Traps s i c a 0 :=
  traps_of hI hx (addrFault_cause h) (by rw [hs, checked_some h])

/-- What holds of the record of the thread that issues. -/
theorem Issues.thread (h : Issues s i n vals pops) :
    s.here.wspV = true ∧ s.here.dying = false ∧ s.here.trap = none := by
  have := not_inert h.free
  simp only [slotInert, Bool.or_eq_false_iff, Bool.not_eq_false', Option.isSome_eq_false_iff,
    Option.isNone_iff_eq_none] at this
  exact ⟨this.1.1.1.1, this.1.1.1.2, this.1.1.2⟩

end

end Sys2Proof.Machine
end

