-- ==== Sys2Proof/Laws/Loops.lean ====
section
/-!
SUPPORT. Loop levels read back as written, and the other levels stay as they were.
-/

namespace Sys2Proof.Machine

section
variable {u : State} {c b l : Nat} {x : LoopState}

theorem changes_setLoop (h : u.Inv) (sl : Nat) :
    Changes c sl b { l := [(0x290 + 16 * l, 16)] } id u ((setLoop c b l x).apply u) :=
  changes_write h _ _ _ _ _ 16 (by simp [length_toBytes])

theorem changes_setLoop' (h : u.Inv) (sl : Nat) (hl : l < 3) :
    Changes c sl b { l := loopBytes } id u ((setLoop c b l x).apply u) := by
  refine (changes_setLoop h sl).mono fun j hj => ?_
  obtain ⟨base, hb⟩ := localKey_base c
  simp only [inWorkspace, inRanges, loopBytes, List.map_cons, List.map_nil, List.any_cons, List.any_nil,
    Bool.or_false, Bool.and_eq_false_iff, decide_eq_false_iff_not, hb] at *
  omega

end

/-- Levels that read the same, from bytes that do. -/
theorem level_congr {t u : State} {c b : Nat} {l : Nat} (hl : l < 3)
    (h : ∀ off m, 0x290 ≤ off → off + m ≤ 0x2C0 → readWsp t c b off m = readWsp u c b off m) :
    loopState t c b l = loopState u c b l := by
  simp only [loopState, wspDword, h (0x290 + 16 * l) 8 (by omega) (by omega),
    h (0x298 + 16 * l) 8 (by omega) (by omega)]

end Sys2Proof.Machine
end

