-- ==== Sys2Proof/Tests/Slice0.lean ====
section
/-!
SUPPORT. Tests: the decoder on words of the spec's encoding table and of its examples, terms that are not
well formed, single steps with results worked out by hand from the spec's rules, and for every statement
states that meet its hypotheses.
-/

namespace Sys2Proof.Tests

set_option Elab.async false

open Sys2Proof Sys2Proof.Machine

/-! ### Decoding -/

/-- Each word decodes to the well-formed instruction beside it, and the encoder gives the word back without
its bits L and P. -/
def decodes (l : List (BitVec 32 × Instr)) : Bool :=
  l.all fun p => wellFormed p.2 && encode p.2 == some (p.1 &&& 0x5FFFFFFF) &&
    match decodeWord p.1 with
    | .ok i => i == p.2
    | .error _ => false

/-! Words that the text of the spec prints beside the instructions they stand for (01 to 08, 11, 14). -/

theorem test_decode_examples : decodes [
    (0x80000000, .nop), (0xA0000000, .nop), (0xC0C00000, .or 0 0 0), (0x40000000, .add 0 0 0),
    (0x81860FFD, .bNe 3 0 0xFFD), (0xC90E0003, .kon 7 3), (0x82D38004, .loop 1 7 4), (0xC7129064, .addi 9 9 100),
    (0x84400000, .halt), (0xCF8411A6, .vcmp 2 1 3 2 0 6), (0xD18C2006, .vred 6 2 0 0 0 6),
    (0xD2485305, .vcvt 4 5 6 0 5), (0xD28C7081, .vpack 6 7 1 0 1), (0xD6C04380, .bbind 4 7),
    (0xD70A0010, .bget 5 16), (0xD784000C, .bpeek 2 12), (0xD8100000, .bpos 8), (0xD84A5300, .ansd 5 5 6),
    (0x860A4008, .ldW 5 4 0 8), (0x878C43FF, .stD 6 4 1 0x1FF), (0x87C64003, .vld 3 4 0 3),
    (0x88462044, .vldm 3 2 0 1 4), (0x88C64290, .vgat 3 4 5 2 0), (0x89404002, .pref 4 0 2),
    (0xA9904200, .ldfe 8 4 1 0), (0x8B0E4310, .amo 7 4 6 0 1 0), (0x8B4E4299, .cas 7 4 5 6 0 1),
    (0x8BC09007, .fenceSc 9 0 1), (0x8BC00021, .fenceRel 0 4 0), (0x8C0A0310, .bar 5 0 6 2 0 0),
    (0x8C4A0310, .barnb 5 0 6 2 0 0), (0x8C804105, .send 4 2 5), (0x8CC60005, .recv 3 5),
    (0x8D724000, .sbind 25 4), (0x8DB20000, .sclose 25), (0x92480013, .twput 4 1 3), (0xD9909500, .munf 8 9 10),
    (0xD9080000, .mmz 4 0), (0xD948705C, .mmd 4 7 1 3 1 0), (0x95CA0000, .mlicQ 5), (0x8ECE4000, .xwait 7 4),
    (0x8F086000, .tlrchk 4 6), (0xD0072001, .vsplat 3 18 0 1), (0xCA063001, .vadd 3 3 0 0 0 1),
    (0x88076600, .vst 3 22 3 0)] = true := by decide

/-! For every instruction a word of the encoding table with its operand fields filled in. -/

theorem test_decode_control : decodes [
    (0x80000000, .nop), (0x8069735A, .j 2716506), (0x80934F06, .jal 1265414), (0x80C15303, .jr 21 771),
    (0x811C2D61, .jalr 14 2 3425), (0x81514724, .bEq 8 20 1828), (0x81A63442, .bNe 19 3 1090),
    (0x81DCB5C8, .bLt 14 11 1480), (0x822731E8, .bGe 19 19 488), (0x82614B92, .bLtu 16 20 2962),
    (0x8290BFD7, .bGeu 8 11 4055), (0x82E39E39, .loop 2 7 7737), (0x83100000, .lbrk 1), (0x83200001, .lbrkStay 2),
    (0x83614AE2, .fork 16 20 2786), (0x839C3214, .join 14 3 532), (0x83C0A91B, .susp 10 2331),
    (0x84000000, .yield), (0x84400000, .halt)] = true := by decide

theorem test_decode_loads : decodes [
    (0x8512D5CB, .ldB 9 13 2 459), (0x85572437, .ldBu 11 18 2 55), (0x85886068, .ldH 4 6 0 104),
    (0x85C6C2D4, .ldHu 3 12 1 212), (0x8626585D, .ldW 19 5 4 93), (0x8653101C, .ldWu 9 17 0 28),
    (0x8696F2E1, .ldD 11 15 1 225), (0x87DE65DC, .vld 15 6 2 476), (0x884E5401, .vldm 7 5 2 0 1),
    (0x88CC7914, .vgat 6 7 18 2 4), (0x894051C2, .pref 5 0 450), (0x8990514D, .ldfe 8 5 0 333),
    (0x89E34273, .ldfx 17 20 1 115), (0x8A97331D, .fepoll 11 19 1 285)] = true := by decide

theorem test_decode_stores : decodes [
    (0x86C812E3, .stB 4 1 1 227), (0x870AB884, .stH 5 11 4 132), (0x8748973F, .stW 4 9 3 319),
    (0x87A3175E, .stD 17 17 3 350), (0x88122305, .vst 9 2 1 261), (0x88A1183A, .vstm 16 17 4 0 58),
    (0x89110904, .vsca 8 16 18 0 4), (0x8A06D013, .stfe 3 13 0 19), (0x8A543243, .stff 10 3 1 67),
    (0x8AC022DE, .fesetE 2 1 222), (0x8AC213CC, .fesetF 1 1 460), (0x8B228238, .amo 17 8 4 1 1 8),
    (0x8B5311A4, .cas 9 17 3 9 0 0)] = true := by decide

theorem test_decode_sync : decodes [
    (0x8BC08004, .fenceAcq 8 0 1), (0x8BC01005, .fenceRel 1 0 1), (0x8BC01006, .fenceAr 1 0 1),
    (0x8BC00013, .fenceSc 0 2 0), (0x8C220530, .bar 17 0 10 6 0 0), (0x8C4A9585, .barnb 5 9 11 0 1 1),
    (0x8C811787, .send 17 15 7), (0x8CC6000A, .recv 3 10), (0x8D16001D, .rprobe 11 29),
    (0x8D716000, .sbind 24 22), (0x8DB60000, .sclose 27), (0x8F14A000, .tlrchk 10 10),
    (0x924C000F, .twput 6 0 15), (0x92A00011, .twget 16 1 1), (0x92D20001, .twtest 9 1)] = true := by decide

theorem test_decode_engines : decodes [
    (0x8DC45540, .xcopy 2 5 10 1 0), (0x8DEC73F1, .xcopyFill 22 7 7 1 6), (0x8E24F800, .xgat 18 15 16),
    (0x8E0EF301, .xgatSca 7 15 6), (0x8E075302, .xgatScadd 3 21 6), (0x8E564980, .xform 11 4 19),
    (0x8E527601, .xformRans 9 7 12), (0x8E968380, .xcoll 11 8 7), (0x8EA0F381, .xcollBcast 16 15 7),
    (0x8ED26000, .xwait 9 6), (0x8EE0A001, .xwaitPoll 16 10)] = true := by decide

theorem test_decode_layers : decodes [
    (0x8F589700, .lnew 12 9 14), (0x8F960000, .lfree 11), (0x8FD05000, .lpose 8 5), (0x9008D000, .lcommit 4 13),
    (0x90514500, .lsplit 8 20 10), (0x90A95780, .lmerge 20 21 15), (0x90C48000, .lerr 2 8),
    (0x90DC8001, .lerrHdr 14 8), (0x9124E000, .lprice 18 14), (0x916AA000, .lorder 21 10),
    (0x91AD4800, .llight 22 20 16), (0x919A0001, .llightBump 13), (0x91DCE000, .lshadow 14 14),
    (0x920C6000, .lreqTmpl 6 6), (0x92260001, .lreqNow 19), (0x920C0002, .lreqClr 6)] = true := by decide

theorem test_decode_system : decodes [
    (0x93200031, .crd 16 49), (0x93401010, .cwr 1 16), (0x939C6015, .crx 14 6 21), (0x93C0400B, .trap 4 11),
    (0x94000000, .rte), (0x94632680, .wrd 17 18 13), (0x949C6500, .wwr 14 6 10), (0x94DA0000, .walloc 13),
    (0x94C0A001, .wallocRel 10), (0x95210000, .slotctlKill 16 16), (0x95064001, .slotctlStat 3 4),
    (0x95147002, .slotctlStop 10 7), (0x9510F003, .slotctlGo 8 15), (0x954E0001, .tsc 7 1),
    (0x95874100, .wspx 3 20 2), (0x95C80000, .mlicQ 4), (0x95D00001, .mlicAcq 8), (0x95CC0002, .mlicRel 6)] = true := by decide

theorem test_decode_scalar : decodes [
    (0xC0134580, .add 9 20 11), (0xC058D800, .sub 12 13 16), (0xC0944980, .and 10 4 19),
    (0xC0E71400, .or 19 17 8), (0xC11AD100, .xor 13 13 2), (0xC160D180, .shl 16 13 3), (0xC18C5180, .shr 6 5 3),
    (0xC1C92400, .sra 4 18 8), (0xC20D0400, .mul 6 16 8), (0xC25AC600, .mulh 13 12 12),
    (0xC2A41880, .mulhu 18 1 17), (0xC2D2E180, .div 9 14 3), (0xC31D0A00, .divu 14 16 20),
    (0xC3584600, .rem 12 4 12), (0xC38D5500, .remu 6 21 10), (0xC3E65600, .min 19 5 12), (0xC40E7200, .max 7 7 4),
    (0xC4568480, .minu 11 8 9), (0xC4827580, .maxu 1 7 11), (0xC4D61580, .slt 11 1 11), (0xC5068A00, .sltu 3 8 20)] = true := by decide

theorem test_decode_scalar_immediates : decodes [
    (0xC550B000, .clz 8 11), (0xC5A0E000, .ctz 16 14), (0xC5C75000, .popc 3 21), (0xC61F2000, .revB 15 18),
    (0xC6132001, .revBit 9 18), (0xC6669CC7, .ext 19 9 51 7), (0xC69E7218, .ins 15 7 8 24),
    (0xC6E4C344, .sel 18 12 6 17), (0xC71699A8, .addi 11 9 2472), (0xC75B69B3, .andi 13 22 2483),
    (0xC79F105E, .ori 15 17 94), (0xC7D335F0, .xori 9 19 1520), (0xC8232026, .shli 17 18 38),
    (0xC852F00F, .shri 9 15 15), (0xC897003D, .srai 11 16 61), (0xC8E26521, .slti 17 6 1313),
    (0xC99AFD66, .sltiu 13 15 3430), (0xC90A150D, .kon 5 5389), (0xC949EFCA, .konh 4 126922)] = true := by decide

theorem test_decode_vector_arithmetic : decodes [
    (0xCA0D4307, .vadd 6 20 6 0 0 7), (0xCA4907C8, .vsub 4 16 15 1 1 0), (0xCA9EE886, .vmul 15 14 17 0 0 6),
    (0xCAD69883, .vmulh 11 9 17 0 0 3), (0xCB213489, .vfma 16 19 9 0 1 1), (0xCB5AE395, .vfms 13 14 7 0 2 5),
    (0xCBA213A4, .vfnma 17 1 7 0 4 4), (0xCBDCE43C, .vdiv 14 14 8 0 7 4), (0xCC1EF00E, .vsqrt 15 15 0 1 6),
    (0xCC5C7A95, .vmin 14 7 21 0 2 5), (0xCCA135A6, .vmax 16 19 11 0 4 6), (0xCCCC699E, .vminn 6 6 19 0 3 6),
    (0xCD26171D, .vmaxn 19 1 14 0 3 5), (0xCD516016, .vabs 8 22 0 2 6), (0xCD93203C, .vneg 9 18 0 7 4)] = true := by decide

theorem test_decode_vector_bits : decodes [
    (0xCDE04280, .vand 16 4 5), (0xCE1AD200, .vor 13 13 4), (0xCE611900, .vxor 16 17 18),
    (0xCEA46000, .vnot 18 6), (0xCEC8A642, .vshl 4 10 12 1 0 2), (0xCF086102, .vshr 4 6 2 0 0 2),
    (0xCF550702, .vsra 10 16 14 0 0 2), (0xCF8C6349, .vcmp 6 6 6 4 1 1), (0xCFC6519C, .vsel 3 5 3 7),
    (0xD01C2003, .vsplat 14 2 0 3), (0xD05AC585, .vins 13 12 11 0 5), (0xD08B3A02, .vext 5 19 20 0 2),
    (0xD0D4A700, .vshuf 10 10 14), (0xD10B4691, .vzip 5 20 13 1 0 1), (0xD14D5187, .vunzip 6 21 3 0 0 7),
    (0xD4CCB000, .vmov 6 11)] = true := by decide

theorem test_decode_vector_functions : decodes [
    (0xD19ED10B, .vred 15 13 2 0 1 3), (0xD1CC6908, .vdot 6 6 18 0 1 0), (0xD20CAA01, .vsad 6 10 20 0 0 1),
    (0xD25E3484, .vcvt 15 3 9 0 4), (0xD29F2294, .vpack 15 18 5 0 20), (0xD2E69313, .vunpack 19 9 6 19),
    (0xD30E900C, .vrcp 7 9 0 1 4), (0xD362903F, .vrsq 17 9 0 7 7), (0xD3A09026, .vexp2 16 9 0 4 6),
    (0xD3CCA016, .vlog2 6 10 0 2 6), (0xD40B303D, .vsin 5 19 0 7 5), (0xD462B01E, .vcos 17 11 0 3 6),
    (0xD4942006, .vclass 10 2 6)] = true := by decide

theorem test_decode_masks : decodes [
    (0xD5403380, .mand 0 3 7), (0xD5402181, .mandNot 0 2 3), (0xD5882380, .mor 4 2 7), (0xD5863201, .morG 3 3 4),
    (0xD5C41280, .mxor 2 1 5), (0xD60A7000, .mnot 5 7), (0xD6402000, .mcnt 0 2), (0xD6426001, .mcntRaw 1 6),
    (0xD6821000, .mfirst 1 1)] = true := by decide

theorem test_decode_bit_streams : decodes [
    (0xD6C08400, .bbind 8 8), (0xD7120001, .bget 9 1), (0xD7516000, .bgetv 8 22), (0xD79A0001, .bpeek 13 1),
    (0xD7C02790, .bskip 2 1936), (0xD80E0000, .bpos 7), (0xD8060001, .bposLeft 3), (0xD8260002, .bposState 19),
    (0xD8674500, .ansd 19 20 10)] = true := by decide

theorem test_decode_matrix : decodes [
    (0xD89F344A, .mma 15 19 8 1 1 1 0), (0xD8E557C9, .mmac 18 21 15 1 1 0 1), (0xD9040000, .mmz 2 0),
    (0xD9435054, .mmd 1 21 1 2 1 0), (0xD984A780, .munf 2 10 15)] = true := by decide

theorem test_decode_permutations : decodes [
    (0xD9E80903, .qld 5 9 3), (0xDA050902, .qst 5 9 2), (0xDA47A000, .qcomp 0 7 5), (0xDABF0000, .qinv 7 7),
    (0xDAD80000, .qrnd 3), (0xDB280000, .qid 5), (0xDB450914, .qapp 5 9 20), (0xDB800900, .qtile 0 9),
    (0xDBC10900, .qcyc 1 9), (0xDC000949, .qchk 9 9 1)] = true := by decide

/-! ### What the checks refuse -/

/-- The checks refuse each instruction. -/
def illFormed (l : List Instr) : Bool := l.all fun i => ! wellFormed i

theorem test_wf_loop_level : illFormed [.loop 3 1 1, .lbrk 3, .lbrkStay 3] = true := by decide

theorem test_wf_space : illFormed [.ldB 1 2 5 0, .ldBu 1 2 6 0, .ldH 1 2 7 0, .ldHu 1 2 5 0, .ldW 1 2 5 0, .ldWu 1 2 5 0,
    .ldD 1 2 5 0, .stB 1 2 5 0, .stH 1 2 5 0, .stW 1 2 5 0, .stD 1 2 5 0, .vld 1 2 5 0, .vst 1 2 5 0, .vldm 1 2 5 0 0,
    .vstm 1 2 5 0 0, .vgat 1 2 3 0 5, .vsca 1 2 3 0 5, .pref 2 1 0] = true := by decide

theorem test_wf_home_space : illFormed [.ldfe 1 2 2 0, .ldfx 1 2 2 0, .stfe 1 2 2 0, .stff 1 2 2 0, .fepoll 1 2 2 0,
    .fesetE 2 2 0, .fesetF 2 2 0, .amo 1 2 3 2 0 0, .amo 1 2 3 0 0 9] = true := by decide

theorem test_wf_vector_destination : illFormed [.vld 28 2 0 0, .vldm 31 2 0 0 0, .vgat 28 2 3 0 0, .recv 28 0,
    .twget 29 0 0, .sbind 23 1, .sbind 28 1, .sclose 23] = true := by decide

theorem test_wf_scope : illFormed [.fenceAcq 1 1 0, .fenceRel 0 0 0, .fenceAr 0 7 0, .fenceSc 1 1 1, .bar 1 2 3 1 0 0,
    .barnb 1 0 3 7 0 0] = true := by decide

theorem test_wf_control_register : illFormed [.crd 1 5, .crd 1 0x1A, .cwr 1 0, .cwr 1 0x40, .crx 1 2 8, .tsc 1 2] = true := by
  decide

theorem test_wf_bit_field : illFormed [.ext 1 2 32 32, .ins 1 2 63 1, .bget 1 0, .bget 1 65, .bpeek 1 0, .bpeek 1 65] = true := by
  decide

theorem test_wf_type_field : illFormed [.vadd 1 2 3 0 2 0, .vsub 1 2 3 1 0 6, .vmul 1 2 3 0 6 7, .vmulh 1 2 3 1 0 0,
    .vmulh 1 2 3 0 0 4, .vdiv 1 2 3 0 0 3, .vsqrt 1 2 0 0 0, .vmin 1 2 3 1 0 0, .vmax 1 2 3 1 0 0, .vminn 1 2 3 0 0 0,
    .vmaxn 1 2 3 0 0 2, .vabs 1 2 0 6 4, .vneg 1 2 1 0 4, .vshl 1 2 3 0 0 4, .vshr 1 2 3 1 0 0, .vsra 1 2 3 0 1 0,
    .vrcp 1 2 0 0 1, .vrsq 1 2 0 6 4, .vexp2 1 2 1 0 4, .vlog2 1 2 0 0 0, .vsin 1 2 0 0 0, .vcos 1 2 0 0 0, .vclass 1 2 3,
    .vsplat 1 2 1 4, .vins 1 2 3 1 4, .vext 1 2 3 1 4, .vzip 1 2 3 0 1 4, .vunzip 1 2 3 0 1 4] = true := by decide

theorem test_wf_accumulator_port : illFormed [.vfma 24 2 3 0 0 6, .vfms 28 2 3 0 0 6, .vfnma 31 2 3 0 0 6, .vdot 24 2 3 0 0 0,
    .vsad 24 2 3 0 0 0, .vins 24 2 3 0 0, .vpack 24 2 0 0 0] = true := by decide

theorem test_wf_vector_operation : illFormed [.vcmp 8 2 3 0 0 0, .vcmp 1 2 3 7 0 0, .vcmp 1 2 3 6 0 0, .vcmp 1 2 3 0 1 4,
    .vsel 1 2 3 8, .vred 1 2 5 0 0 0, .vred 1 2 3 0 0 4, .vdot 1 2 3 0 0 2, .vsad 1 2 3 0 0 2] = true := by decide

theorem test_wf_element_code : illFormed [.vcvt 1 2 12 0 0, .vcvt 1 2 0 0 24, .vpack 1 2 2 0 0, .vpack 1 2 4 0 2,
    .vpack 1 2 0 0 5, .vpack 1 2 0 1 16, .vunpack 1 2 2 1, .vunpack 1 2 0 24] = true := by decide

theorem test_wf_mask_register : illFormed [.mand 8 1 1, .mandNot 1 8 1, .mor 1 1 8, .morG 8 1 1, .mxor 8 1 1, .mnot 1 8,
    .mcnt 1 8, .mcntRaw 1 8, .mfirst 1 8] = true := by decide

theorem test_wf_matrix : illFormed [.mma 1 2 3 0 1 0 0, .mmac 1 2 3 0 7 0 0, .mmd 1 2 0 1 0 0, .qld 1 2 0, .qst 1 2 4,
    .qchk 1 2 0] = true := by decide

/-- The word is refused as an opcode that is reserved, as a reserved field value, or as an operation that an engine
lacks. -/
def refusedAs (e : DecodeErr) (l : List (BitVec 32)) : Bool :=
  l.all fun w => match decodeWord w with
    | .ok _ => false
    | .error x => x == e

theorem test_reserved_opcodes : refusedAs .reservedOp [0xC9C00000, 0xD5000000, 0xDC400000, 0xDFC00000, 0x84800000,
    0x84C00000, 0x8B800000, 0x96000000] = true := by decide

theorem test_reserved_fields : refusedAs .reservedField [0xC0000001, 0x80000001, 0x84000001, 0x94000001,
    0xD70A0000, 0xCF8411F6, 0x82F38004] = true := by decide

/-! ### Single steps -/

/-- Core 0 with one thread, in slot sl, on that slot's turn: it runs in workspace block sl, where some fields hold
values, each an offset, a number of bytes and the value. -/
def probe (sl : Nat) (l : List (Nat × Nat × Nat)) : State :=
  { State.reset with
    mem := l.foldl (fun m e => writeBytes m (localKey 0 .wm (sl * 2048 + e.1)) (toBytes e.2.1 e.2.2)) []
    cores := [(0, { CoreSt.reset with ctx := some 0, cycle := BitVec.ofNat 64 sl })]
    slots := [(slotKey 0 sl, { Slot.reset with wspV := true, block := sl })]
    gaffer := { Gaffer.reset with ctxs := [(0, probeContext)] } }

/-- A user thread's turn, in slot 1. -/
def user (l : List (Nat × Nat × Nat)) : State := probe 1 l

/-- The supervisor's turn. -/
def sup (l : List (Nat × Nat × Nat)) : State := probe 0 l

/-- Values of g registers. -/
def gs (l : List (Nat × Nat)) : List (Nat × Nat × Nat) := l.map fun x => (8 * x.1, 8, x.2)

/-- Values of v registers. -/
def vs (l : List (Nat × Nat)) : List (Nat × Nat × Nat) := l.map fun x => (0x100 + 16 * x.1, 16, x.2)

/-- What is seen of the state after an instruction. -/
def after (i : Instr) (s : State) (f : State → Nat) : Option Nat :=
  match exec i s with
  | .next t => some (f t)
  | _ => none

/-- Each instruction gives the number beside it. -/
def yields (s : State) (f : State → Nat) (l : List (Instr × Nat)) : Bool :=
  l.all fun p => after p.1 s f == some p.2

/-! What is seen, of the thread in slot 1. -/

def gOf (r : Reg) (t : State) : Nat := (gReg t 0 1 r).toNat
def vOf (r : Reg) (t : State) : Nat := (vReg t 0 1 r).toNat
def mOf (r : Reg) (t : State) : Nat := (mReg t 0 1 r).toNat
def qOf (r : BitVec 3) (t : State) : Nat := (qReg t 0 1 r).toNat
def pcOf (t : State) : Nat := pcImage t 0 1
def flagsOf (t : State) : Nat := (fflagsOf t 0 1).toNat

/-- The cause of the record that slot sl of core 0 stands trapped by. -/
def causeOf (sl : Nat) (t : State) : Nat :=
  match (t.slot 0 sl).trap with
  | some x => x.record.cause.toNat
  | none => 0

def trapOf (t : State) : Nat := causeOf 1 t

/-- The bytes of WM of core 0 from an offset on. -/
def wmOf (a n : Nat) (t : State) : Nat := ofBytes (readBytes t.mem (localKey 0 .wm a) n)

theorem test_scalar_operations : yields (user (gs [(1, 0xFFFFFFFFFFFFFFFE), (2, 65)])) (gOf 3) [
    (.add 3 1 2, 0x3F), (.sub 3 1 2, 0xFFFFFFFFFFFFFFBD), (.and 3 1 2, 0x40), (.or 3 1 2, 0xFFFFFFFFFFFFFFFF),
    (.xor 3 1 2, 0xFFFFFFFFFFFFFFBF), (.shl 3 1 2, 0xFFFFFFFFFFFFFFFC), (.shr 3 1 2, 0x7FFFFFFFFFFFFFFF),
    (.sra 3 1 2, 0xFFFFFFFFFFFFFFFF), (.mul 3 1 2, 0xFFFFFFFFFFFFFF7E), (.mulh 3 1 2, 0xFFFFFFFFFFFFFFFF),
    (.mulhu 3 1 2, 0x40), (.div 3 1 2, 0), (.rem 3 1 2, 0xFFFFFFFFFFFFFFFE), (.divu 3 1 2, 0x3F03F03F03F03F0),
    (.remu 3 1 2, 0xE), (.min 3 1 2, 0xFFFFFFFFFFFFFFFE), (.max 3 1 2, 0x41), (.minu 3 1 2, 0x41),
    (.maxu 3 1 2, 0xFFFFFFFFFFFFFFFE), (.slt 3 1 2, 1), (.sltu 3 1 2, 0)] = true := by decide +kernel

theorem test_scalar_bits : yields (user (gs [(1, 0xF0000000000001), (3, 0x1111), (4, 5)])) (gOf 3) [
    (.clz 3 1, 8), (.ctz 3 1, 0), (.clz 3 0, 64), (.ctz 3 0, 64), (.popc 3 1, 5),
    (.revB 3 1, 0x10000000000F000), (.revBit 3 1, 0x8000000000000F00), (.ext 3 1 52 3, 15),
    (.ext 3 1 0 63, 0xF0000000000001), (.ins 3 1 8 3, 0x1111), (.sel 3 1 4 4, 0xF0000000000001),
    (.sel 3 1 4 0, 5)] = true := by decide +kernel

theorem test_scalar_immediates : yields (user (gs [(1, 0x8000000000000F0F), (3, 1)])) (gOf 3) [
    (.addi 3 1 0xFFF, 0x8000000000000F0E), (.andi 3 1 0xFF0, 0x8000000000000F00),
    (.ori 3 1 0xFF0, 0x8000000000000FFF), (.xori 3 1 0xFFF, 0x80000000000000F0),
    (.shli 3 1 63, 0x8000000000000000), (.shri 3 1 63, 1), (.srai 3 1 63, 0xFFFFFFFFFFFFFFFF),
    (.slti 3 1 0x800, 1), (.sltiu 3 1 0x800, 1), (.slti 3 0 0xFFF, 0), (.sltiu 3 0 0xFFF, 1),
    (.kon 3 0x1FFFF, 0xFFFFFFFFFFFFFFFF), (.kon 3 0xFFFF, 0xFFFF), (.konh 3 0x1FFFF, 0x3FFFF)] = true := by decide +kernel

theorem test_g0_is_zero : yields (user (gs [(1, 5)])) (gOf 0) [(.add 0 1 1, 0), (.kon 0 7, 0)] = true := by decide +kernel

theorem test_divide_by_zero : yields (user (gs [(1, 7)])) (gOf 3) [(.div 3 1 0, 0xFFFFFFFFFFFFFFFF), (.divu 3 1 0, 0xFFFFFFFFFFFFFFFF),
    (.rem 3 1 0, 7), (.remu 3 1 0, 7)] = true := by decide +kernel

theorem test_divide_raises_dz : yields (user (gs [(1, 7)])) flagsOf [(.div 3 1 0, 8), (.remu 3 1 0, 8), (.div 3 1 1, 0)] = true := by decide +kernel

theorem test_divide_overflow : yields (user (gs [(1, 0x8000000000000000), (2, 0xFFFFFFFFFFFFFFFF)])) (gOf 3) [(.div 3 1 2, 0x8000000000000000),
    (.rem 3 1 2, 0), (.divu 3 1 2, 0)] = true := by decide +kernel

theorem test_divide_trap : yields (user ((0x2F0, 2, 0x2000) :: gs [(1, 7)])) trapOf [(.div 3 1 0, 0x20), (.divu 3 1 0, 0x20), (.rem 3 1 0, 0x20),
    (.remu 3 1 0, 0x20)] = true := by decide +kernel

theorem test_jumps : yields (user ((0x2E0, 8, 0x1000) :: gs [(1, 0x2003)])) pcOf [(.nop, 0x1004), (.j 0x3FFFFF, 0xFFC), (.jal 2, 0x1008),
    (.jr 1 1, 0x2004), (.jalr 4 1 0xFFF, 0x1FFC)] = true := by decide +kernel

theorem test_links : yields (user ((0x2E0, 8, 0x1000) :: gs [(1, 0x2003)])) (gOf 31) [(.jal 2, 0x1004), (.jalr 31 1 0, 0x1004)] = true := by decide +kernel

theorem test_jump_out_of_range : yields (user (gs [(1, 0x200000000000000)])) trapOf [(.jr 1 0, 0x42), (.jalr 3 1 0, 0x42), (.j 0x3FFFFF, 0x42)] = true := by decide +kernel

theorem test_branches : yields (user ((0x2E0, 8, 0x4000) :: gs [(1, 0xFFFFFFFFFFFFFFFF), (2, 1)])) pcOf [(.bEq 1 2 0x800, 0x4004),
    (.bNe 1 2 0x800, 0x2000), (.bLt 1 2 4, 0x4010), (.bGe 1 2 4, 0x4004), (.bLtu 1 2 4, 0x4004), (.bGeu 1 2 4, 0x4010),
    (.bEq 1 1 1, 0x4004), (.bGe 2 2 0x7FF, 0x5FFC)] = true := by decide +kernel

/-! Control. -/

/-- A thread at the last word of a loop body of two words that starts at 0x1000, with so many iterations left. -/
def looping (count : Nat) : State := user [(0x2E0, 8, 0x1004), (0x290, 8, 2 ^ 63 + 2 * 2 ^ 48 + count), (0x298, 8, 0x1000)]

theorem test_loop_repeats : yields (looping 2) pcOf [(.nop, 0x1000)] = true ∧
    yields (looping 2) (fun t => (loopState t 0 1 0).count) [(.nop, 1)] = true := by decide +kernel

theorem test_loop_ends : yields (looping 1) pcOf [(.nop, 0x1008)] = true ∧
    yields (looping 1) (fun t => natOf (loopState t 0 1 0).active) [(.nop, 0)] = true := by decide +kernel

theorem test_loop_break : yields (looping 2) pcOf [(.lbrk 0, 0x1008)] = true ∧
    yields (looping 2) (fun t => natOf (loopState t 0 1 0).active) [(.lbrk 0, 0), (.lbrkStay 0, 0)] = true ∧
    yields (looping 2) trapOf [(.lbrk 1, 7), (.lbrkStay 2, 7)] = true := by decide +kernel

/-- The supervisor with a word in its bundle at 0x10000 and some fields of its workspace set. -/
def fetching (w : Nat) (l : List (Nat × Nat × Nat)) : State := (sup l).withFetchWord 32 w

/-- What is seen of the state after one step. -/
def stepped (s : State) (f : State → Nat) : Option Nat :=
  match step s with
  | .next t => some (f t)
  | _ => none

/-! `loop 0, g1` over the one word after it: the level starts, or is passed over at a count of zero. -/

theorem test_loop_starts : stepped (fetching 0x82C08001 (gs [(1, 3)])) (fun t =>
    (loopState t 0 0 0).count + (loopState t 0 0 0).start + natOf (loopState t 0 0 0).active * 2 ^ 60) =
    some (2 ^ 60 + 0x10004 + 3) := by decide +kernel

theorem test_loop_of_no_iterations : stepped (fetching 0x82C08001 []) (fun t => pcImage t 0 0) = some 0x10008 := by
  decide +kernel

/-! A pair: `kon g3, 2` beside the `nop` that `withFetchWord` puts before it; a second word of a pair. -/

theorem test_pair : stepped (fetching 0x49060002 []) (fun t => (gReg t 0 0 3).toNat + pcImage t 0 0) =
    some (2 + 0x10008) := by decide +kernel

theorem test_step_reserved_word : stepped (fetching 0xDC400000 []) (causeOf 0) = some 1 := by decide +kernel

/-! Threads. -/

def opsOf (t : State) : Nat := (t.slot 0 1).async.length
def parkedOf (t : State) : Nat := natOf (t.slot 0 1).park.isSome
def runsOf (t : State) : Nat := natOf (t.slot 0 1).wspV
def bufferOf (t : State) : Nat := (t.slot 0 1).sb.length

theorem test_fork : yields (user (gs [(1, 4), (2, 8)])) opsOf [(.fork 0 3 0x10, 1), (.fork 2 3 0x10, 1)] = true ∧
    yields (user (gs [(1, 4)])) trapOf [(.fork 1 3 0x10, 0x40)] = true := by decide +kernel

theorem test_join : yields (user (gs [(1, 0x100)])) parkedOf [(.join 3 1 0xFFF, 1)] = true ∧
    yields (user (gs [(1, 0x101)])) trapOf [(.join 3 1 0, 0x40)] = true := by decide +kernel

theorem test_susp : yields (user (gs [(1, 0x100)])) parkedOf [(.susp 1 1, 1)] = true ∧
    yields (user (gs [(1, 0x108)])) trapOf [(.susp 1 1, 0x40)] = true := by decide +kernel

theorem test_yield_of_no_record : yields (user [(0x2E0, 8, 0x40)]) pcOf [(.yield, 0x44)] = true := by decide +kernel

theorem test_halt : yields (user []) runsOf [(.halt, 0)] = true ∧
    yields (user []) (fun t => natOf ((t.core 0).pool.contains 1)) [(.halt, 1)] = true := by decide +kernel

theorem test_halt_of_supervisor : yields (sup []) (fun t => natOf (t.slot 0 0).park.isSome) [(.halt, 1)] = true := by
  decide +kernel

theorem test_trap : yields (user ((0x2E0, 8, 0x40) :: gs [(1, 9)])) trapOf [(.trap 1 5, 0xE5)] = true ∧
    yields (user ((0x2E0, 8, 0x40) :: gs [(1, 9)])) pcOf [(.trap 1 5, 0x44)] = true := by decide +kernel

theorem test_rte_of_no_record : yields (sup [(0x2E0, 8, 0x40)]) (fun t => pcImage t 0 0) [(.rte, 0x44)] = true := by decide +kernel

/-! A trap of the supervisor itself is queued at once; `rte` removes it. -/

theorem test_trap_of_supervisor : yields (sup []) (fun t => (t.core 0).trapq.length) [(.trap 1 5, 1)] = true := by decide +kernel

/-- The supervisor's turn with one record in its queue. -/
def queued : State :=
  (sup []).setCore 0 { (sup []).core 0 with trapq := [{ trapRecord (sup []) 1 0x42 7 0 0x40 false false with launch := none }] }

theorem test_rte : yields queued (fun t => (t.core 0).trapq.length) [(.rte, 0)] = true := by decide +kernel

/-! Privileged instructions trap in a user slot. -/

theorem test_privilege : yields (user []) trapOf [(.rte, 6), (.wrd 1 2 3, 6), (.wwr 1 2 3, 6), (.walloc 1, 6),
    (.wallocRel 1, 6), (.slotctlKill 1 2, 6), (.slotctlStat 1 2, 6), (.slotctlStop 1 2, 6), (.slotctlGo 1 2, 6),
    (.wspx 1 2 3, 6)] = true := by decide +kernel

/-! Control registers. -/

theorem test_crd : yields (user [(0x2E8, 8, 0x1234567800090000), (0x2F4, 4, 77)]) (gOf 3) [(.crd 3 0, 0x801), (.crd 3 1, 1),
    (.crd 3 3, 0x12345678), (.crd 3 4, 9), (.crd 3 0x30, 77), (.crd 3 0x40, 0)] = true := by decide +kernel

theorem test_cwr : yields (user (gs [(1, 0x7FFFFFFFF)])) (fun t => rmMode t 0 1) [(.cwr 1 0x20, 7)] = true ∧
    yields (user (gs [(1, 0x7FFFFFFFF)])) (fun t => (t.slot 0 1).sca.toNat) [(.cwr 1 0x18, 0x7FFFFFFFF)] = true := by decide +kernel

theorem test_crx : yields (user ((0x2F0, 2, 0x2003) :: gs [(1, 0x1F)])) (gOf 3) [(.crx 3 1 0x21, 0x2003)] = true ∧
    yields (user ((0x2F0, 2, 0x2003) :: gs [(1, 0x1F)])) flagsOf [(.crx 3 1 0x21, 0x1F)] = true := by decide +kernel

/-! Workspaces, the pool and slots. -/

def gSup (r : Reg) (t : State) : Nat := (gReg t 0 0 r).toNat

theorem test_wrd : yields (sup (gs [(2, 16), (4, 20), (5, 0x800)])) (gSup 3) [(.wrd 3 0 2, 16)] = true ∧
    yields (sup (gs [(2, 16), (4, 20), (5, 0x800)])) (causeOf 0) [(.wrd 3 0 4, 0x40), (.wrd 3 0 5, 0x41)] = true := by
  decide +kernel

theorem test_wwr : yields (sup (gs [(2, 56), (3, 9)])) (gSup 7) [(.wwr 3 0 2, 9)] = true ∧
    yields (sup (gs [(2, 0x480), (3, 9)])) (wmOf 0x480 8) [(.wwr 3 0 2, 0)] = true := by decide +kernel

/-- The supervisor's turn with blocks 5 and 6 in the pool. -/
def pooled (l : List (Nat × Nat × Nat)) : State := (sup l).setCore 0 { (sup l).core 0 with pool := [5, 6] }

theorem test_walloc : yields (pooled []) (gSup 3) [(.walloc 3, 0x2801)] = true ∧ yields (sup []) (gSup 3) [(.walloc 3, 0)] = true := by
  decide +kernel

theorem test_walloc_rel : yields (pooled (gs [(1, 0x1000)])) (fun t => (t.core 0).pool.length) [(.wallocRel 1, 3)] = true ∧
    yields (pooled []) (causeOf 0) [(.wallocRel 0, 0x41)] = true := by decide +kernel

/-- The supervisor's turn beside a thread in slot 1. -/
def beside (l : List (Nat × Nat × Nat)) : State := (sup l).setSlot 0 1 { Slot.reset with wspV := true, block := 1 }

theorem test_slotctl_stop : yields (beside (gs [(1, 1)])) (fun t => natOf (t.slot 0 1).hold) [(.slotctlStop 3 1, 1),
    (.slotctlGo 3 1, 0)] = true := by decide +kernel

theorem test_slotctl_kill : yields (beside (gs [(1, 1)])) runsOf [(.slotctlKill 3 1, 0)] = true ∧
    yields (beside (gs [(1, 1)])) (gSup 3) [(.slotctlKill 3 1, 1), (.slotctlKill 3 0, 0)] = true := by decide +kernel

theorem test_wspx : yields (beside (gs [(1, 1), (2, 0x1801)])) (gSup 3) [(.wspx 3 1 2, 0x801)] = true ∧
    yields (beside (gs [(1, 1), (2, 0x1801)])) (fun t => (t.slot 0 1).block) [(.wspx 3 1 2, 3)] = true := by decide +kernel

theorem test_tsc : yields ({ user [] with time := 1234 } : State) (gOf 3) [(.tsc 3 0, 1234), (.tsc 3 1, 1)] = true := by decide +kernel

/-- A quad that holds its licence. -/
def licensed (s : State) : State := s.setQuad 0 { Quad.reset with held := true }

theorem test_mlic : yields (licensed (user [])) (fun t => (t.quad 0).hold.toNat) [(.mlicAcq 3, 1), (.mlicRel 3, 0), (.mlicQ 3, 0)] = true ∧
    yields (user []) (fun t => natOf (t.slot 0 1).asleep.isSome) [(.mlicAcq 3, 1)] = true := by decide +kernel

/-! ### Memory -/

/-- A thread whose g2, at WM address 0x810, holds a value to load. -/
def loading : State := user (gs [(1, 0x810), (2, 0x8899AABBCCDDEEFF), (4, 0x811), (5, 0x80000)])

theorem test_scalar_loads : yields loading (gOf 3) [(.ldB 3 1 1 0, 0xFFFFFFFFFFFFFFFF), (.ldBu 3 1 1 1, 0xEE),
    (.ldH 3 1 1 3, 0xFFFFFFFFFFFF8899), (.ldHu 3 1 1 0, 0xEEFF), (.ldW 3 1 1 0, 0xFFFFFFFFCCDDEEFF), (.ldWu 3 1 1 1, 0x8899AABB),
    (.ldD 3 1 1 0, 0x8899AABBCCDDEEFF), (.ldD 3 1 1 0x1FF, 0x810)] = true := by decide +kernel

theorem test_loads_from_gl : yields loading opsOf [(.ldB 3 1 0 0, 1), (.ldBu 3 4 0 0, 1), (.ldH 3 1 0 0, 1), (.ldHu 3 1 0 0, 1),
    (.ldW 3 1 0 0, 1), (.ldWu 3 1 0 0, 1), (.ldD 3 1 0 0, 1), (.vld 3 1 0 0, 1)] = true := by decide +kernel

theorem test_address_checks : yields loading trapOf [(.ldH 3 4 1 0, 0x40), (.ldD 3 5 1 0, 0x41), (.stW 3 4 1 0, 0x40),
    (.vld 3 4 1 0, 0x40), (.vst 3 5 2 0, 0x41), (.ldfe 3 4 1 0, 0x40), (.amo 3 4 2 1 1 0, 0x40), (.cas 3 5 2 2 1 1, 0x41)] = true := by
  decide +kernel

theorem test_stores_to_ab : yields (user (gs [(1, 0x20), (2, 0x8899AABBCCDDEEFF)])) (fun t =>
    ofBytes (readBytes t.mem (localKey 0 .ab 0x20) 8)) [(.stB 2 1 3 0, 0xFF), (.stH 2 1 3 1, 0xEEFF0000), (.stW 2 1 3 0, 0xCCDDEEFF),
    (.stD 2 1 3 0, 0x8899AABBCCDDEEFF)] = true := by decide +kernel

theorem test_stores_to_wm : yields loading bufferOf [(.stB 2 1 1 0, 1), (.stH 2 1 1 0, 1), (.stW 2 1 1 0, 1), (.stD 2 1 1 0, 1),
    (.vst 2 1 1 0, 1), (.stD 2 1 0 0, 1)] = true := by decide +kernel

theorem test_vector_loads : yields loading (vOf 3) [(.vld 3 1 1 0, 0x8899AABBCCDDEEFF)] = true ∧
    yields (user ((0x282, 2, 0x81) :: gs [(1, 0x810), (2, 0x8899AABBCCDDEEFF)])) (vOf 3)
      [(.vldm 3 1 1 1 0, 0x88000000000000FF)] = true := by decide +kernel

theorem test_gather : yields (user (gs [(1, 0x810), (2, 0x8899AABBCCDDEEFF)] ++ vs [(5, 0xFFFFFFFFFFFFFFFF0000000000000004)])) (vOf 3)
    [(.vgat 3 1 5 2 1, 0xCCDDEEFF8899AABB)] = true := by decide +kernel

theorem test_vector_stores : yields (user ((0x282, 2, 0x3) :: gs [(1, 0x20)] ++ vs [(2, 0x11223344), (5, 0xFFFFFFFFFFFFFFFFFFFFFFFF00000010)]))
    (fun t => ofBytes (readBytes t.mem (localKey 0 .wb 0x20) 20))
    [(.vst 2 1 2 0, 0x11223344), (.vstm 2 1 2 1 0, 0x3344), (.vsca 2 1 5 2 2, 0x11223344 * 2 ^ 128)] = true := by decide +kernel

theorem test_vector_load_into_stream : yields loading trapOf [(.vld 24 1 1 0, 0x63), (.vldm 27 1 1 0 0, 0x63), (.vgat 25 1 2 0 1, 0x63)] = true := by
  decide +kernel

theorem test_pref : yields loading pcOf [(.pref 1 0 0, 4)] = true := by decide +kernel

theorem test_full_empty : yields loading opsOf [(.ldfe 3 1 1 0, 1), (.ldfx 3 1 0 0, 1), (.fepoll 3 1 1 0, 1)] = true ∧
    yields loading bufferOf [(.stfe 3 1 1 0, 1), (.stff 3 1 0 0, 1), (.fesetE 1 1 0, 1), (.fesetF 1 0 0, 1)] = true := by decide +kernel

theorem test_atomics : yields loading opsOf [(.amo 3 1 2 1 1 0, 1), (.cas 3 1 2 2 1 1, 1)] = true := by decide +kernel

theorem test_fences : yields (user []) bufferOf [(.fenceAcq 0 4 0, 0), (.fenceRel 0 4 0, 1), (.fenceAr 0 4 0, 1), (.fenceSc 0 4 0, 0)] = true ∧
    yields (user []) parkedOf [(.fenceAcq 0 4 0, 0), (.fenceRel 0 4 0, 0), (.fenceAr 0 4 0, 0), (.fenceSc 0 4 0, 1)] = true := by
  decide +kernel

theorem test_barriers : yields (user (gs [(1, 2)])) parkedOf [(.bar 3 0 1 2 0 0, 1), (.barnb 3 0 1 2 0 0, 0)] = true ∧
    yields (user (gs [(1, 2)])) opsOf [(.barnb 3 0 1 2 0 0, 1), (.barnb 3 0 1 1 0 0, 1)] = true ∧
    yields (user []) trapOf [(.bar 3 0 1 2 0 0, 0x62), (.barnb 3 0 1 2 0 0, 0x62)] = true := by decide +kernel

theorem test_send : yields (user (gs [(1, 5), (2, 0x1000)])) (fun t => (t.slot 0 1).outq.length) [(.send 1 2 3, 1)] = true ∧
    yields (user (gs [(1, 5), (2, 0x1000)])) trapOf [(.send 2 2 3, 0x61)] = true := by decide +kernel

/-- A thread whose core has received a message of 9 for port 3. -/
def received : State := (user []).setCore 0 { (user []).core 0 with rx := [⟨0, 3, 9, none⟩] }

theorem test_recv : yields received (fun t => (t.core 0).rx.length) [(.recv 3 3, 0), (.recv 3 4, 1)] = true ∧
    yields received (gOf 3) [(.rprobe 3 3, 1), (.rprobe 3 4, 0)] = true := by decide +kernel

/-- A thread whose core's twin window holds 7 in its full entry 2, and whose twin core runs in the same context. -/
def twinned : State :=
  ((user (vs [(3, 5)])).setCore 0 { (user []).core 0 with twin := [(2, 7)], twinFull := 4 }).setCore (twinOf 0)
    { CoreSt.reset with ctx := some 0, twinFull := 1 }

theorem test_twget : yields twinned (vOf 4) [(.twget 4 0 2, 7), (.twget 4 1 2, 7), (.twget 4 0 3, 0)] = true ∧
    yields twinned (fun t => (t.core 0).twinFull.toNat) [(.twget 4 0 2, 4), (.twget 4 1 2, 0)] = true := by decide +kernel

theorem test_twput : yields twinned (fun t => (mapGet 0 (t.core (twinOf 0)).twin 1).toNat) [(.twput 3 0 1, 5), (.twput 3 1 1, 5)] = true ∧
    yields twinned (fun t => (t.core (twinOf 0)).twinFull.toNat) [(.twput 3 1 1, 3), (.twput 3 1 0, 1)] = true := by decide +kernel

theorem test_twtest : yields twinned (gOf 3) [(.twtest 3 0, 4), (.twtest 3 1, 1)] = true := by decide +kernel

theorem test_xwait : yields (user (gs [(1, 0x800)])) parkedOf [(.xwait 3 1, 1), (.xwaitPoll 3 1, 0)] = true ∧
    yields (user (gs [(1, 0x804)])) trapOf [(.xwait 3 1, 0x40), (.xwaitPoll 3 1, 0x40)] = true := by decide +kernel

/-! ### Vectors, masks and bit streams -/

theorem test_vector_integers : yields (user (vs [(1, 0x8000000000000005FFFFFFFF7FFFFFFF), (2, 0x80000000000000030000000200000001), (3, 0x280000001E000000140000000A)])) (vOf 3) [
    (.vadd 3 1 2 1 0 2, 0x8000000000000008000000017FFFFFFF), (.vsub 3 1 2 0 0 2, 0x2FFFFFFFD7FFFFFFE),
    (.vmul 3 1 2 0 0 2, 0xFFFFFFFFE7FFFFFFF), (.vmulh 3 1 2 0 0 2, 0x4000000000000000FFFFFFFF00000000),
    (.vfma 3 1 2 0 0 2, 0x280000002D0000001280000009), (.vfms 3 1 2 0 0 2, 0xFFFFFFD8FFFFFFF1FFFFFFEA7FFFFFF5),
    (.vfnma 3 1 2 0 0 2, 0x280000000F000000168000000B), (.vmin 3 1 2 0 0 2, 0x8000000000000003FFFFFFFF00000001),
    (.vmax 3 1 2 0 1 2, 0x8000000000000005FFFFFFFF7FFFFFFF),
    (.vabs 3 1 1 0 2, 0x7FFFFFFF00000005000000017FFFFFFF),
    (.vneg 3 1 0 0 2, 0x80000000FFFFFFFB0000000180000001),
    (.vshl 3 1 2 0 0 2, 0x8000000000000028FFFFFFFCFFFFFFFE),
    (.vshr 3 1 2 0 0 2, 0x80000000000000003FFFFFFF3FFFFFFF),
    (.vsra 3 1 2 0 0 2, 0x8000000000000000FFFFFFFF3FFFFFFF)] = true := by decide +kernel

theorem test_vector_floats : yields (user (vs [(1, 0x3F8000007F800000C00000003FC00000), (2, 0x3F800000404000003F000000), (3, 0x3F8000003F8000003F8000003F800000)])) (vOf 3) [
    (.vadd 3 1 2 0 0 6, 0x3F8000007F8000003F80000040000000),
    (.vsub 3 1 2 0 0 6, 0x3F8000007F800000C0A000003F800000), (.vmul 3 1 2 0 0 6, 0x7F800000C0C000003F400000),
    (.vfma 3 1 2 0 0 6, 0x3F8000007F800000C0A000003FE00000),
    (.vfms 3 1 2 0 0 6, 0xBF8000007F800000C0E00000BE800000),
    (.vfnma 3 1 2 0 0 6, 0x3F800000FF80000040E000003E800000),
    (.vdiv 3 1 2 0 0 6, 0x7F8000007F800000BF2AAAAB40400000), (.vmin 3 1 2 0 0 6, 0x3F800000C00000003F000000),
    (.vmax 3 1 2 0 0 6, 0x3F8000007F800000404000003FC00000),
    (.vabs 3 1 0 0 6, 0x3F8000007F800000400000003FC00000), (.vneg 3 1 0 0 6, 0xBF800000FF80000040000000BFC00000)] = true := by decide +kernel

theorem test_vector_float_flags : yields (user (vs [(1, 0x3F8000007F800000C00000003FC00000), (2, 0x3F800000404000003F000000), (3, 0x3F8000003F8000003F8000003F800000)])) flagsOf [(.vdiv 3 1 2 0 0 6, 0x9), (.vadd 3 1 2 0 0 6, 0)] = true ∧
    yields (user ((0x2F0, 2, 0x200) :: vs [(1, 0x3F8000007F800000C00000003FC00000), (2, 0x3F800000404000003F000000)])) trapOf [(.vdiv 3 1 2 0 0 6, 0x22)] = true := by decide +kernel

theorem test_min_max_number : yields (user (vs [(1, 0x40000000800000003F8000007FC00000), (2, 0x40400000000000007FC000003F800000), (3, 0)])) (vOf 3) [(.vminn 3 1 2 0 0 6, 0x40000000800000003F8000003F800000), (.vmaxn 3 1 2 0 0 6, 0x40400000000000003F8000003F800000), (.vmin 3 1 2 0 0 6, 0x40000000800000007FC000007FC00000)] = true := by decide +kernel

theorem test_vector_functions : yields (user (vs [(1, 0x3F8000003E8000004000000040800000)])) (vOf 3) [
    (.vsqrt 3 1 0 0 6, 0x3F8000003F0000003FB504F340000000),
    (.vrcp 3 1 0 0 6, 0x3F800000408000003F0000003E800000),
    (.vrsq 3 1 0 0 6, 0x3F800000400000003F3504F33F000000), (.vlog2 3 1 0 0 6, 0xC00000003F80000040000000),
    (.vexp2 3 1 0 0 6, 0x400000003F9837F04080000041800000)] = true ∧
    yields (user []) (vOf 3) [(.vsin 3 1 0 0 6, 0), (.vcos 3 1 0 0 6, 0x3F8000003F8000003F8000003F800000)] = true := by decide +kernel

theorem test_vector_moves : yields (user ((0x282, 2, 0xFF) :: gs [(1, 0x1FF), (2, 5)] ++ vs [(1, 0x112233445566778899AABBCCDDEEFF), (2, 0xF0F0F0F0F0F0F0F0F0F0F0F0F0F0F0F0)])) (vOf 3) [
    (.vand 3 1 2, 0x102030405060708090A0B0C0D0E0F0), (.vor 3 1 2, 0xF0F1F2F3F4F5F6F7F8F9FAFBFCFDFEFF),
    (.vxor 3 1 2, 0xF0E1D2C3B4A5968778695A4B3C2D1E0F), (.vnot 3 1, 0xFFEEDDCCBBAA99887766554433221100),
    (.vmov 3 1, 0x112233445566778899AABBCCDDEEFF), (.vsel 3 1 2 1, 0xF0F0F0F0F0F0F0F08899AABBCCDDEEFF),
    (.vsplat 3 1 0 1, 0x1FF01FF01FF01FF01FF01FF01FF01FF), (.vins 3 1 2 0 1, 0x1FF00000000000000000000),
    (.vzip 3 1 2 1 0 1, 0xF0F00011F0F02233F0F04455F0F06677),
    (.vunzip 3 1 2 1 0 1, 0xF0F0F0F0F0F0F0F0001144558899CCDD)] = true := by decide +kernel

theorem test_vext : yields (user ((0x282, 2, 0xFF) :: gs [(1, 0x1FF), (2, 5)] ++ vs [(1, 0x112233445566778899AABBCCDDEEFF), (2, 0xF0F0F0F0F0F0F0F0F0F0F0F0F0F0F0F0)])) (gOf 3) [(.vext 3 1 2 0 1, 0x4455), (.vext 3 1 0 0 0, 0xFFFFFFFFFFFFFFFF), (.vext 3 1 0 1 0, 0xFF)] = true := by decide +kernel

theorem test_vshuf : yields (user (vs [(1, 0x112233445566778899AABBCCDDEEFF), (2, 0x1101800E0F)])) (vOf 3) [(.vshuf 3 1 2, 0xFFFFFFFFFFFFFFFFFFFFFFEEEE001100)] = true := by decide +kernel

theorem test_vcmp_integers : yields (user (vs [(1, 0x8000000000000005FFFFFFFF7FFFFFFF), (2, 0x80000000000000030000000200000001)])) (mOf 4) [(.vcmp 4 1 2 0 0 2, 0xF000), (.vcmp 4 1 2 1 0 2, 0x0FFF), (.vcmp 4 1 2 2 0 2, 0x00F0),
    (.vcmp 4 1 2 2 1 2, 0), (.vcmp 4 1 2 5 0 2, 0xFF0F)] = true := by decide +kernel

theorem test_vcmp_floats : yields (user (vs [(1, 0x40000000800000003F8000007FC00000), (2, 0x4040000000000000400000003F800000)])) (mOf 4) [(.vcmp 4 1 2 0 0 6, 0x0F00), (.vcmp 4 1 2 1 0 6, 0xF0FF), (.vcmp 4 1 2 2 0 6, 0xF0F0),
    (.vcmp 4 1 2 6 0 6, 0x000F)] = true ∧
    yields (user (vs [(1, 0x40000000800000003F8000007FC00000), (2, 0x4040000000000000400000003F800000)])) flagsOf [(.vcmp 4 1 2 0 0 6, 0), (.vcmp 4 1 2 2 0 6, 0x10)] = true := by decide +kernel

theorem test_vclass : yields (user (vs [(1, 0x7F80000080000000BF8000007FC00000)])) (vOf 3) [(.vclass 3 1 6, 0x80000000080000000200000200)] = true := by decide +kernel

theorem test_vred_floats : yields (user (vs [(1, 0x4B8000003F8000003F800000), (2, 0x3F8000003F8000004B800000)])) (gOf 3) [(.vred 3 1 0 0 0 6, 0x4B800001), (.vred 3 2 0 0 0 6, 0x4B800000)] = true ∧
    yields (user (vs [(1, 0x4B8000003F8000003F800000), (2, 0x3F8000003F8000004B800000)])) flagsOf [(.vred 3 1 0 0 0 6, 0), (.vred 3 2 0 0 0 6, 1)] = true := by decide +kernel

theorem test_vred_integers : yields (user (vs [(1, 0x8000000000000005FFFFFFFF7FFFFFFF)])) (gOf 3) [
    (.vred 3 1 0 0 0 2, 3), (.vred 3 1 1 0 0 2, 0xFFFFFFFF80000000), (.vred 3 1 2 0 1 2, 0xFFFFFFFF),
    (.vred 3 1 3 0 0 2, 0), (.vred 3 1 4 0 0 2, 0xFFFFFFFFFFFFFFFF)] = true := by decide +kernel

theorem test_vdot : yields (user (vs [(1, 0xFCFDFEFF04030201), (2, 0x202020201010101), (3, 5)])) (vOf 3) [(.vdot 3 1 2 0 0 0, 0xFFFFFFEC0000000F)] = true := by decide +kernel

theorem test_vsad : yields (user (vs [(1, 0xFCFDFEFF04030201), (2, 0x202020201010101), (3, 5)])) (vOf 3) [(.vsad 3 1 2 0 0 0, 0x120000000B)] = true := by decide +kernel

theorem test_vcvt : yields (user (vs [(5, 0x7FC000003EFAE14843960000C0600000)])) (vOf 4) [(.vcvt 4 5 6 0 0, 0x7FFC)] = true ∧
    yields (user (vs [(5, 0x7FC000003EFAE14843960000C0600000)])) flagsOf [(.vcvt 4 5 6 0 0, 0x11)] = true := by decide +kernel

theorem test_vunpack : yields (user (vs [(7, 0xFFEEDDCCBBAA99887766554433221100)])) (vOf 6) [(.vunpack 6 7 1 1, 0xF0E0D0C0B0A09080706050403020100)] = true := by decide +kernel

theorem test_vpack : yields (user (vs [(7, 0x2B1A), (6, 0x3)])) (vOf 6) [(.vpack 6 7 1 0 1, 0xB0A3)] = true := by decide +kernel

theorem test_mask_logic : yields (user ((0x282, 2, 0xF0F0) :: (0x284, 2, 0xFF00) :: gs [(1, 0x10001), (2, 2)])) (mOf 3) [(.mand 3 1 2, 0xF000), (.mandNot 3 1 2, 0x00F0), (.mor 3 1 2, 0xFFF0), (.morG 3 1 2, 3),
    (.mxor 3 1 2, 0x0FF0), (.mnot 3 1, 0x0F0F)] = true := by decide +kernel

theorem test_mask_counts : yields (user ((0x282, 2, 0xF0F0) :: (0x284, 2, 0xFF00) :: gs [(1, 0x10001), (2, 2)])) (gOf 3) [(.mcnt 3 1, 8), (.mcntRaw 3 1, 0xF0F0), (.mfirst 3 1, 4), (.mfirst 3 5, 16)] = true := by decide +kernel

theorem test_bit_reads : yields (user ((0x2C0, 8, 0xABCD) :: (0x2D0, 8, 0x102) :: (0x2D8, 8, 16 * 2 ^ 54 + 16 * 2 ^ 21) :: gs [(1, 4), (2, 0x100), (4, 65)])) (gOf 3) [(.bget 3 8, 0xCD), (.bgetv 3 1, 0xD), (.bpeek 3 12, 0xBCD), (.bget 3 20, 0xABCD), (.bpos 3, 0),
    (.bposLeft 3, 16), (.bposState 3, 16 * 2 ^ 54 + 16 * 2 ^ 21)] = true := by decide +kernel

theorem test_bit_positions : yields (user ((0x2C0, 8, 0xABCD) :: (0x2D0, 8, 0x102) :: (0x2D8, 8, 16 * 2 ^ 54 + 16 * 2 ^ 21) :: gs [(1, 4), (2, 0x100), (4, 65)])) (fun t => (bitBuf t 0 1).pos) [(.bget 3 8, 8), (.bpeek 3 8, 0), (.bskip 1 2, 6), (.bget 3 20, 16)] = true ∧
    yields (user ((0x2C0, 8, 0xABCD) :: (0x2D0, 8, 0x102) :: (0x2D8, 8, 16 * 2 ^ 54 + 16 * 2 ^ 21) :: gs [(1, 4), (2, 0x100), (4, 65)])) (fun t => natOf (bitBuf t 0 1).ovr) [(.bget 3 16, 0), (.bget 3 17, 1), (.bskip 1 12, 0), (.bskip 1 13, 1)] = true ∧
    yields (user ((0x2C0, 8, 0xABCD) :: (0x2D0, 8, 0x102) :: (0x2D8, 8, 16 * 2 ^ 54 + 16 * 2 ^ 21) :: gs [(1, 4), (2, 0x100), (4, 65)])) trapOf [(.bgetv 3 4, 2)] = true := by decide +kernel

theorem test_bbind : yields (user ((0x2C0, 8, 0xABCD) :: (0x2D0, 8, 0x102) :: (0x2D8, 8, 16 * 2 ^ 54 + 16 * 2 ^ 21) :: gs [(1, 4), (2, 0x100), (4, 65)])) (fun t => (bitBuf t 0 1).len + (bitBuf t 0 1).next) [(.bbind 2 1, 0x104)] = true := by decide +kernel

theorem test_ansd : yields (user ([(0x3800, 8, 0x22), (0x3808, 4, 3), (0x380C, 4, 0x30001)] ++ gs [(1, 0x100003), (2, 0x4000), (4, 0x100001)])) (gOf 3) [(.ansd 3 1 2, 2 ^ 32 + 0x40000), (.ansd 3 4 2, 0xC0001)] = true ∧
    yields (user ([(0x3800, 8, 0x22), (0x3808, 4, 3), (0x380C, 4, 0x30001)] ++ gs [(1, 0x100003), (2, 0x4000), (4, 0x100001)])) trapOf [(.ansd 3 1 1, 0x40)] = true := by decide +kernel

/-! ### Records, ports, engines, layers -/

/-- The dwords of a record at offset o of the workspace: space, base, element format, extents, stride, window. -/
def tensor (o space base fmt rank : Nat) (dims wins : Nat × Nat) (stride : Nat) : List (Nat × Nat × Nat) :=
  [(o, 8, space * 2 ^ 57 + base), (o + 8, 8, fmt + (rank - 1) * 2 ^ 8), (o + 16, 8, dims.1 + dims.2 * 2 ^ 24),
    (o + 40, 8, stride), (o + 72, 8, wins.1 + wins.2 * 2 ^ 16)]

/-! Records at WM 0x4000 (four bytes at 0x100 in WM), 0x4100 (2 by 2 words in WM), 0x4200 (64 bytes in AB), and one
with a space that does not exist at 0x4300. -/

def records : List (Nat × Nat × Nat) :=
  tensor 0x3800 1 0x100 2 1 (4, 0) (4, 0) 0 ++ tensor 0x3900 1 0x200 5 2 (2, 2) (2, 2) 8 ++
    tensor 0x3A00 3 0 0x10 2 (64, 64) (64, 64) 128 ++ tensor 0x3B00 7 0 2 1 (4, 0) (4, 0) 0

/-- A thread with g1 to g4 at the records. -/
def recorded (l : List (Nat × Nat × Nat)) : State :=
  user (records ++ gs [(1, 0x4000), (2, 0x4100), (3, 0x4200), (4, 0x4300)] ++ l)

theorem test_tlrchk : yields (recorded []) (gOf 9) [(.tlrchk 1 9, 0), (.tlrchk 2 9, 0), (.tlrchk 3 9, 0),
    (.tlrchk 4 9, 2 ^ 63 + 57 * 2 ^ 16 + 0x80 * 2 ^ 8)] = true := by decide +kernel

theorem test_sbind : yields (recorded []) (fun t => (t.slot 0 1).streams.length) [(.sbind 25 1, 1), (.sclose 25, 0)] = true ∧
    yields (recorded []) trapOf [(.sbind 25 4, 0x80), (.sbind 25 0, 0x80)] = true := by decide +kernel

theorem test_read_of_closed_stream : yields (user []) trapOf [(.vmov 3 24, 0x67)] = true := by decide +kernel

/-- The commands at a port of slot 1 of core 0. -/
def commandsAt (e : Nat) (t : State) : Nat := ((t.slot 0 1).port e).cmds.length

theorem test_xcopy : yields (recorded []) (commandsAt 0) [(.xcopy 1 1 0 0 0, 1), (.xcopyFill 0 2 0 0 0, 1)] = true ∧
    yields (recorded []) trapOf [(.xcopy 1 2 0 0 0, 0x85), (.xcopyFill 1 2 0 0 0, 0x85), (.xcopy 4 1 0 0 0, 0x80)] = true := by
  decide +kernel

theorem test_xgat : yields (recorded []) (commandsAt 1) [(.xgat 2 2 0, 1), (.xgatSca 2 2 0, 1), (.xgatScadd 2 2 0, 1)] = true ∧
    yields (recorded []) trapOf [(.xgat 1 2 0, 0x85)] = true := by decide +kernel

theorem test_xform : yields (recorded (gs [(8, 8 * 2 ^ 24)])) (commandsAt 2) [(.xform 2 2 8, 1), (.xformRans 1 1 0, 1)] = true ∧
    yields (recorded []) trapOf [(.xform 2 2 0, 0x85)] = true := by decide +kernel

theorem test_xcoll : yields (recorded (gs [(8, 2 ^ 49)])) (commandsAt 3) [(.xcoll 2 2 8, 1), (.xcollBcast 2 2 8, 1)] = true ∧
    yields (recorded []) trapOf [(.xcoll 2 2 0, 0x60)] = true := by decide +kernel

/-- A scene with no schedule. -/
def someScene : Scene :=
  { desc := [], sched := [], frame := 0, run := none, queue := [], shpen := 0, placed := [], rejected := [], tries := [] }

/-- A thread of a context with a scene. -/
def drawing (l : List (Nat × Nat × Nat)) : State :=
  { user l with gaffer := { Gaffer.reset with ctxs := [(0, { probeContext with scene := some someScene })] } }

theorem test_layer_words : yields (drawing []) opsOf [(.lnew 1 2 3, 1), (.lfree 1, 1), (.lpose 1 2, 1), (.lcommit 1 2, 1),
    (.lsplit 1 2 3, 1), (.lmerge 1 2 3, 1), (.lerr 1 2, 1), (.lerrHdr 1 2, 1), (.lprice 1 2, 1), (.lorder 1 2, 1),
    (.llight 1 2 3, 1), (.llightBump 1, 1), (.lshadow 1 2, 1), (.lreqTmpl 1 2, 1), (.lreqNow 1, 1), (.lreqClr 1, 1),
    (.cwr 1 0x50, 1)] = true := by decide +kernel

theorem test_layer_words_trap : yields (drawing (gs [(1, 0x1000), (2, 4)])) trapOf [(.lfree 1, 0x90), (.lpose 0 2, 0x40),
    (.lreqTmpl 0 2, 0x40), (.lnew 2 0 0, 0x40), (.llightBump 1, 0x90)] = true ∧
    yields (user []) trapOf [(.lnew 1 2 3, 0x92), (.cwr 1 0x50, 0x92)] = true := by decide +kernel

/-! ### Matrix and permutation instructions -/

theorem test_munf : yields (recorded (gs [(8, 0x10 * 2 ^ 48)])) (fun t => natOf (t.slot 0 1).munf.isSome) [(.munf 3 0 8, 1)] = true ∧
    yields (recorded []) trapOf [(.munf 1 0 0, 0x74), (.munf 3 0 0, 0x74), (.munf 4 0 0, 0x80)] = true := by decide +kernel

/-- The operations in the matrix queue of core 0. -/
def queuedOps (t : State) : Nat := (t.core 0).matq.length

theorem test_mmz : yields (user (gs [(1, 32)])) queuedOps [(.mmz 0 0, 1), (.mmz 0 1, 1)] = true ∧
    yields (user (gs [(1, 32)])) trapOf [(.mmz 1 0, 0x70)] = true := by decide +kernel

/-- The thread in slot 1 with an unfolding configuration of 16-bit floats on both sides, its quad licensed. -/
def configured (l : List (Nat × Nat × Nat)) : State :=
  let s := licensed (recorded l)
  s.setSlot 0 1 { s.slot 0 1 with
    munf := some { tlr := readRecord s 0 Slot.reset 0x4200, gb := 0, gc := 0x0010000000000000 } }

theorem test_mma : yields (configured []) queuedOps [(.mma 0 0 0 0 0 0 0, 1), (.mmac 0 0 0 0 0 0 0, 1)] = true ∧
    yields (configured (gs [(8, 32)])) trapOf [(.mma 8 0 0 0 0 0 0, 0x70)] = true ∧
    yields (user []) trapOf [(.mma 0 0 0 0 0 0 0, 0x74), (.mmac 0 0 0 0 0 0 0, 0x74)] = true := by decide +kernel

/-- A buffer descriptor: an offset, a pitch, a space, and a format or a row length. -/
def rows (off pitch space code : Nat) : Nat := off + space * 2 ^ 17 + pitch * 2 ^ 24 + code * 2 ^ 48

theorem test_settings_idle : yields (user []) (qOf 2) [(.qid 2, 0)] = true ∧
    yields (user (vs [(1, 0x0F0E0D0C0B0A09080706050403020100), (2, 63)])) (vOf 3) [(.qapp 0 3 1, 0x0F0E0D0C0B0A09080706050403020100),
      (.qapp 0 3 2, 63)] = true := by decide +kernel

/-- Routes being solved. -/
def solving (t : State) : Nat := (t.slot 0 1).solves.length

/-- A thread with an index vector at AB 0x40. -/
def indexed (v : List Nat) : State :=
  let s := user (gs [(1, 0x40)])
  { s with mem := writeBytes s.mem (localKey 0 .ab 0x40) (v.map (BitVec.ofNat 8)) }

/-- The numbers from 0 to 63 but for the first two, which are given. -/
def fromTwo (a b : Nat) : List Nat := a :: b :: (List.range 62).map (· + 2)

theorem test_solves : yields (user []) solving [(.qcomp 1 2 3, 1), (.qinv 1 2, 1), (.qrnd 1, 1)] = true ∧
    yields (indexed (fromTwo 1 0)) solving [(.qld 1 1 3, 1)] = true := by decide +kernel

theorem test_index_vectors : yields (indexed (fromTwo 1 1)) trapOf [(.qld 1 1 3, 0x71)] = true ∧
    yields (indexed (fromTwo 64 0)) (gOf 9) [(.qchk 1 9 3, 2 ^ 63 + 2 ^ 16 + 64 * 2 ^ 8)] = true ∧
    yields (user []) (gOf 9) [(.qchk 0 9 2, 2 ^ 63 + 1)] = true := by decide +kernel

theorem test_qst : yields (user (gs [(1, 0x40)])) (fun t => ofBytes (readBytes t.mem (localKey 0 .ab 0x40) 4)) [(.qst 0 1 3, 0x03020100)] = true := by
  decide +kernel

theorem test_mmd : yields (user (gs [(1, rows 0 128 3 0x10), (2, rows 0 127 3 0x10)])) queuedOps [(.mmd 0 1 0 0 0 0, 1)] = true ∧
    yields (user (gs [(1, rows 0 128 3 0x10), (2, rows 0 126 3 0x10)])) trapOf [(.mmd 0 2 0 0 0 0, 0x70), (.mmd 0 0 0 0 0 0, 0x72)] = true := by
  decide +kernel

theorem test_qtile : yields (user (gs [(1, rows 0 128 3 128)])) queuedOps [(.qtile 0 1, 1)] = true ∧
    yields (user (gs [(1, rows 0 128 3 129)])) trapOf [(.qtile 0 1, 0x70)] = true := by decide +kernel

/-! The identity has 64 cycles of length 1, every one a fixed point, and even parity. -/

theorem test_qcyc : yields (user []) (gOf 3) [(.qcyc 0 3, 64 + 64 * 2 ^ 7 + 2 ^ 14 + 2 ^ 22)] = true := by decide +kernel

/-! ### States that meet the hypotheses of the statements -/

/-- The canonical forms, as a computation. -/
def canonical (s : State) : Bool :=
  Memory.wf s.mem && rising s.empties && mapWf 0 s.lineMeta && mapWf Slot.reset s.slots && mapWf CoreSt.reset s.cores
    && mapWf Quad.reset s.quads

theorem inv_of {s : State} (h : canonical s = true) : s.Inv := by
  simp only [canonical, Bool.and_eq_true] at h
  exact ⟨h.1.1.1.1.1, h.1.1.1.1.2, h.1.1.1.2, h.1.1.2, h.1.2, h.2⟩

/-- What the ports that an instruction reads give, if they give something. -/
def portsGive (s : State) (i : Instr) : Option (List (Nat × Vec) × List Eff) :=
  match gatherPorts s.hereCore s.hereSlot s.here (portCodes (readsOf i)).eraseDups with
  | .ok vals pops => some (vals, pops)
  | _ => none

/-- The conditions of `Reaches`, as a computation. -/
def reaches (s : State) (i : Instr) (n : Nat) : Bool :=
  s.powered && ! slotBarred s s.hereCore s.hereSlot && s.here.faults.isEmpty && s.here.park.isNone && wellFormed i
    && (s.hereSlot != 0 || setLevel s s.hereCore == s.hereOf.level) && (s.hereSlot == 0 || ! privileged i) && (pendingOf s.here (readsOf i ++ writesOf i)).isEmpty
    && ((queuePorts i).all fun p => decide ((queuePorts i).count p ≤ 1)) && decide (s.here.outstanding + n ≤ 16)

theorem reaches_of {s : State} {i : Instr} {n : Nat} {vals : List (Nat × Vec)} {pops : List Eff}
    (h : reaches s i n = true) (hp : portsGive s i = some (vals, pops)) : Reaches s i n vals pops := by
  simp only [reaches, Bool.and_eq_true, Bool.not_eq_true', Bool.or_eq_true, beq_iff_eq, bne_iff_ne,
    List.isEmpty_iff, Option.isNone_iff_eq_none, List.all_eq_true, decide_eq_true_eq] at h
  obtain ⟨⟨⟨⟨⟨⟨⟨⟨⟨h1, h2⟩, h3⟩, h4⟩, h5⟩, hl⟩, h6⟩, h7⟩, h8⟩, h9⟩ := h
  refine ⟨h1, h2, h3, h4, hl, h5, h6, h7, h8, ?_, h9⟩
  unfold portsGive at hp
  split at hp
  · rename_i v p he
    obtain ⟨rfl, rfl⟩ := Prod.mk.inj (Option.some.inj hp)
    exact he
  · cases hp

/-- The conditions of `Issues`, as a computation. -/
def issues (s : State) (i : Instr) (n : Nat) : Bool := reaches s i n && (! needsIdle i || s.here.outstanding == 0)

theorem issues_of {s : State} {i : Instr} {n : Nat} {vals : List (Nat × Vec)} {pops : List Eff}
    (h : issues s i n = true) (hp : portsGive s i = some (vals, pops)) : Issues s i n vals pops := by
  simp only [issues, Bool.and_eq_true, Bool.or_eq_true, Bool.not_eq_true', beq_iff_eq] at h
  exact ⟨reaches_of h.1 hp, fun hn => h.2.resolve_left (by rw [hn]; decide)⟩

/-- A state in canonical form, in which the instruction issues with n operations more and reads no port. -/
def ready (s : State) (i : Instr) (n : Nat := 0) : Bool :=
  canonical s && issues s i n && match portsGive s i with
    | some (vals, pops) => vals.isEmpty && pops.isEmpty
    | none => false

theorem ready_issues {s : State} {i : Instr} {n : Nat} (h : ready s i n = true) : s.Inv ∧ Issues s i n [] [] := by
  simp only [ready, Bool.and_eq_true] at h
  refine ⟨inv_of h.1.1, issues_of h.1.2 ?_⟩
  cases hp : portsGive s i with
  | none => rw [hp] at h; cases h.2
  | some x =>
    rw [hp] at h
    simp only [Bool.and_eq_true, List.isEmpty_iff] at h
    rw [← h.2.1, ← h.2.2]

/-- In each case the state is canonical, the instruction issues with n operations more and reads no port, and the
condition beside it holds. -/
def Meets (n : Nat) (l : List (State × Instr × (State → Bool))) : Prop :=
  ∀ p ∈ l, p.1.Inv ∧ Issues p.1 p.2.1 n [] [] ∧ p.2.2 p.1 = true

theorem meets {n : Nat} {l : List (State × Instr × (State → Bool))}
    (h : (l.all fun p => ready p.1 p.2.1 n && p.2.2 p.1) = true) : Meets n l := by
  intro p hp
  have := List.all_eq_true.mp h p hp
  rw [Bool.and_eq_true] at this
  exact ⟨(ready_issues this.1).1, (ready_issues this.1).2, this.2⟩

/-- In each case the state is canonical, the turn reaches the instruction, which finds an operation of its thread
outstanding. -/
def MeetsBusy (l : List (State × Instr)) : Prop :=
  ∀ p ∈ l, p.1.Inv ∧ Reaches p.1 p.2 0 [] [] ∧ p.1.here.outstanding ≠ 0

theorem meets_busy {l : List (State × Instr)} (h : (l.all fun p => canonical p.1 && reaches p.1 p.2 0 &&
    (portsGive p.1 p.2 == some ([], [])) && p.1.here.outstanding != 0) = true) : MeetsBusy l := by
  intro p hp
  have := List.all_eq_true.mp h p hp
  simp only [Bool.and_eq_true, beq_iff_eq, bne_iff_ne] at this
  exact ⟨inv_of this.1.1.1, reaches_of this.1.1.2 this.1.2, this.2⟩

/-- A user thread whose slot holds more than a fresh one. -/
def slotted (f : Slot → Slot) : State := (user []).setSlot 0 1 (f { Slot.reset with wspV := true, block := 1 })

/-- A user thread whose core's record is not a fresh one. -/
def cored (f : CoreSt → CoreSt) : State := (user []).setCore 0 (f ((user []).core 0))

/-- A thread with q register 2 being solved. -/
def routing (l : List (Nat × Nat × Nat)) : State :=
  (user l).setSlot 0 1 { (user l).slot 0 1 with solves := [⟨2, 1, 0⟩] }

/-- A condition that says nothing. -/
def always : State → Bool := fun _ => true

/-- An address passes the check of its space, or fails it. -/
def passes (sp : Space) (a : Word) (n : Nat) : Bool := (addrFault sp a n).isNone
def failsCheck (sp : Space) (a : Word) (n : Nat) : Bool := (addrFault sp a n).isSome

theorem witness_ScalarArithmetic : Meets 0 ([.add 3 1 2, .sub 0 1 2, .and 3 3 3, .or 31 0 31, .xor 3 1 2, .shl 3 1 2,
    .shr 3 1 2, .sra 3 1 2, .mul 3 1 2, .mulh 3 1 2, .mulhu 3 1 2, .min 3 1 2, .max 3 1 2, .minu 3 1 2, .maxu 3 1 2,
    .slt 3 1 2, .sltu 3 1 2, .addi 3 1 0x800, .andi 3 1 0xFFF, .ori 3 1 0xFFF, .xori 3 1 0x7FF, .shli 3 1 63, .shri 3 1 0,
    .srai 3 1 63, .slti 3 1 0x800, .sltiu 3 1 0x800, .kon 3 0x10000, .konh 3 0x1FFFF].map fun i =>
      (user (gs [(1, 0x8000000000000000), (2, 64)]), i, always)) := meets (by decide +kernel)

theorem witness_ScalarBitsAndFields : Meets 0 ([.clz 3 1, .ctz 3 0, .popc 3 1, .revBit 3 1, .revB 3 1, .ext 3 1 0 63, .ext 3 1 63 0,
    .ins 3 1 0 63, .ins 3 1 63 0, .sel 3 1 2 0].map fun i => (user (gs [(1, 0x8000000000000000)]), i, always)) :=
  meets (by decide +kernel)

theorem witness_Division : Meets 0
    (([.div 3 1 2, .divu 3 1 2, .rem 3 1 2, .remu 3 1 2].map fun i => (user ((0x2F0, 2, 0x2000) :: gs [(1, 7)]), i, fun s =>
        s.g 2 == 0 && bitAt (fflagsOf s 0 1) 13)) ++
      ([.div 3 1 2, .divu 3 1 2, .rem 3 1 2, .remu 3 1 2].map fun i => (user (gs [(1, 7)]), i, fun s =>
        s.g 2 == 0 && ! bitAt (fflagsOf s 0 1) 13)) ++
      [.div 3 1 2, .divu 3 1 2, .rem 3 1 2, .remu 3 1 2].map fun i =>
        (user (gs [(1, 2 ^ 63), (2, 2 ^ 64 - 1)]), i, fun s => s.g 2 != 0)) := meets (by decide +kernel)

theorem witness_JumpsAndBranches : Meets 0
    [(user [], .nop, always), (user [(0x2E0, 8, 2 ^ 57 - 4)], .j 0, fun s => decide ((s.wordTarget (0 : BitVec 22)).toNat < 2 ^ 57)),
     (user [(0x2E0, 8, 2 ^ 57 - 4)], .jal 1, fun s => (s.wordTarget (1 : BitVec 22)).toNat == 2 ^ 57),
     (user (gs [(1, 2 ^ 57 - 1)]), .jr 1 0, fun s => (s.regTarget 1 0).toNat == 2 ^ 57 - 4),
     (user (gs [(1, 2 ^ 57)]), .jalr 1 1 0, fun s => (s.regTarget 1 0).toNat == 2 ^ 57),
     (user [], .bEq 1 2 4, fun s => s.g 1 == s.g 2), (user (gs [(1, 1)]), .bEq 1 2 4, fun s => s.g 1 != s.g 2),
     (user (gs [(1, 1)]), .bNe 1 2 4, always), (user (gs [(1, 2 ^ 63)]), .bLt 1 2 4, fun s => decide ((s.g 1).toInt < (s.g 2).toInt)),
     (user [], .bGe 1 2 4, always), (user (gs [(2, 2 ^ 63)]), .bLtu 1 2 4, always),
     (user [], .bGeu 1 2 0x800, fun s => (s.wordTarget (0x800 : BitVec 12)).toNat == 2 ^ 64 - 0x2000)] :=
  meets (by decide +kernel)

/-- `LoopFits` as a computation. -/
def fits (s : State) (v n : Nat) (count : Word) : Bool :=
  n != 0 && ! (s.level s v).active && ((List.range 3).all fun l => decide (l ≤ v) || ! (s.level s l).active)
    && ((List.range 3).all fun l => decide (v ≤ l) || ! (s.level s l).active
      || decide (((s.nextPc + 4 * (n - 1) : Nat) : Int) ≤ (s.level s l).lastWord)) && decide (count.toNat < 2 ^ 48)

/-- The body's last word can be fetched and is no first word of a pair. -/
def bodyEnds (s : State) (n : Nat) : Bool :=
  match fetchWord s 0 s.hereSlot (s.nextPc + 4 * (n - 1)) with
  | .ok w _ => (s.nextPc + 4 * (n - 1)) % 8 != 0 || w.getLsbD 31
  | _ => false

theorem witness_Loops : Meets 0
    [(fetching 0x82C08001 (gs [(1, 2 ^ 48 - 1)]), .loop 0 1 1, fun s => fits s 0 1 (s.g 1) && bodyEnds s 1 && s.g 1 != 0),
     (fetching 0x82C08001 [], .loop 0 1 1, fun s => fits s 0 1 (s.g 1) && bodyEnds s 1 && s.g 1 == 0),
     (fetching 0x82C08001 (gs [(1, 2 ^ 48)]), .loop 0 1 1, fun s => ! fits s 0 1 (s.g 1)), (user [], .loop 2 1 0, fun s => ! fits s 2 0 0),
     (looping 2, .lbrk 0, fun s => (s.level s 0).active), (looping 2, .lbrk 2, fun s => ! (s.level s 2).active),
     (looping 2, .lbrkStay 0, fun s => (s.level s 0).active),
     (looping 2, .nop, fun s => (s.level s 0).active && (s.level s 0).lastWord == s.herePc && decide ((s.level s 0).start < 2 ^ 57)
       && ! (s.level s 1).active && ! (s.level s 2).active && (s.level s 0).count != 1),
     (looping 1, .nop, fun s => (s.level s 0).active && (s.level s 0).lastWord == s.herePc && (s.level s 0).count == 1)] :=
  meets (by decide +kernel)

theorem witness_ForkJoinSusp : Meets 1
    [(user [], .fork 1 2 4, fun s => s.g 1 == 0), (user (gs [(1, 2 ^ 57 - 8)]), .fork 1 2 4, fun s => passes .gl (s.g 1) 8),
     (user (gs [(1, 2 ^ 57)]), .fork 1 2 4, fun s => s.g 1 != 0 && failsCheck .gl (s.g 1) 8), (user [], .join 3 1 1, always),
     (user (gs [(1, 4)]), .join 3 1 0, fun s => failsCheck .gl (s.g 1) 8)] ∧
    Meets 0 [(user (gs [(1, 64)]), .susp 1 0, fun s => s.here.outstanding == 0 && passes .gl (s.g 1) 64),
      (user (gs [(1, 32)]), .susp 1 0, fun s => failsCheck .gl (s.g 1) 64)] ∧
    MeetsBusy [(slotted fun x => x.starts ((user []).newOp .none (.join 0)), .susp 1 0)] :=
  ⟨meets (by decide +kernel), meets (by decide +kernel), meets_busy (by decide +kernel)⟩

/-- A user thread with an operation outstanding. -/
def busyThread : State :=
  slotted fun x => x.starts ((user []).newOp (.g 31) (.join 0))

/-- A user thread on a core whose deque holds n records. -/
def yielding (n : Nat) : State := cored fun x => { x with dqLaunch := List.replicate n none }

theorem witness_YieldAndHalt : Meets 0
    [(user [], .yield, fun s => s.here.outstanding == 0 && s.hereOf.depth == 0),
     (yielding 63, .yield, fun s => s.hereSlot != 0
       && s.hereOf.depth == 63 && (setPut s.hereOf.pool s.hereBlock true).all fun k => ! reservedBlock k),
     ((yielding 3).setSlot 0 1 { (yielding 3).here with sb := [(user []).newEntry (.store .wm [(0x4000, [1])])], seq := 1 }, .yield, fun s =>
       s.here.outstanding == 0 && s.hereSlot != 0 && s.hereOf.depth == 3 && s.here.storeBefore s.here.tid s.here.seq),
     (yielding 63, .yield, fun s => ! s.here.storeBefore s.here.tid s.here.seq),
     (sup [], .halt, fun s => s.hereSlot == 0), (busyThread, .halt, fun s => s.hereSlot != 0 && s.here.outstanding != 0),
     (user [], .halt, fun s => s.here.outstanding == 0 && ! reservedBlock s.hereBlock)] ∧
    MeetsBusy [(busyThread, .yield)] := ⟨meets (by decide +kernel), meets_busy (by decide +kernel)⟩

/-- The supervisor's turn with a record of a kind in its queue. -/
def queuedAs (f : TrapRec → TrapRec) : State :=
  (sup []).setCore 0 { (sup []).core 0 with
    trapq := [f { trapRecord (sup []) 1 0x42 7 0 0x40 false false with launch := none }] }

/-- The supervisor's turn while 16 records of slots are queued. -/
def queueFull : State :=
  (sup []).setCore 0 { (sup []).core 0 with trapq := List.replicate 16 (trapRecord (sup []) 0 0xE1 7 0 0x40 false false) }

theorem witness_TrapAndReturn : Meets 0
    [(user [], .trap 1 15, fun s => s.hereSlot != 0), (sup [], .trap 1 0, fun s => s.hereSlot == 0),
     (queueFull, .trap 1 0, fun s => (slotRecords s.hereOf.trapq).length == 16), (sup [], .rte, fun s => s.hereOf.trapq == []),
     (queuedAs fun r => { r with stale := true }, .rte, fun s => s.hereOf.trapq.any TrapRec.stale),
     (queuedAs fun r => { r with mchk := true }, .rte, fun s => s.hereOf.trapq.any TrapRec.mchk),
     (queuedAs id, .rte, fun s => s.hereOf.trapq.any fun r => ! (r.mchk || r.sup || r.stale))] := meets (by decide +kernel)

theorem witness_ControlRegisters : Meets 0
    (([0, 1, 2, 3, 4, 8, 0x10, 0x11, 0x12, 0x13, 0x14, 0x15, 0x16, 0x17, 0x18, 0x19, 0x20, 0x21, 0x22, 0x30, 0x31, 0x32, 0x40,
      0x50].map fun r => (sup [], Instr.crd 3 r, always)) ++
      [0x10, 0x17, 0x18, 0x19, 0x20, 0x21, 0x22, 0x30, 0x31, 0x32].flatMap fun r =>
        [(sup [], Instr.cwr 1 r, always), (sup [], .crx 3 1 r, always)]) ∧
    Meets 1 [(user [], .cwr 1 0x50, fun s => ((s.ctxOf 0).bind Context.scene).isNone),
      (drawing [], .crx 3 1 0x50, fun s => ((s.ctxOf 0).bind Context.scene).isSome)] :=
  ⟨meets (by decide +kernel), meets (by decide +kernel)⟩

theorem witness_Workspaces : Meets 0
    ([.wrd 3 1 2, .wwr 3 1 2].flatMap (fun i => [(sup (gs [(2, 1)]), i, fun s : State => s.g 2 == 1),
      (sup (gs [(2, 0x800)]), i, fun s => s.g 2 == 0x800), (sup (gs [(2, 0x7F8)]), i, fun s => (s.slot 0 0).wspV),
      (sup (gs [(1, 1)]), i, fun s => ! (s.slot 0 1).wspV)]) ++
    [(beside (gs [(1, 1), (2, 0x1801)]), .wspx 3 1 2, fun s => field (s.g 2) 63 17 == 0 && field (s.g 2) 10 1 == 0),
     (beside (gs [(1, 1), (2, 0x1801)]), .wspx 3 1 2, fun s => ! wspxWaits s 0 (s.slot 0 1)),
     ((beside (gs [(1, 1), (2, 0x1801)])).setSlot 0 1 { Slot.reset with wspV := true, block := 1, solves := [⟨2, 1, 0⟩] }, .wspx 3 1 2, fun s =>
       field (s.g 2) 63 17 == 0 && field (s.g 2) 10 1 == 0 && wspxWaits s 0 (s.slot 0 1)),
     (beside (gs [(1, 1), (2, 0x20000)]), .wspx 3 1 2, fun s => field (s.g 2) 63 17 != 0),
     (beside (gs [(1, 1), (2, 2)]), .wspx 3 1 2, fun s => field (s.g 2) 10 1 != 0)]) := meets (by decide +kernel)

theorem witness_PoolAndSlots : Meets 0
    [(sup [], .walloc 3, fun s => s.hereOf.pool == []), (pooled [], .walloc 3, fun s => s.hereOf.pool == [5, 6]),
     (sup [], .wallocRel 1, fun s => s.g 1 == 0), (sup (gs [(1, 62 * 2 ^ 11)]), .wallocRel 1, fun s => (s.g 1).toNat / 2 ^ 11 == 62),
     (beside (gs [(1, 2 ^ 11)]), .wallocRel 1, fun s => (s.slot 0 1).wspV && (s.slot 0 1).block == 1),
     (pooled (gs [(1, 5 * 2 ^ 11)]), .wallocRel 1, fun s => s.hereOf.pool.contains 5),
     (pooled (gs [(1, 61 * 2 ^ 11)]), .wallocRel 1, fun s => ! s.hereOf.pool.contains 61), (sup [], .slotctlStat 3 1, always),
     (sup [], .slotctlKill 3 1, fun s => (s.g 1).toNat % 16 == 0), (sup [], .slotctlStop 3 1, always), (sup [], .slotctlGo 3 1, always),
     (beside (gs [(1, 1)]), .slotctlStop 3 1, fun s => (s.g 1).toNat % 16 != 0), (beside (gs [(1, 15)]), .slotctlGo 3 1, always),
     (beside (gs [(1, 1)]), .slotctlKill 3 1, fun s => (s.slot 0 1).wspV && ! (s.slot 0 1).dying),
     (sup (gs [(1, 1)]), .slotctlKill 3 1, fun s => ! (s.slot 0 1).wspV && s.hereOf.trapq == []),
     ((queuedAs id).setSlot 0 0 ((sup (gs [(1, 1)])).slot 0 0), .slotctlKill 3 1, fun s => s.hereOf.trapq.any fun r => r.slot.toNat == 1),
     ((beside (gs [(1, 1)])).setSlot 0 1 { Slot.reset with wspV := true, block := 1, dying := true }, .slotctlKill 3 1, fun s =>
       (s.slot 0 1).wspV && (s.slot 0 1).dying)] := meets (by decide +kernel)

theorem witness_CountersAndLicence : Meets 0
    [(user [], .tsc 3 0, always), (user [], .tsc 3 1, always), (user [], .mlicQ 3, always), (user [], .mlicRel 3, always),
     (licensed (user []), .mlicAcq 3, fun s => licenceReady s 0), (user [], .mlicAcq 3, fun s => ! licenceReady s 0)] :=
  meets (by decide +kernel)

theorem witness_address_checks : passes .gl (2 ^ 57 - 8) 8 && failsCheck .gl (2 ^ 57) 8 && passes .wm (2 ^ 19 - 8) 8
    && failsCheck .wm (2 ^ 19) 8 && passes .cb (2 ^ 16 - 8) 8 && failsCheck .cb (2 ^ 16) 8 && passes .wb (2 ^ 17 - 8) 8
    && failsCheck .wb (2 ^ 17) 8 && passes .ab (2 ^ 17 - 8) 8 && failsCheck .ab (2 ^ 17) 8 && failsCheck .gl 4 8
    && passes .gl 7 1 = true := by decide +kernel

/-- A thread whose clearing of the C tile at CB 0 has not retired. -/
def working (l : List (Nat × Nat × Nat)) : State :=
  (user l).setCore 0 { (user l).core 0 with matq := [(user l).matOp .mmz 0 0 0 0 0] }

/-- A thread whose load from GL waits for a page. -/
def paged : State := slotted fun x => { x with
  async := [(user []).newOp (.g 5) (.load .gl [⟨0x40000000, 8, 0⟩] 0 (BitVec.allOnes 128)) .paged], seq := 1 }

theorem witness_ScalarLoads : Meets 1
    ([.ldB 3 1 0 0, .ldBu 3 1 0 0, .ldH 3 1 0 0, .ldHu 3 1 0 0, .ldW 3 1 0 0, .ldWu 3 1 0 0, .ldD 3 1 0 0x1FF].map (fun i =>
        (user (gs [(1, 8)]), i, fun s : State => passes .gl (s.g 1) 8 && s.remote .gl 8)) ++
      [.ldB 3 1 1 0, .ldBu 3 1 1 0, .ldH 3 1 1 0, .ldHu 3 1 2 0, .ldW 3 1 3 0, .ldWu 3 1 4 0, .ldD 3 1 1 0].map (fun i =>
        (user (gs [(1, 8)]), i, fun s => passes .wm (s.g 1) 8 && ! s.remote .wm 8 && ! s.busy [(.wm, 8, 8)])) ++
      [(user (gs [(1, 0x20000)]), .ldD 3 1 1 0, fun s => s.remote .wm 0x20000), (user (gs [(1, 1)]), .ldH 3 1 1 0, fun s =>
        failsCheck .wm (s.g 1) 2), (working [], .ldD 3 1 4 0, fun s => s.busy [(.cb, 0, 8)]),
       (user [], .ldD 3 1 1 0, fun s => ! s.readsHeld), (paged, .ldD 3 1 1 0, State.readsHeld)]) := meets (by decide +kernel)

theorem witness_VectorLoadsAndGathers : Meets 1
    [(user [], .vld 24 1 1 0, always), (user [], .vldm 27 1 1 0 0, always), (user [], .vld 23 1 0 0x1FF, fun s =>
       failsCheck .gl (s.g 1 + (0x1FF : BitVec 9).signExtend 64 * 16) 16), (user [], .vld 3 1 0 0, fun s => s.remote .gl 0),
     (user [], .vld 3 1 1 0, fun s => ! s.remote .wm 0 && ! s.busy [(.wm, 0, 16)]), (user [], .vldm 3 1 1 0 0, fun s => s.m 0 == 0),
     (user [(0x280, 2, 1)], .vldm 3 1 0 0 0, fun s => s.m 0 == 1), (user [(0x280, 2, 0x8000)], .vldm 3 1 3 0 0, fun s => s.m 0 == 0x8000),
     (working [], .vld 3 1 4 0, fun s => s.busy [(.cb, 0, 16)]), (user [], .vgat 24 1 2 0 1, always),
     (user (vs [(5, 2)]), .vgat 3 1 5 2 1, fun s => (laneFault .wm 4 0 (s.lanesOf [] 1 5 4)).isSome),
     (user [], .vgat 3 1 5 3 0, fun s => (laneFault .gl 8 0 (s.lanesOf [] 1 5 8)).isNone),
     (user (vs [(5, 2 ^ 128 - 1)]), .vgat 3 1 5 2 1, fun s => (s.lanesOf [] 1 5 4).all Option.isNone),
     (user (vs [(5, 2 ^ 128 - 2 ^ 64)]), .vgat 3 1 5 3 1, fun s => (laneFault .wm 8 0 (s.lanesOf [] 1 5 8)).isNone),
     (working [], .vgat 3 1 5 0 4, fun s => s.busy [(.cb, 0, 1)])] := meets (by decide +kernel)

/-- A thread whose store buffer is full. -/
def full (l : List (Nat × Nat × Nat)) : State :=
  (user l).setSlot 0 1 { Slot.reset with wspV := true, block := 1, sb := List.replicate 8 ((user []).newEntry .marker) }

theorem witness_MemoryStores : Meets 0
    ([.stB 2 1 1 0, .stH 2 1 0 0, .stW 2 1 1 0, .stD 2 1 0 0, .vst 2 1 1 0, .vstm 2 1 0 0 0, .vsca 2 1 5 1 1].flatMap (fun i =>
        [(user ((0x280, 2, 3) :: []), i, fun s : State => decide (s.here.sb.length < 8)), (full [(0x280, 2, 3)], i, fun s =>
          s.here.sb.length == 8)]) ++
      [.stB 2 1 4 0, .stH 2 1 4 0, .stW 2 1 4 0, .stD 2 1 4 0, .vst 2 1 4 0, .vsca 2 1 5 3 4].flatMap (fun i =>
        [(user [], i, fun s => ! s.busy [(.cb, 0, 16)]), (working [], i, fun s => s.busy [(.cb, 0, 1)])]) ++
      [(user (gs [(1, 1)]), .stH 2 1 1 0, fun s => failsCheck .wm (s.g 1) 2), (user (gs [(1, 8)]), .vst 2 1 1 0, fun s =>
        failsCheck .wm (s.g 1) 16), (user [], .vstm 2 1 1 0 0, fun s => s.m 0 == 0), (user (vs [(5, 1)]), .vsca 2 1 5 1 1, fun s =>
        (laneFault .wm 2 0 (s.lanesOf [] 1 5 2)).isSome), (user [], .pref 1 0 0, always)]) := meets (by decide +kernel)

/-- A thread with elements 9 waiting at stream port t0 and 7 at queue port e0. -/
def waiting : State :=
  slotted fun x => Slot.setPort { x with streams := [(0, ⟨[], 1, 1, 0, [.value 9], 0, 0⟩)] } 0
    { Port.reset with results := [7] }

theorem witness_ports : waiting.Inv ∧ Issues waiting (.vmov 3 24) 0 [(24, 9)] [.popStream 0 1 0] ∧
    Issues waiting (.vst 28 1 1 0) 0 [(28, 7)] [.popResult 0 1 0] ∧
    Issues waiting (.vadd 3 24 28 0 0 2) 0 [(24, 9), (28, 7)] [.popStream 0 1 0, .popResult 0 1 0] :=
  ⟨inv_of (by decide +kernel), issues_of (by decide +kernel) (by decide +kernel), issues_of (by decide +kernel) (by decide +kernel),
    issues_of (by decide +kernel) (by decide +kernel)⟩

theorem witness_FullEmptyAndAtomics : Meets 1
    ([.ldfe 3 1 1 0, .ldfx 3 1 0 0, .fepoll 3 1 1 0].flatMap (fun i =>
        [(user [], i, fun s : State => ! (s.env i []).wordBuffered .wm 0), (user (gs [(1, 4)]), i, fun s => failsCheck .gl (s.g 1) 8)]) ++
      [(slotted fun x => { x with sb := [(user []).newEntry (.stff .wm 0 0)] }, .ldfe 3 1 1 0,
        fun s => (s.env (.ldfe 3 1 1 0) []).wordBuffered .wm 0), (user [], .stfe 3 1 0 0, fun s => decide (s.here.sb.length < 8)),
       (full [], .stfe 3 1 0 0, fun s => s.here.sb.length == 8), (user (gs [(1, 2 ^ 57)]), .stfe 3 1 0 0, fun s => failsCheck .gl (s.g 1) 8)] ++
      [.amo 3 1 2 1 1 8, .amo 3 1 2 0 0 0, .cas 3 1 2 2 1 1, .cas 3 1 2 2 0 0].flatMap fun i =>
        [(user (gs [(1, 8)]), i, fun s => passes .wm (s.g 1) 8), (user (gs [(1, 2)]), i, fun s => failsCheck .gl (s.g 1) 4)]) ∧
    Meets 0 ([.stff 3 1 1 0, .fesetE 1 1 0, .fesetF 1 0 0].flatMap fun i =>
      [(user [], i, fun s => decide (s.here.sb.length < 8)), (full [], i, fun s => s.here.sb.length == 8)]) :=
  ⟨meets (by decide +kernel), meets (by decide +kernel)⟩

theorem witness_FencesAndBarriers : Meets 0
    (([Instr.fenceAcq 1 0, .fenceRel 1 0, .fenceAr 1 0, .fenceSc 1 0].flatMap (fun f =>
        [(user [], f 1, fun s : State => (s.scopeOf 1 0 1).isNone), (user (gs [(1, 2 ^ 24)]), f 1, fun s =>
          (s.scopeOf 1 0 1).any fun n => ! n.isLane)])) ++
      ([Instr.fenceAcq 0, .fenceRel 0, .fenceAr 0, .fenceSc 0].flatMap (fun f =>
        [(user [], f 6 0, fun s => (s.scopeOf 0 6 0).any ScopeName.isLane), (full [], f 1 0, fun s => s.here.sb.length == 8)]))) ∧
    Meets 1 (([Instr.bar 3 1 2 0 1, .barnb 3 1 2 0 1].flatMap fun f =>
        [(user [], f 3, fun s => (s.scopeOf 1 0 1).isNone), (user (gs [(1, 2 ^ 24)]), f 0, fun s => (s.scopeOf 1 0 1).isSome && s.g 2 == 0)]) ++
      [Instr.bar 3 0 2 6 0, .barnb 3 0 2 1 0].flatMap fun f =>
        [(user (gs [(2, 2 ^ 32)]), f 0, fun s => (s.g 2).toNat == 2 ^ 32), (user (gs [(2, 2 ^ 32 - 1)]), f 3, fun s => s.g 2 != 0)]) :=
  ⟨meets (by decide +kernel), meets (by decide +kernel)⟩

theorem witness_Channels : Meets 0
    [(user (gs [(1, 4096)]), .send 1 2 0, fun s => (s.g 1).toNat == 2 ^ 12), (user (gs [(1, 4095)]), .send 1 2 63, fun s =>
       decide (s.here.outq.length < 4)), (slotted fun x => { x with outq := List.replicate 4 ⟨0, 0, 0, ⟨0, 0, 0, none⟩, false⟩ }, .send 1 2 0, fun s =>
       s.here.outq.length == 4), (received, .rprobe 3 3, always)] ∧
    Meets 1 [(user [], .recv 24 0, always), (received, .recv 3 3, fun s => s.hereOf.recvs == [] &&
        (s.here.async.all fun o => o.seq != s.here.seq) && (takeMsg (s.pidOf 0) 3 s.hereOf.rx).isSome),
      (received, .recv 23 4, fun s => (takeMsg (s.pidOf 0) 4 s.hereOf.rx).isNone)] :=
  ⟨meets (by decide +kernel), meets (by decide +kernel)⟩

/-- The record at an address passes its checks, or fails them with a cause. -/
def recordOk (s : State) (a : Word) (whole : Bool) : Bool :=
  match checkTlr s.hereOf (readRecord s 0 s.here a.toNat) whole with
  | .ok _ => true
  | .error _ => false

def recordBad (s : State) (a : Word) (whole : Bool) : Bool :=
  match checkTlr s.hereOf (readRecord s 0 s.here a.toNat) whole with
  | .ok _ => false
  | .error e => ! isTrapN e.cause

/-- A thread whose twin runs in another context. -/
def parted : State := twinned.setCore (twinOf 0) { twinned.core (twinOf 0) with ctx := none }

/-- A thread that sleeps on an entry of the twin window, with a wait limit of 100 cycles that has passed. -/
def sleeping (w : Word) : State :=
  let s := twinned
  { (s.setSlot 0 1 { s.slot 0 1 with asleep := some { kind := 0, addr := w, cycle := 0 } }).setCore 0
      { s.core 0 with cycle := 0x101 } with mem := writeBytes s.mem (localKey 0 .wm (2048 + 0x2F4)) [100, 0, 0, 0] }

theorem witness_StreamsAndTwins : Meets 0
    [(recorded [], .sbind 24 1, fun s => (localCheck 0 (s.g 1) 8 96).isNone && recordOk s (s.g 1) true),
     (recorded [], .sbind 27 4, fun s => recordBad s (s.g 4) true), (recorded (gs [(9, 4)]), .sbind 24 9, fun s =>
       (localCheck 0 (s.g 9) 8 96).isSome), (recorded (gs [(9, 2 ^ 17 - 88)]), .tlrchk 9 8, fun s => (localCheck 0 (s.g 9) 8 96).isSome),
     (user [], .sclose 27, always), (recorded [], .tlrchk 3 9, fun s => recordOk s (s.g 3) true), (recorded [], .tlrchk 4 9, fun s =>
       recordBad s (s.g 4) true),
     (twinned, .twput 3 1 1, fun s => peerReach s 0 (twinOf 0) == some true && s.here.sb == []), (twinned, .twput 3 0 0, always),
     (twinned, .twput 3 1 0, fun s => (s.core (twinOf 0)).twinFull.getLsbD 0), (parted, .twput 3 0 15, fun s =>
       (peerReach s 0 (twinOf 0)).isNone), (parted.setCore (twinOf 0)
       { CoreSt.reset with ctx := some 0, pre := some ⟨0, false⟩ }, .twput 3 0 15, fun s => peerReach s 0 (twinOf 0) == some false),
     (twinned.setSlot 0 1 { twinned.slot 0 1 with sb := [twinned.newEntry .marker] }, .twput 3 0 1, fun s => s.here.sb != []),
     (twinned, .twget 24 0 2, always), (twinned, .twget 23 1 2, fun s => s.hereOf.twinFull.getLsbD 2), (twinned, .twget 4 0 15, always),
     (twinned, .twget 4 1 3, fun s => ! s.hereOf.twinFull.getLsbD 3 && s.here.asleep == none),
     (sleeping (BitVec.ofNat 64 (loneWord (.twget 4 1 3)).toNat), .twget 4 1 3, fun s => s.here.asleep.isSome
       && wlimOf s 0 1 == 100 && decide (100 < s.hereOf.cycle.toNat)), (twinned, .twtest 3 0, always),
     (twinned, .twtest 3 1, always), (parted, .twtest 3 1, fun s => (peerReach s 0 (twinOf 0)).isNone)] := meets (by decide +kernel)

/-- A header that acceptance lets through, or traps. -/
def accepted (s : State) (i : Instr) (e : Nat) (h : Vec) : Bool :=
  match (s.env i []).accept e h with
  | .ok _ => true
  | .error _ => false

theorem witness_EngineAndLayerWords : Meets 0
    [(recorded [], .xcopy 1 1 0 0 0, fun s => decide ((s.g 1).toNat < 2 ^ 19) &&
       accepted s (.xcopy 1 1 0 0 0) 0 (BitVec.ofNat 128 (0x4000 * 2 ^ 24 + 0x4000 * 2 ^ 43)) && (s.here.port 0).used == 0),
     (recorded [], .xcopyFill 0 1 0 0 0, always), (recorded [], .xgat 2 2 0, always), (recorded [], .xgatSca 2 2 0, always),
     (recorded [], .xgatScadd 2 2 0, always), (recorded (gs [(8, 8 * 2 ^ 24)]), .xform 2 2 8, always),
     (recorded [], .xformRans 1 1 0, always), (recorded (gs [(8, 2 ^ 49)]), .xcoll 2 2 8, always),
     (recorded (gs [(8, 2 ^ 49)]), .xcollBcast 2 2 8, always), (recorded (gs [(8, 2 ^ 19)]), .xcopy 8 1 0 0 0, fun s =>
       (s.g 8).toNat == 2 ^ 19), (recorded (gs [(8, 2 ^ 19)]), .xcopy 1 8 0 1 7, always),
     (recorded [], .xcopy 4 1 0 0 0, fun s => ! accepted s (.xcopy 4 1 0 0 0) 0 (BitVec.ofNat 128 (0x4300 * 2 ^ 24 + 0x4000 * 2 ^ 43)))] ∧
    Meets 1 ([(user [], .xwait 3 1, fun s => passes .wm (s.g 1) 8), (user [], .xwaitPoll 3 1, always),
        (user (gs [(1, 2 ^ 19)]), .xwait 3 1, fun s => failsCheck .wm (s.g 1) 8)] ++
      [.lnew 1 2 3, .lfree 1, .lpose 1 2, .lcommit 1 2, .lsplit 1 2 3, .lmerge 1 2 3, .lerr 1 2, .lerrHdr 1 2, .lprice 1 2,
       .lorder 1 2, .llight 1 2 3, .llightBump 1, .lshadow 1 2, .lreqTmpl 1 2, .lreqNow 1, .lreqClr 1].flatMap fun i =>
        [(user [], i, fun s => ((s.ctxOf 0).bind Context.scene).isNone), (drawing [], i, fun s =>
            ((s.ctxOf 0).bind Context.scene).isSome && decide ((s.g 1).toNat < 2 ^ 12)),
         (drawing (gs [(1, 4096), (2, 4), (3, 1)]), i, fun s => (s.g 1).toNat == 2 ^ 12 && (s.g 2).toNat % 8 != 0)]) ∧
    Meets 1 [(drawing (gs [(1, 64)]), .llightBump 1, fun s => (s.g 1).toNat == 64), (drawing (gs [(1, 63)]), .llightBump 1, always),
      (drawing (gs [(2, 2 ^ 52)]), .lshadow 1 2, fun s => (s.g 2).toNat == 2 ^ 52), (drawing (gs [(2, 2 ^ 52 - 1)]), .lshadow 1 2, always)] :=
  ⟨meets (by decide +kernel), meets (by decide +kernel), meets (by decide +kernel)⟩

theorem witness_VectorIntegers : Meets 0
    ([.vadd 3 1 2 1 0 0, .vsub 3 1 2 0 1 1, .vmul 3 1 2 1 1 2, .vmulh 3 1 2 0 0 3, .vfma 3 1 2 0 0 0, .vfms 3 1 2 1 0 1,
      .vfnma 3 1 2 0 1 2, .vshl 3 1 2 1 0 3, .vshr 3 1 2 0 0 0, .vsra 23 1 2 0 0 3].map fun i => (user [], i, always)) ∧
    Meets 0 [(slotted fun x => Slot.setPort x 0 { Port.reset with
      opened := some ⟨0x30000, [], [], 0, [], .level 1 0, 0, 0, 0, false, none⟩ }, .vadd 28 1 2 0 0 0, fun s =>
        (s.here.port 0).opened.isSome && decide ((s.here.port 0).used < 8)),
      (user [], .vadd 24 1 2 0 0 0, always)] := ⟨meets (by decide +kernel), meets (by decide +kernel)⟩

theorem witness_VectorMinMaxAbs : Meets 0 ([.vmin 3 1 2 0 0 3, .vmax 3 1 2 0 1 0, .vmin 3 1 2 0 0 4, .vmax 3 1 2 0 0 7, .vminn 3 1 2 0 0 5,
    .vmaxn 3 1 2 0 0 6, .vabs 3 1 1 0 2, .vabs 3 1 0 1 2, .vabs 3 1 0 0 4, .vneg 3 1 1 1 0, .vneg 3 1 0 0 7].map fun i =>
      (user [], i, always)) := meets (by decide +kernel)

theorem witness_VectorFloats : Meets 0 ([.vadd 3 1 2 0 0 4, .vsub 3 1 2 0 1 5, .vmul 3 1 2 0 5 6, .vfma 3 1 2 0 0 7, .vfms 3 1 2 0 2 6,
    .vfnma 3 1 2 0 3 6, .vdiv 3 1 2 0 4 6, .vsqrt 3 1 0 0 6, .vrcp 3 1 0 0 6, .vrsq 3 1 0 0 6, .vexp2 3 1 0 0 6, .vlog2 3 1 0 0 6,
    .vsin 3 1 0 0 6, .vcos 3 1 0 0 6].map fun i => (user [], i, always)) ∧
    Meets 0 [(user [(0x2F2, 1, 3)], .vadd 3 1 2 0 7 6, fun s => s.modeOf 7 == some 3), (user [(0x2F2, 1, 7)], .vadd 3 1 2 0 7 6, fun s =>
      (s.modeOf 7).isNone), (user ((0x2F0, 2, 0x200) :: vs [(1, 0x3F800000)]), .vdiv 3 1 2 0 0 6, fun s =>
      ! (flagTrap (fflagsOf s 0 1) 0 [8, 16, 16, 16]).isNone)] := ⟨meets (by decide +kernel), meets (by decide +kernel)⟩

theorem witness_VectorMovesAndMasks : Meets 0 ([.vand 3 1 2, .vor 3 1 2, .vxor 3 1 2, .vnot 3 1, .vmov 3 1, .vsel 3 1 2 7, .vshuf 3 1 2,
    .vsplat 3 1 0 7, .vins 3 1 2 1 0, .vzip 3 1 2 1 0 3, .vunzip 3 1 2 0 1 1, .vext 3 1 2 0 0, .vext 3 1 2 1 3, .vext 3 1 2 0 6,
    .mand 7 1 2, .mandNot 0 1 2, .mor 3 1 2, .morG 3 1 2, .mxor 3 1 2, .mnot 3 1, .mcnt 3 1, .mcntRaw 3 1, .mfirst 3 1].map fun i =>
      (user [], i, always)) := meets (by decide +kernel)

theorem witness_VectorCompare : Meets 0 ([.vcmp 7 1 2 5 1 3, .vcmp 0 1 2 0 0 0, .vcmp 1 1 2 6 0 4, .vcmp 1 1 2 2 0 7, .vclass 3 1 4].map fun i =>
    (user [], i, always)) := meets (by decide +kernel)

theorem witness_VectorReductions : Meets 0 ([.vred 3 1 0 1 0 3, .vred 3 1 1 0 1 0, .vred 3 1 2 0 0 1, .vred 3 1 3 0 0 2, .vred 3 1 4 0 0 2,
    .vred 3 1 0 0 0 6, .vred 3 1 2 0 0 4, .vdot 3 1 2 1 0 0, .vdot 3 1 2 0 1 1, .vdot 3 1 2 0 0 4, .vdot 3 1 2 0 0 5, .vsad 3 1 2 0 0 0,
    .vsad 3 1 2 1 1 1].map fun i => (user [], i, always)) ∧
    Meets 0 [(user [(0x2F2, 1, 6)], .vred 3 1 0 0 7 6, fun s => (s.modeOf 7).isNone)] := ⟨meets (by decide +kernel), meets (by decide +kernel)⟩

/-- The sub-byte format of a code and part is there, or traps. -/
def subByte (s : State) (i : Instr) (c n : Nat) : Bool :=
  match (s.env i []).subElem c n with
  | .ok _ => true
  | .error _ => false

/-- The element format of a code is there, or its NF register is invalid. -/
def codeOk (s : State) (c : Nat) : Bool :=
  match codeElem s.hereOf c with
  | .ok _ => true
  | .error _ => false

theorem witness_VectorConversions : Meets 0
    [(user [], .vcvt 3 1 6 0 0, fun s => codeOk s 6 && codeOk s 0), (user [], .vcvt 3 1 11 3 7, fun s => (s.modeOf 7).isSome),
     (user [(0x2F2, 1, 6)], .vcvt 3 1 6 3 0, fun s => (s.modeOf 7).isNone), (cored fun x => { x with nf := [(0, 2 ^ 63)] }, .vcvt 3 1 16 0 0, fun s =>
       ! codeOk s 16), (cored fun x => { x with nf := [(0, 2 ^ 63)] }, .vcvt 3 1 0 0 16, fun s => codeOk s 0 && ! codeOk s 16),
     (user [], .vpack 3 1 1 1 0, fun s => subByte s (.vpack 3 1 1 1 0) 0 1), (user [], .vunpack 3 1 7 4, fun s =>
       subByte s (.vunpack 3 1 7 4) 4 7), (cored fun x => { x with nf := [(0, 2 ^ 63)] }, .vpack 3 1 0 0 16, fun s =>
       ! subByte s (.vpack 3 1 0 0 16) 16 0), (cored fun x => { x with nf := [(0, 2 ^ 63)] }, .vunpack 3 1 0 16, fun s =>
       ! subByte s (.vunpack 3 1 0 16) 16 0)] := meets (by decide +kernel)

/-- A thread with 16 bits of its stream in the buffer, all of the stream. -/
def bound (l : List (Nat × Nat × Nat)) : State :=
  user ((0x2C0, 8, 0xABCD) :: (0x2D0, 8, 0x102) :: (0x2D8, 8, 16 * 2 ^ 54 + 16 * 2 ^ 21) :: l)

/-- The checks of `BitBuf.kept`, for a stream that starts at WM 0x100. -/
def kept (s : State) : Bool :=
  decide (s.bits.valid ≤ 128 ∧ s.bits.pos + s.bits.valid ≤ s.bits.len ∧ s.bits.len ≤ 0x100000) && ownRank 0 0x100
    && s.bits.next == 0x100 + (s.bits.pos + s.bits.valid) / 8

/-- A thread whose supervisor left the buffer as none may be. -/
def unsound (l : List (Nat × Nat × Nat)) : State := user ((0x2D8, 8, 200 * 2 ^ 54 + 16 * 2 ^ 21) :: l)

/-- A frequency table of two symbols at WM 0x4000 whose header is given. -/
def table (h : Nat) (l : List (Nat × Nat × Nat)) : State :=
  bound ([(0x3800, 8, h), (0x3808, 4, 3), (0x380C, 4, 0x30001)] ++ l)

theorem witness_BitStreams : Meets 0
    [(user (gs [(1, 2 ^ 17 - 1), (2, 8)]), .bbind 1 2, fun s => ownRank 0 (s.g 1).toNat), (user (gs [(1, 2 ^ 17 - 1), (2, 9)]), .bbind 1 2,
       fun s => decide (2 ^ 17 < (s.g 1).toNat + ((s.g 2).toNat + 7) / 8)), (user (gs [(1, 2 ^ 17)]), .bbind 1 2, fun s =>
       ! ownRank 0 (s.g 1).toNat), (user (gs [(1, 2 ^ 19)]), .bbind 1 2, fun s => field (s.g 1) 63 19 != 0),
     (user (gs [(2, 0x100001)]), .bbind 1 2, fun s => (s.g 2).toNat == 0x100001), (bound [], .bget 3 64, kept), (bound [], .bget 3 1, kept),
     (bound (gs [(1, 64)]), .bgetv 3 1, kept), (bound [], .bgetv 3 1, fun s => s.g 1 == 0), (bound (gs [(1, 65)]), .bgetv 3 1, fun s =>
       (s.g 1).toNat == 65), (bound [], .bpeek 3 64, kept), (unsound [], .bget 3 1, fun s => ! s.bits.sound 0), (unsound [], .bpeek 3 64, fun s =>
       ! s.bits.sound 0), (unsound [], .bgetv 3 1, fun s => ! s.bits.sound 0),
     (user [(0x2D8, 8, 16 * 2 ^ 54 + 16 * 2 ^ 21)], .bget 3 1, fun s => decide (s.bits.pos + s.bits.valid ≤ s.bits.len) && ! s.bits.sound 0), (bound [], .bskip 1 4095, kept), (unsound [], .bskip 1 0, always),
     (user [], .bpos 3, always), (user [], .bposLeft 3, always), (user [], .bposState 3, always),
     (table 0x22 (gs [(1, 4)]), .ansd 3 1 1, fun s => (s.g 1).toNat % 8 != 0), (table 0x22 (gs [(2, 2 ^ 17)]), .ansd 3 1 2, fun s =>
       ! ownRank 0 (s.g 2).toNat), (table 0x22 (gs [(2, 2 ^ 17 - 8)]), .ansd 3 1 2, always),
     (table 0x22 (gs [(1, 0x100003), (2, 0x4000)]), .ansd 3 1 2, fun s => ofBytes (s.ownBytes .wm 0x4000 8) == 0x22),
     (table 0x22 (gs [(1, 3), (2, 0x4000)]), .ansd 3 1 2, kept), (table 0x20 (gs [(2, 0x4000)]), .ansd 3 1 2, fun s =>
       ofBytes (s.ownBytes .wm 0x4000 8) % 32 == 0), (table 0x31 (gs [(2, 0x4000)]), .ansd 3 1 2, fun s =>
       ofBytes (s.ownBytes .wm 0x4000 8) % 32 == 17), (table 0x4022 (gs [(2, 0x4000)]), .ansd 3 1 2, always),
     (table 0x23 (gs [(1, 7), (2, 0x4000)]), .ansd 3 1 2, always)] := meets (by decide +kernel)

theorem witness_MatrixSettings : Meets 0
    [(recorded (gs [(8, 0x10 * 2 ^ 48)]), .munf 3 0 8, fun s => (localCheck 0 (s.g 3) 8 96).isNone && recordOk s (s.g 3) false),
     (recorded [], .munf 4 0 0, fun s => recordBad s (s.g 4) false), (recorded (gs [(9, 4)]), .munf 9 0 0, fun s =>
       (localCheck 0 (s.g 9) 8 96).isSome), (recorded [], .munf 1 0 0, fun s => recordOk s (s.g 1) false),
     (user (gs [(1, 2 ^ 16)]), .mmz 1 0, fun s => (s.g 1).toNat == 2 ^ 16), (user (gs [(1, 2 ^ 16 - 64)]), .mmz 1 0, always),
     (user [], .mmz 1 1, fun s => s.opFree (s.matOp .mmz 1 0 0 0 0) none), (working [], .mmz 1 0, fun s =>
       ! s.opFree (s.matOp .mmz 0 0 0 0 0) none),
     (user (gs [(1, rows 0 128 3 0x10)]), .mmd 0 1 1 7 1 0, fun s => (recordElem s.hereOf.nf 0x10).isSome),
     (user [], .mmd 0 0 0 0 0 0, fun s => (recordElem s.hereOf.nf 0).isNone), (cored fun x => { x with nf := [(7, 2 ^ 63)] }, .mmd 0 0 0 0 0 1, fun s =>
       match recordElem s.hereOf.nf 0x27 with | some (.error _) => true | _ => false),
     (user (gs [(1, rows 0 128 3 0x13)]), .mmd 0 1 0 0 0 0, fun s => match recordElem s.hereOf.nf 0x13 with
       | some (.ok f) => ! drainFmt false 0x13 (some f)
       | _ => false),
     (user (gs [(1, rows 0 128 3 128)]), .qtile 7 1, always), (user [], .qtile 0 1, fun s => descRowb (s.g 1) == 0),
     (user (gs [(1, rows 0 4096 3 4096)]), .qtile 0 1, fun s => descRowb (s.g 1) == 4096)] := meets (by decide +kernel)

theorem witness_MatrixMultiply : Meets 0 ([Instr.mma, Instr.mmac].flatMap fun f =>
    [(configured [], f 0 0 0 1 7 0 0, fun s : State => s.here.munf.isSome && licenceReady s 0), (configured (gs [(8, 2 ^ 16)]), f 8 0 0 0 0 0 0,
      fun s => (s.g 8).toNat == 2 ^ 16), (configured [], f 0 0 0 0 0 1 1, fun s => descSpace s.here.sca == 0), (user [], f 0 0 0 0 0 0 0, fun s =>
      s.here.munf.isNone), ((configured []).setQuad 0 Quad.reset, f 0 0 0 0 0 0 0, fun s => ! licenceReady s 0),
     ((configured []).setCore 0 { (configured []).core 0 with matq := List.replicate 16 ((user []).matOp .qtile 0 0 0 0 0) }, f 0 0 0 0 0 0 0,
      fun s => s.hereOf.matq.length == 16)]) := meets (by decide +kernel)

theorem witness_Permutations : Meets 0
    (([.qcomp 2 3 4, .qcomp 3 2 4, .qinv 2 3, .qrnd 2, .qid 2, .qcyc 2 3, .qapp 2 3 1, .qst 2 0 1].map fun i =>
        (routing [], i, fun s : State => s.solving 2)) ++
      ([.qcomp 2 3 4, .qinv 7 3, .qrnd 0, .qid 2, .qcyc 2 3, .qapp 2 3 1, .qst 2 0 1].map fun i =>
        (user [], i, fun s => ! s.solving 2)) ++
      [(indexed (fromTwo 1 0), .qld 1 1 3, fun s => passes .ab (s.g 1) 64 && ! s.busy [(.ab, 0x40, 64)]
         && s.indices .ab 0x40 == fromTwo 1 0), (indexed (fromTwo 64 0), .qld 1 1 3, fun s => s.indices .ab 0x40 == fromTwo 64 0),
       (indexed (fromTwo 0 0), .qchk 1 9 3, fun s => s.indices .ab 0x40 == fromTwo 0 0), (indexed (fromTwo 0 1), .qchk 1 9 3, fun s =>
         s.indices .ab 0x40 == fromTwo 0 1), (user (gs [(1, 32)]), .qld 1 1 2, fun s => failsCheck .wb (s.g 1) 64),
       (user (gs [(1, 2 ^ 17)]), .qchk 1 9 1, fun s => passes .wm (s.g 1) 64 && ! ownRank 0 (s.g 1).toNat),
       (cored fun x => { x with matq := [(user []).matOp .mmd 0 0 (BitVec.ofNat 64 (rows 0 128 3 0x10)) 0 0] }, .qchk 0 9 3, fun s =>
         s.busy [(.ab, 0, 64)])]) := meets (by decide +kernel)

theorem witness_Breaks : Breaks (fromTwo 64 0) 0 64 1 ∧ Breaks (fromTwo 0 0) 1 0 0 := by
  refine ⟨⟨by decide, by decide, .inl (by decide), fun j hj => absurd hj (Nat.not_lt_zero j)⟩,
    ⟨by decide, by decide, .inr ⟨rfl, by decide, 0, by decide, by decide⟩, fun j hj => ?_⟩⟩
  obtain rfl : j = 0 := by omega
  exact ⟨by decide, fun k hk => absurd hk (Nat.not_lt_zero k)⟩

/-! Of a step that is no instruction, the witness also says that it is taken. -/

/-- In each case the state is canonical, the condition beside it holds, and the step gives a next state. -/
def Fires (l : List (State × Instr × (State → Bool))) : Prop :=
  ∀ p ∈ l, p.1.Inv ∧ p.2.2 p.1 = true ∧ ∃ t, exec p.2.1 p.1 = .next t

theorem fires {l : List (State × Instr × (State → Bool))}
    (h : (l.all fun p => canonical p.1 && p.2.2 p.1 && (after p.2.1 p.1 fun _ => 0).isSome) = true) : Fires l := by
  intro p hp
  have := List.all_eq_true.mp h p hp
  simp only [Bool.and_eq_true] at this
  refine ⟨inv_of this.1.1, this.1.2, ?_⟩
  have h2 := this.2
  unfold after at h2
  split at h2
  · exact ⟨_, by assumption⟩
  · cases h2

/-- A state in which a step acts on what `sel` names. -/
def on (x : Sel) (s : State) : State := { s with sel := x }

/-- What step num of slot 1 of core 0 acts on. -/
def slot1 (num : Nat := 0) : Sel := { core := 0, slot := 1, num := num }

/-- A thread with one operation outstanding, which the step acts on. -/
def pending (dst : Dst) (kind : OpKind) (st : OpState := .sent) : State :=
  on (slot1) (slotted fun x => x.starts ((user []).newOp dst kind st))

/-- The state after a step, if it is taken. -/
def ran (i : Instr) (s : State) : State :=
  match exec i s with
  | .next t => t
  | _ => s

theorem witness_ResultsReturn : Fires
    [(pending (.g 3) (.load .gl [⟨0, 8, 0⟩] 0 0) (.done 9), .asyncResultWrite, fun s => s.powered && (s.selSlot.findOp 0).isSome),
     (pending (.v 23) (.recv 0) (.done 9), .asyncResultWrite, always), (pending (.g 0) (.amo 0 .wm 0 true 0) (.done 9), .asyncResultWrite, always),
     (pending (.g 3) (.join 0) (.done 1), .asyncResultWrite, always), (pending (.g 3) (.join 0) (.done 0), .asyncResultWrite, fun s =>
       s.selSlot.takes 0), (pending .none (.susp 0 []) (.done 0), .asyncResultWrite, fun s => s.selSlot.outstanding == 1 &&
       ! reservedBlock s.selSlot.block), (pending (.g 3) (.xwait 0x4000 0 false), .asyncResultWrite, always),
     (pending (.g 3) (.xwait 0x4000 1 true) .waiting, .asyncResultWrite, always)] := fires (by decide +kernel)

theorem test_asyncResultWrite : yields (pending (.g 3) (.recv 0) (.done 9)) (gOf 3) [(.asyncResultWrite, 9)] = true ∧
    yields (pending (.g 3) (.join 0) (.done 0)) (fun t => (t.slot 0 1).faults.length) [(.asyncResultWrite, 1)] = true := by decide +kernel

/-- A trapped thread whose record is not queued yet. -/
def trapped (sl : Nat) : State :=
  on { core := 0, slot := sl } (ran (.trap 0 3) (probe sl []))

/-- A parked thread whose full/empty load has waited past a limit of 100 cycles. -/
def overdue : State :=
  let s := pending (.g 3) (.fe .ldfe .wm 0x4000 0) .waiting
  { (s.setSlot 0 1 { s.slot 0 1 with park := some ⟨.marker, true, 0, false, 0, 0⟩ }).setCore 0 { s.core 0 with cycle := 0x101 } with
    mem := writeBytes s.mem (localKey 0 .wm (2048 + 0x2F4)) [100, 0, 0, 0] }

/-- The supervisor at a word, asleep on it since long ago, with a wait limit of 100 cycles. -/
def stuck (i : Instr) : State :=
  let s := on {} ((sup [(0x2F4, 4, 100)]).withFetchWord 32 (loneWord i).toNat)
  (s.setCore 0 { s.core 0 with cycle := 0x100, ctx := some 0 }).setSlot 0 0 { s.slot 0 0 with
    asleep := some ⟨0, BitVec.ofNat 64 (loneWord i).toNat, 0⟩ }

/-- The bundle that the thread fetches is the word of the instruction alone. -/
def fetched (s : State) (i : Instr) : Bool :=
  match fetchBundle s 0 s.hereSlot s.herePc with
  | .words [w] _ => w == loneWord i
  | _ => false

/-- The conditions of `onTurn`. -/
def turn (s : State) : Bool :=
  s.powered && s.sel.slot == s.hereSlot && (s.hereSlot != 0 || setLevel s 0 == s.hereOf.level) && ! slotBarred s 0 s.hereSlot

theorem witness_TrapsTaken : Fires
    [(on (slot1) (slotted fun x => { x with faults := [⟨0, false, 0x44, 0, 0⟩] }), .deferredTrap, fun s => turn s && s.here.faults.length == 1),
     (on (slot1) (slotted fun x => { x with hold := true, faults := [⟨0, false, 0x44, 0, 0⟩] }), .deferredTrap, fun s => s.here.hold &&
       ! slotInert s 0 1),
     (on (slot1) overdue, .waitLimitTrap, fun s => turn s && (s.here.park.any fun p => p.underMarker && ! parkOver s 0 s.here p) && (oldest (s.here.feOps true)).isSome && wlimOf s 0 1 == 100 &&
       decide (100 < s.hereOf.cycle.toNat)),
     (stuck (.twget 3 1 2), .twinWaitLimitTrap, fun s => turn s && fetched s (.twget 3 1 2) && ready s (.twget 3 1 2) && s.here.asleep.isSome),
     (trapped 1, .trapRecordEnqueue, fun s => s.selSlot.own.isEmpty && s.selSlot.trap.any fun x => ! x.queued && drained s 0 1 s.selSlot
       x.record.cause && recordPlace (s.core 0).trapq 1 && (List.range 1).all fun k => (readyRecord s 0 k).isNone), (on {} ((sup []).setSlot 0 0 { (sup []).slot 0 0 with
         trap := some { record := trapRecord (sup []) 0 0x42 7 0 0 false false, queued := false } }), .trapRecordEnqueue, fun s =>
       ! supQueued (s.core 0).trapq && s.selSlot.trap.any fun x => ! x.queued)] := fires (by decide +kernel)

theorem test_traps : yields (on (slot1) (slotted fun x => { x with faults := [⟨0, false, 0x44, 0, 0⟩] })) trapOf [(.deferredTrap, 0x44)] = true ∧
    yields (on (slot1) overdue) trapOf [(.waitLimitTrap, 0x64)] = true ∧
    yields (stuck (.twget 3 1 2)) (causeOf 0) [(.twinWaitLimitTrap, 0x64)] = true ∧
    yields (trapped 1) (fun t => (t.core 0).trapq.length) [(.trapRecordEnqueue, 1)] = true := by decide +kernel

/-- The head of the supervisor's window shows cause and slot of the head record (12 R319). -/
theorem test_head_window : yields (trapped 1) (wmOf 0x480 2) [(.trapRecordEnqueue, 0x1E3)] = true := by decide +kernel

theorem witness_HomesOfLoads : Fires
    (([.amo 8 .wm 0x4000 true 5, .amo 6 .wm 0x4004 false 5, .cas .wm 0x4000 true 0 5, .cas .wm 0x4004 false 1 5].map fun k =>
        (pending (.g 3) k, Instr.homeAtomic, fun s : State => s.selSlot.clearBefore 0 0 && peerReach s 0 0 == some true
          && noiseRead s (wmKey 0 0x4000) 8 == [])) ++
      [.fe .ldfe .wm 0x4000 0, .fe .ldfx .wm 0x4000 0, .fe .fepoll .wm 0x4000 0].flatMap fun k =>
        [(pending (.g 3) k, .feHomeOperation, fun s => tagFull s (wmKey 0 0x4000) && s.feWaits.isEmpty
           && s.selSlot.async.all fun p => decide (0 ≤ p.seq)),
         ({ pending (.g 3) k with empties := [wmKey 0 0x4000] }, .feHomeOperation, fun s => ! tagFull s (wmKey 0 0x4000))]) :=
  fires (by decide +kernel)

theorem test_homeAtomic : yields (pending (.g 3) (.amo 0 .wm 0x4000 true 5)) (wmOf 0x4000 8) [(.homeAtomic, 5)] = true ∧
    yields (pending (.g 3) (.cas .wm 0x4000 true 1 5)) (wmOf 0x4000 8) [(.homeAtomic, 0)] = true := by decide +kernel

theorem test_feHomeOperation : yields (pending (.g 3) (.fe .ldfe .wm 0x4000 0)) (fun t => t.empties.length) [(.feHomeOperation, 1)] = true ∧
    yields ({ pending (.g 3) (.fe .ldfx .wm 0x4000 0) with empties := [wmKey 0 0x4000] } : State) (fun t => t.feWaits.length)
      [(.feHomeOperation, 1)] = true := by decide +kernel

/-- A thread whose store buffer holds one entry. -/
def buffered (k : SbKind) : State := on (slot1) (slotted fun x => { x with sb := [(user []).newEntry k] })

theorem witness_StoreBufferHeads : Fires
    [(buffered .marker, .storeBufferDrain, fun s => ! s.selSlot.loadBefore 0 0), (buffered (.store .wm [(0x4000, [1, 2])]), .storeBufferDrain,
       fun s => s.selSlot.async.isEmpty && peerReach s 0 0 == some true), (buffered (.store .wm [(0x47F, [1, 2])]), .storeBufferDrain, always),
     (buffered (.feset .wm 0x4000 false), .feHomeOperation, fun s => s.selSlot.clearBefore 0 0 && (s.selSlot.findOp 0).isNone),
     (buffered (.stff .wm 0x4000 7), .feHomeOperation, fun s => s.feWaits.isEmpty), ({ buffered (.stfe .wm 0x4000 7) with
       empties := [wmKey 0 0x4000] }, .feHomeOperation, fun s => ! tagFull s (wmKey 0 0x4000)),
     (buffered (.stfe .wm 0x4000 7), .feHomeOperation, fun s => tagFull s (wmKey 0 0x4000))] := fires (by decide +kernel)

theorem test_storeBufferDrain : yields (buffered (.store .wm [(0x4000, [1, 2])])) (wmOf 0x4000 4) [(.storeBufferDrain, 0x201)] = true ∧
    yields (buffered .marker) bufferOf [(.storeBufferDrain, 0)] = true := by decide +kernel

/-- What a station is to write, and where. -/
def toWrite (a n : Nat) : State := on { num := a, data := List.replicate n 0xA5 } State.reset

theorem witness_StationWrites : Fires
    [(toWrite 0x1000 128, .stationWrite, fun s => s.powered && s.sel.num % 128 + s.sel.data.length == 128 &&
       noiseWritten s (physKey .hbm 0x1000) (s.sel.data.map some) == []),
     (toWrite 0x1060 32, .stationWrite, fun s => s.sel.num % 32 == 0 && ! s.sel.write)] := fires (by decide +kernel)

theorem test_stationWrite : yields (toWrite 0x1060 32) (fun t => ofBytes (readBytes t.mem (physKey .hbm 0x107F) 2)) [(.stationWrite, 0xA5)] = true := by
  decide +kernel

/-- The name of a barrier of core 0. -/
def someBarrier : BarName := ⟨0, .level 1 0, false, 0⟩

/-- A thread with a message for a core at the head of its queue. -/
def sending (dest : Nat) : State := on (slot1) (slotted fun x => { x with outq := [⟨dest, 0, 0, ⟨0, 3, 9, none⟩, false⟩] })

theorem witness_BarriersAndChannels : Fires
    [(pending (.g 3) (.barrier someBarrier 2), .barrierArrival, fun s => s.selSlot.clearBefore 0 0 && s.episodes.isEmpty),
     ({ pending (.g 3) (.barrier someBarrier 2) with episodes := [⟨someBarrier, 3, [(0, 2, 0)]⟩] }, .barrierArrival, fun s => s.selSlot.takes 0),
     ({ pending (.g 3) (.barrier someBarrier 2) with episodes := [⟨someBarrier, 2, [(0, 2, 0)]⟩] }, .barrierArrival, always),
     (sending 0, .channelDelivery, fun s => takesDirect s 0 0 && (s.core 0).recvs.isEmpty && s.selSlot.clearBefore 0 0),
     (sending 4095, .channelDelivery, fun s => ! takesDirect s 4095 0),
     ({ sending 0 with gaffer := { (sending 0).gaffer with msgs := [(0, ⟨0, 3, 9, none⟩)] } }, .channelDelivery, fun s => ! takesDirect s 0 0)] := fires (by decide +kernel)

theorem test_barrierArrival : yields (pending (.g 3) (.barrier someBarrier 1)) (fun t => t.episodes.length) [(.barrierArrival, 0)] = true ∧
    yields (pending (.g 3) (.barrier someBarrier 2)) (fun t => t.episodes.length) [(.barrierArrival, 1)] = true := by decide +kernel

theorem test_channelDelivery : yields (sending 0) (fun t => (t.core 0).rx.length) [(.channelDelivery, 1)] = true ∧
    yields (sending 5) (fun t => t.gaffer.msgs.length) [(.channelDelivery, 1)] = true := by decide +kernel

/-- A thread whose stream port t0 is bound to the record of four bytes. -/
def streaming : State := on (slot1) (ran (.sbind 24 1) (recorded []))

/-- Core 0 on the turn of its free slot 1, with a record in its deque and a block in its pool. -/
def seeking : State :=
  { cored (fun x => { x with dqLaunch := [none], pool := [5] }) with slots := [] }

theorem witness_StreamsAndThreads : Fires
    [(streaming, .streamElementArrival, fun s => s.selSlot.streams.any fun b => b.2.fetched == 0 && b.2.total == 1 && b.2.fifo.isEmpty
       && ! s.selSlot.storeBefore s.selSlot.tid b.2.seq && match streamNext s 0 b.2 with | .ok _ [] => true | _ => false),
     (on (slot1) (routing []), .routeSolveComplete, fun s => s.selSlot.solves.length == 1),
     (pending .none (.fork 0 (List.replicate 64 0)), .forkRecordPush, fun s => s.selSlot.clearBefore 0 0 && (s.core 0).depth == 0),
     (pending .none (.fork 8 (List.replicate 64 0)) (.done 0), .forkRecordPush, always),
     (seeking, .idleSlotSeek, fun s => lowestIdle s 0 == some s.hereSlot && (s.core 0).depth == 1)] := fires (by decide +kernel)

theorem test_threads_and_streams : yields (pending .none (.fork 0 (List.replicate 64 0))) (fun t => (t.core 0).depth) [(.forkRecordPush, 1)] = true ∧
    yields seeking (fun t => (t.slot 0 1).block) [(.idleSlotSeek, 5)] = true ∧
    yields (on (slot1) (routing [])) solving [(.routeSolveComplete, 0)] = true ∧
    yields streaming (fun t => ((t.slot 0 1).streams.map fun b => b.2.fifo.length).foldl (· + ·) 0) [(.streamElementArrival, 1)] = true := by
  decide +kernel

/-- The slot's command at engine e0: a copy of four bytes of WM onto themselves, counted in the object at 0x4400. -/
def copying : State := on {} (ran (.xcopy 1 1 8 0 0) (recorded (gs [(8, 0x4400 + 2 ^ 19)])))

/-- The same command at work. -/
def copyingNow : State := ran .engineCommandStart copying

/-- A collective of the one core in its scope. -/
def collecting : State := on { num := 3 } (ran .engineCommandStart (on { num := 3 } (ran (.xcoll 2 2 8) (recorded (gs [(8, 2 ^ 48)])))))

/-- A quad whose arbiter has granted the clearing of a tile. -/
def clearing : State := on {} (ran (.mmz 0 0) (user []))

theorem witness_EnginesAtWork : Fires
    [(copying, .engineCommandStart, fun s => startable s 0 0 1 && ((s.core 0).engine 0).run.isNone && ! startable s 0 0 0),
     (copyingNow, .engineCommandComplete, fun s => ((s.core 0).engine 0).run.any fun x =>
       ((Run.start s).execute 0 0 x.2).stop.isNone && hdrBaren x.2.hdr),
     (collecting, .engineCommandComplete, fun s => ((s.core 0).engine 3).run.any fun x => (EngCmd.shape s 0 x.2).isSome && s.colls.isEmpty),
     (on {} (ran .engineCommandComplete collecting), .collectiveComplete, fun s => s.colls.any fun k => k.full s),
     (clearing, .matrixOperationRetire, fun s => (s.quad 0).exec == some 0 && (s.core 0).matq.length == 1)] := fires (by decide +kernel)

theorem test_engines : yields copyingNow (wmOf 0x4400 8) [(.engineCommandComplete, 1)] = true ∧
    yields copying (fun t => natOf ((t.core 0).engine 0).run.isSome) [(.engineCommandStart, 1)] = true ∧
    yields (on {} (ran .engineCommandComplete collecting)) (fun t => t.colls.length) [(.collectiveComplete, 0)] = true ∧
    yields clearing queuedOps [(.matrixOperationRetire, 0)] = true := by decide +kernel

/-- A quad that holds its licence since TIME 0 while its twin waits. -/
def contested (x : Quad) (time : BitVec 64) : State :=
  ({ State.reset with time := time } : State).setQuad 0 { x with held := true } |>.setQuad (twinQuad 0) { Quad.reset with wait := true }

/-- A quad whose arbiter retires the clearing of a tile when its quantum has run out. -/
def passing : State :=
  let s := contested (clearing.quad 0) 50000
  on {} { clearing with time := 50000, quads := s.quads }

theorem witness_Licences : Fires
    [(passing, .matrixOperationRetire, fun s => (s.quad 0).held && (s.quad (twinQuad 0)).wait && (s.quad 0).exec == some 0
       && s.time.toNat - (s.quad 0).grant == 50000 && (s.core 0).matq.length == 1 && s.badBytes == []),
     (contested Quad.reset 50000, .licenceQuantumExpiry, fun s => s.time.toNat - (s.quad 0).grant == 50000),
     (contested Quad.reset 0, .licencePass, fun s => queuedLicensed s 0 == 0 && (s.quad 0).hold == 0 && ! s.paused),
     (contested { Quad.reset with hold := 1, yield := true } 0, .licencePass, fun s => (s.quad 0).exec.isNone && (s.quad 0).yield),
     (contested { Quad.reset with hold := 1, pre := true } 0, .licencePass, fun s => (s.quad 0).pre),
     ({ State.reset with
         quads := [(0, { Quad.reset with wait := true })]
         gaffer := { Gaffer.reset with quadReports := [(0, 2)] } }, .licenceService, fun s => reportedWait s 0 &&
       ! (s.quad 0).held && ! (s.quad (twinQuad 0)).held && ! reportedWait s (twinQuad 0))] := fires (by decide +kernel)

theorem test_licences : yields (contested Quad.reset 50000) (fun t => natOf (t.quad 0).yield) [(.licenceQuantumExpiry, 1)] = true ∧
    yields (contested Quad.reset 0) (fun t => natOf (t.quad (twinQuad 0)).held) [(.licencePass, 1)] = true ∧
    yields ({ State.reset with
      quads := [(0, { Quad.reset with wait := true })]
      gaffer := { Gaffer.reset with quadReports := [(0, 2)] } } : State) (fun t => natOf (t.quad 0).held) [(.licenceService, 1)] = true := by
  decide +kernel

/-- A launch of a packet. -/
def someLaunch (d : List Word) : LaunchSt :=
  { queue := 0, index := 0, packet := d, ctx := 0, next := 0, placed := true, reserved := [], blocks := [], granted := false,
    refused := [], failed := false, quietAt := some 0, hung := false }

/-- A launch whose one thread waits on a full/empty word since long ago. -/
def hanging : State :=
  let s := pending (.g 3) (.fe .ldfe .wm 0x4000 0) .waiting
  on {} ({ s with
    time := 4095
    gaffer := { s.gaffer with launches := [(0, someLaunch [])] } }.setSlot 0 1 { s.slot 0 1 with
      launch := some 0, park := some ⟨.marker, true, 0, false, 0, 0⟩ })

/-- A partition of domain 0 whose permits are left. -/
def somePart (permits : Nat) : Part :=
  { dmask := 1, ering := 0x40000, ectl := 0x40400, bthr := 1, esize := 4, permits := permits, charge := [], idle := 0, seq := 0 }

/-- A core of domain 0 runs a thread of a launch of priority 1. -/
def claiming (permits : Nat) : State :=
  let s := (user []).withFetchWord 32 0
  on {} ({ s with
    power := { Power.reset with parts := [(0, somePart permits)] }
    gaffer := { s.gaffer with launches := [(0, someLaunch [2 ^ 12 + 1])] } }.setSlot 0 1 { s.slot 0 1 with
      wspV := true, block := 1, launch := some 0 })

theorem witness_HangsAndLevels : Fires
    [(hanging, .hangDetected, fun s => launchQuiet s 0 && (listedSleep s 0 1).isSome),
     ({ (sup []) with power := { Power.reset with level := [(0, 11)] } }, .slotLevelApply, fun s => turnSlot s 0 == 0 &&
       setLevel s 0 != (s.core 0).level),
     ({ (sup []) with power := { Power.reset with level := [(0, 11)] } }, .nop, fun s => turnSlot s 0 == 0 && setLevel s 0 != (s.core 0).level),
     (State.reset, .boostIntervalBoundary, fun s => s.power.parts.isEmpty),
     (claiming 64, .boostIntervalBoundary, fun s => (claimsOf s (somePart 64)).length == 1 && s.power.thermal == 0)] := fires (by decide +kernel)

theorem test_hangs_and_levels : yields hanging trapOf [(.hangDetected, 0x65)] = true ∧
    yields ({ (sup []) with power := { Power.reset with level := [(0, 11)] } } : State) (fun t => (t.core 0).level) [(.slotLevelApply, 11)] = true ∧
    yields (claiming 64) (fun t => mapGet 12 t.power.level 0) [(.boostIntervalBoundary, 15)] = true := by decide +kernel

/-- A reading of sensor 79. -/
def reading (t : Nat) : State := on { num := 79, aux := t } State.reset

/-! How many levels there are depends on whether the part has a second tier, of which nothing is known. -/

theorem levelLimit_cases : levelLimit = 2 ∨ levelLimit = 3 := by
  unfold levelLimit
  split
  · exact .inr rfl
  · exact .inl rfl

theorem test_thermal_levels : levelOf 94 = 0 ∧ levelOf 95 = 1 ∧ levelOf 105 = 2 := by
  unfold levelOf
  rcases levelLimit_cases with h | h <;> rw [h] <;> decide

theorem witness_thermal_levels : (reading 94).Inv ∧ (reading 94).powered = true ∧ (reading 94).power.thermal = 0 ∧
    levelOf (hottest (mapSet 0 (reading 94).power.temps 79 94)) = 0 ∧
    0 < levelOf (hottest (mapSet 0 (reading 95).power.temps 79 95)) := by
  refine ⟨inv_of (by decide +kernel), rfl, rfl, ?_, ?_⟩
  · rw [show hottest (mapSet 0 (reading 94).power.temps 79 94) = 94 by decide]
    exact test_thermal_levels.1
  · rw [show hottest (mapSet 0 (reading 95).power.temps 79 95) = 95 by decide, test_thermal_levels.2.1]
    decide

theorem witness_ThermalAndTrip : Fires
    [(reading 125, .hardTrip, fun s => s.powered && s.sel.aux == 125), (reading 125, .thermalLevelEnter, fun s => s.powered && s.sel.aux == 125),
     (reading 126, .thermalLevelLeave, fun s => s.powered && s.sel.aux == 126), (State.reset, .standbyRailLoss, always),
     ({ State.reset with powered := false }, .powerGood, fun s => ! s.powered)] ∧ State.reset.mgmt.stage = 1 :=
  ⟨fires (by decide +kernel), rfl⟩

theorem test_trip : yields (reading 125) (fun t => natOf t.powered) [(.hardTrip, 0)] = true ∧
    yields ({ State.reset with powered := false } : State) (fun t => t.mgmt.stage.toNat) [(.powerGood, 1)] = true := by decide +kernel

/-- HBM with dwords placed at an address. -/
def placed (a : Nat) (l : List Nat) (s : State) : State :=
  applyAll s (lineWrite s (physKey .hbm a) ((l.map (toBytes 8)).flatten) false true).1

/-- A context that may reach the first GiB of HBM, on core 0 with a supervisor. -/
def based : State := on {} ({ State.reset.withFetchWord 32 0 with agenda := [] })

/-- A queue with ring, control block and context, and the packet it holds. -/
def someQueue (packet : Option (List Word)) : Queue :=
  { ring := 0x30000, ctl := 0x30400, ctxAddr := 0, qhold := 0, size := 4, level := 3, ridx := 0, widx := 0, stopped := false,
    slot := true, listed := false, packet := packet, waiting := false, pageAt := none, parked := false, running := [], status := none }

/-- The machine with queue 0. -/
def queueing (q : Queue) : State := { based with gaffer := { based.gaffer with queues := [(0, q)] } }

/-- A SIGNAL that adds 7 to the word at 0x30800. -/
def signalPacket : List Word := [0x203, 0x30800, 7, 0, 0, 0, 0, 0]

/-- A WAIT for the word at 0x30800 to equal a value. -/
def waitPacket (v : Word) : List Word := [2, 0x30800, v, 0, 0, 0, 0, 0]

/-- A BARRIER-AND of the word at 0x30800. -/
def barrierPacket : List Word := [4, 0x30800, 0, 0, 0, 0, 0, 0]

/-- A LAUNCH of one thread of one cohort on core 0, at 0x10000. -/
def launchOne : List Word := [1 + 2 ^ 16 + 2 ^ 22, 0x10000, 0x20000, 11, 12, 2 ^ 52 + 1, 0, 0]

/-- Whether a dword of the queue's process can be read, and its value. -/
def readsAs (s : State) (a : Nat) (v : Word) : Bool :=
  match (Run.start s).glDword (s.queueCtx (someQueue none)) a with
  | .ok x _ => x == v
  | _ => false

/-- A queue whose page stays away since TIME 0, at 200 microseconds. -/
def pageless : State := { queueing { someQueue (some (waitPacket 0)) with pageAt := some 0 } with time := 200000 }

/-- A queue with one packet pending, a SIGNAL in its ring. -/
def oneOf : State := placed 0x30000 (signalPacket.map BitVec.toNat) (queueing { someQueue none with widx := 1 })

/-- The same machine while its contexts have had no core yet. -/
def ungiven (s : State) : State :=
  { s with gaffer := { s.gaffer with ctxs := s.gaffer.ctxs.map fun e => (e.1, { e.2 with given := false }) } }

theorem witness_QueuePackets : Fires
    [(placed 0x30400 [16] (queueing (someQueue none)), .widxUpdate, fun s => readsAs s 0x30400 16), (placed 0x30400 [17] (queueing (someQueue none)),
       .widxUpdate, fun s => readsAs s 0x30400 17), (oneOf, .gafferServiceStep, fun s => serviceLevel s == some (3, false) &&
       nextQueue s 3 == some 0 && packetError (s.queueCtx (someQueue none)) signalPacket == none && readsAs s 0x30000 0x203),
     (pageless, .qholdExpiry, fun s => (List.range 4).all fun l => ! (waitList s l).contains 0),
     (queueing (someQueue (some (waitPacket 0))), .wait, fun s => (heldPacket s 2 false).isSome && readsAs s 0x30800 0),
     (queueing (someQueue (some (waitPacket 1))), .wait, fun s => readsAs s 0x30800 0),
     (queueing { someQueue (some (waitPacket 0)) with waiting := true }, .signalReread, fun s => ! statusWaits s 0 && (heldPacket s 2 true).isSome),
     (queueing { someQueue none with stopped := true, status := some 0x106 }, .signalReread, fun s =>
       match (Run.start s).glSetDword (s.queueCtx (someQueue none)) 0x30410 0x106 with
       | .ok _ _ => true
       | _ => false),
     (queueing { someQueue (some (waitPacket 1)) with waiting := true }, .signalReread, fun s => readsAs s 0x30800 0),
     (queueing (someQueue (some barrierPacket)), .barrierAnd, fun s => (heldPacket s 4 false).isSome && readsAs s 0x30800 0),
     (placed 0x30800 [1] (queueing (someQueue (some barrierPacket))), .barrierAnd, fun s => readsAs s 0x30800 1),
     (queueing (someQueue (some signalPacket)), .signal, fun s => (heldPacket s 3 false).isSome),
     (queueing (someQueue (some [5, 0, 100, 0, 0, 0, 0, 0])), .sceneFrame, fun s => (heldPacket s 5 false).isSome && (s.ctxAt 0).isSome),
     (ungiven (queueing (someQueue (some [5, 0, 100, 0, 0, 0, 0, 0]))), .sceneFrame, fun s => (heldPacket s 5 false).isSome &&
       s.gaffer.ctxs.all fun e => ! e.2.given)] :=
  fires (by decide +kernel)

theorem test_queues : yields (placed 0x30400 [16] (queueing (someQueue none))) (fun t => ((mapFind t.gaffer.queues 0).map fun q => q.widx.toNat).getD 0)
      [(.widxUpdate, 16)] = true ∧
    yields oneOf (fun t => natOf (((mapFind t.gaffer.queues 0).bind Queue.packet).isSome)) [(.gafferServiceStep, 1)] = true ∧
    yields (queueing (someQueue (some signalPacket))) (fun t => natOf (readsAs t 0x30800 7)) [(.signal, 1)] = true ∧
    yields pageless (fun t => natOf (t.gaffer.queues.any fun q => q.2.parked)) [(.qholdExpiry, 1)] = true := by decide +kernel

theorem test_wait : yields (queueing (someQueue (some (waitPacket 1)))) (fun t => natOf (t.gaffer.queues.any fun q => q.2.waiting))
      [(.wait, 1)] = true ∧
    yields (queueing (someQueue (some (waitPacket 0)))) (fun t => natOf (t.gaffer.queues.any fun q => q.2.packet.isSome)) [(.wait, 0)] = true ∧
    yields (queueing (someQueue (some barrierPacket))) (fun t => natOf (t.gaffer.queues.any fun q => q.2.packet.isSome)) [(.barrierAnd, 0)] = true := by
  decide +kernel

/-- The Gaffer with a queue that has started a LAUNCH, on a machine whose cores are free. -/
def launching : State :=
  let s := queueing (someQueue (some launchOne))
  { s with cores := [], slots := [] }

/-- The launch in the table, at TIME 1,000, with a report of core 0. -/
def waitingLaunch : State :=
  let s := ran .launch launching
  { s with time := 1000, gaffer := { s.gaffer with reports := [(0, ⟨15, fromTo 1 61, [], none, true⟩)] } }

/-- The same launch when core 0 has gone to another context since its report. -/
def refusing : State := { waitingLaunch with cores := [(0, { CoreSt.reset with ctx := some 1 })] }

/-- A cohort reserved on a core that stands in the context. -/
def reserved : State :=
  { based with
    slots := []
    gaffer := { based.gaffer with
      launches := [(0, { someLaunch launchOne with placed := false, granted := true, reserved := [(0, 1, 1)] })] } }

/-- A launch all of whose threads are gone. -/
def emptied : State := { based with slots := [], gaffer := { based.gaffer with launches := [(0, someLaunch launchOne)] } }

theorem witness_Launches : Fires
    [(launching, .launch, fun s => (openLaunch s 0).isNone && (heldPacket s 1 false).isSome && launchError launchOne == none &&
       (launchPacket launchOne).wsig == 0 && s.gaffer.reports.isEmpty), (waitingLaunch, .launch, fun s => (openLaunch s 0).any fun y =>
       ! y.2.granted && y.2.refused.isEmpty && fittingGroup s 0 y.1 (launchPacket launchOne) false == some [0] &&
         coreGrants s 0 y.1 0 1 (launchPacket launchOne)),
     (refusing, .launch, fun s => (openLaunch s 0).any fun y =>
       fittingGroup s 0 y.1 (launchPacket launchOne) false == some [0] && ! coreGrants s 0 y.1 0 1 (launchPacket launchOne)),
     (reserved, .cohortWrite, fun s => ! slotOff s 0 1 && (mapFind s.gaffer.launches 0).any fun y => y.granted && y.reserved == [(0, 1, 1)]),
     (emptied, .launchComplete, fun s => ! launchLives s 0 && ! recordsLeft s 0), (on { num := 3 } State.reset, .dieReport, always)] :=
  fires (by decide +kernel)

theorem test_launch : yields launching (fun t => t.gaffer.launches.length) [(.launch, 1)] = true ∧
    yields reserved (fun t => (t.slot 0 1).launch.getD 9 + (t.slot 0 1).block) [(.cohortWrite, 1)] = true ∧
    yields reserved (gOf 3) [(.cohortWrite, 11)] = true ∧ yields reserved pcOf [(.cohortWrite, 0x10000)] = true ∧
    yields emptied (fun t => t.gaffer.launches.length) [(.launchComplete, 0)] = true := by decide +kernel

/-- The supervisor's load of an address waits for the page of it, for which a request is out since TIME 0. -/
def paging (addr tries : Nat) (yes : Bool) (time : BitVec 64) : State :=
  let o := { based.newOp (.g 3) (.load .gl [⟨addr, 8, 0⟩] 0 (BitVec.allOnes 128)) .paged with tries := tries }
  let s := placed 0x2040 [0x40000000, 0x40100000, 0, 1 + 2 + 4 + 8 + 128, 0, 0, 0, 0] based
  on { num := 0, aux := addr / 4096, yes := yes } ({ s with
    time := time
    gaffer := { s.gaffer with ctxs := [(0, { probeContext with rcnt := 2 })] }
    pageReqs := [⟨0, addr / 4096, false, 0, []⟩] }.setSlot 0 0 { Slot.reset with
      wspV := true, async := [o], seq := 1, park := some ⟨.marker, true, 0, false, 0, 0⟩ })

/-- What the statement of page replies asks of a state. -/
def pages (s : State) : Bool :=
  s.powered && (requestOf s).isSome && s.slots.map Prod.fst == [0] && (s.slot 0 0).takes 0 && (s.slot 0 0).sb.isEmpty
    && (s.core 0).ctx.isSome && s.feWaits.isEmpty && s.colls.isEmpty && (s.cores.all fun e => e.2.engines.isEmpty)
    && (s.gaffer.ctxs.all fun e => e.2.scene.isNone) && s.gaffer.queues.isEmpty && s.gaffer.launches.isEmpty && s.gaffer.saves.isEmpty

/-- The pages from 1 GiB on are there to be paged in; none of them is present. -/
def away : Nat := 0x40000000

theorem witness_PageReplies : Fires
    [(paging 0x5000 0 false 0, .pageRequestReply, pages), (paging 0x5000 0 true 100000000, .pageRequestTimeout, pages),
     (paging 0x5000 0 true 0, .pageRequestReply, fun s => pages s && ! pageAbsent s (s.ctxOf 0) 5),
     (paging away 0 true 0, .pageRequestReply, fun s => pages s && pageAbsent s (s.ctxOf 0) 0x40000),
     (paging away 2 true 0, .pageRequestReply, pages)] := fires (by decide +kernel)

theorem test_pages : yields (paging 0x5000 0 false 0) (fun t => (t.slot 0 0).faults.length) [(.pageRequestReply, 1)] = true ∧
    yields (paging 0x5000 0 true 0) (fun t => (t.slot 0 0).faults.length + t.pageReqs.length) [(.pageRequestReply, 0)] = true ∧
    yields (paging away 0 true 0) (fun t => (t.slot 0 0).faults.length + t.pageReqs.length) [(.pageRequestReply, 1)] = true ∧
    yields (paging away 2 true 0) (fun t => (t.slot 0 0).faults.length) [(.pageRequestReply, 1)] = true ∧
    yields (paging 0x5000 0 true 100000000) (fun t => (t.slot 0 0).faults.length) [(.pageRequestTimeout, 1)] = true := by decide +kernel

/-! ### Pre-emption and the Lehr -/

/-- A machine with a save region of one area, whose first core is to be pre-empted. -/
def interrupting : State := { based with gaffer := { based.gaffer with saveBase := 0x100000, saveSize := 0x80000 } }

/-- That core with its interrupt taken. -/
def interrupted : State := ran .preemptionInterrupt interrupting

/-- A complete save area of context 0 on core 0, and a message spilled to it. -/
def someArea (spill : List Msg) : SaveArea :=
  { addr := 0x100000, size := 0x80000, pos := 0, goal := none, left := false, pid := 0, ctx := 0, time := 7, complete := true,
    core := { CoreSt.reset with sgm := 5 }, slots := [(3, { Slot.reset with wspV := true, block := 3 })], mem := [(0x5000, 0xA5)],
    empties := [], spill := spill }

/-- A machine whose one context stands in a save area. -/
def saved (spill : List Msg) : State :=
  { based with
    cores := []
    slots := []
    gaffer := { based.gaffer with saves := [(0, someArea spill)] } }

/-- A message of the process. -/
def someMsg : Msg := ⟨0, 3, 9, none⟩

/-- The Gaffer with a message for a core. -/
def holding (d : Nat) (m : Msg) (saves : Map SaveArea) : State :=
  { based with gaffer := { based.gaffer with msgs := [(d, m)], saves := saves } }

/-- A context that has come back to its core while its spill queue has not. -/
def returning : State :=
  on { num := 0, yes := true } { based with gaffer := { based.gaffer with
    saves := [(0, { someArea [someMsg] with left := true, complete := false })] } }

theorem witness_Preemption : Fires
    [(interrupting, .preemptionInterrupt, fun s => ! s.paused && (s.core 0).ctx == some 0 && (s.core 0).pre.isNone &&
       newArea s (otherAreas s 0 0) 0 false == some 0x100000), (interrupted, .preemptionSave, fun s => (s.core 0).pre.isSome && (s.core 0).matq.isEmpty &&
       (s.gaffer.saves.any fun e => e.2.pos == 0 && ! e.2.left && ! e.2.complete) && (List.range 16).all (slotHeld s 0) &&
       (List.range 4).all (engineHeld s 0)),
     (saved [], .contextResume, fun s => mayResume s (someArea []) 0 && s.power.thermal == 0 && Memory.wf (someArea []).mem),
     (holding 5 ⟨7, 3, 9, none⟩ [], .messageForward, fun s => routeOf s 5 7 0 == .drop),
     (holding 5 someMsg [(0, { someArea [] with pos := 5 })], .messageForward, fun s => routeOf s 5 0 0 == .spill 0),
     (holding 0 someMsg [], .messageForward, fun s => routeOf s 0 0 0 == .core 0 && (s.core 0).rx.isEmpty),
     (returning, .messageForward, fun s => (s.core 0).ctx == some 0 && (s.core 0).pre.isNone)] := fires (by decide +kernel)

theorem test_preemption : yields interrupting (fun t => natOf (t.core 0).pre.isSome + t.gaffer.saves.length) [(.preemptionInterrupt, 2)] = true ∧
    yields interrupted (fun t => natOf (t.gaffer.saves.all fun e => e.2.complete)) [(.preemptionSave, 1)] = true ∧
    yields (saved []) (fun t => (t.core 0).sgm.toNat + (t.slot 0 3).block + t.gaffer.saves.length) [(.contextResume, 8)] = true ∧
    yields (saved []) (wmOf 0x5000 2) [(.contextResume, 0xA5)] = true := by decide +kernel

theorem test_messageForward : yields (holding 0 someMsg []) (fun t => (t.core 0).rx.length) [(.messageForward, 1)] = true ∧
    yields (holding 5 ⟨7, 3, 9, none⟩ []) (fun t => t.gaffer.msgs.length) [(.messageForward, 0)] = true ∧
    yields (holding 5 someMsg [(0, { someArea [] with pos := 5 })]) (fun t => (t.gaffer.saves.map fun e => e.2.spill.length).sum)
      [(.messageForward, 1)] = true ∧
    yields returning (fun t => (t.core 0).rx.length + t.gaffer.saves.length) [(.messageForward, 1)] = true := by decide +kernel

/-- A scene of one layer. -/
def oneLayer : Scene :=
  { someScene with desc := [0x40000, 0x50000, 2 ^ 32 + 4 * 2 ^ 16 + 4, 0x60000, 4, 0x3FF0000000000000, 0x3FF0000000000000, 0, 0,
      0, 0x60800, 0x61000, 0x61000, 0x61000, 0x61000, 0] }

/-- A supervisor of a context with a scene, which has one layer instruction outstanding. -/
def layered (l : LayerOp) (sc : Scene) : State :=
  ({ based with gaffer := { based.gaffer with ctxs := [(0, { probeContext with scene := some sc })] } }).setSlot 0 0
    { Slot.reset with wspV := true, async := [based.newOp (.g 3) (.layer l)], seq := 1 }

/-- A layer instruction. -/
def layerOp (op : BitVec 8) (a : Word) : LayerOp := ⟨op, 0, a, 0, 0, 0⟩

/-- The schedule of one frame, due now. -/
def dueNow : Schedule := { queue := some 0, index := 0, first := 0, period := 1000, count := 1, signal := 0, next := 0, cut := none }

/-- A frame in progress, with no live layer. -/
def emptyRun : FrameRun :=
  { n := 0, time := 0, last := false, signal := 0, entries := [], sides := [], faults := [], shpen := 0, touched := [] }

/-- The scene of that frame. -/
def framed : Scene := { oneLayer with run := some emptyRun }

/-- What the statement of the Lehr's steps asks of a layer instruction that arrives. -/
def arrives (s : State) : Bool := (s.ctxAt 0).isSome && (s.core 0).ctx == some 0 && (layerDue s 0 0 0).isSome && (s.slot 0 0).takes 0

theorem witness_LehrSteps : Fires
    [(layered (layerOp 0x80 9) oneLayer, .layerInstructionPerform, arrives),
     (layered (layerOp 0x3D 0x61000) oneLayer, .layerInstructionPerform, fun s => arrives s &&
       match ((Run.start s).forScene probeContext oneLayer).layerPerform 0 { probeContext with scene := some oneLayer } oneLayer
         (layerOp 0x3D 0x61000) with
       | .ok (.ok v) _ => v == 0
       | _ => false),
     (layered (layerOp 0x43 1) oneLayer, .layerInstructionPerform, fun s => arrives s && oneLayer.lcount == 1),
     (layered (layerOp 0x80 9) { oneLayer with sched := [dueNow] }, .frameStart, fun s => dueNow.live && s.time == 0 &&
       match ((Run.start s).forScene probeContext oneLayer).beginFrame 0 { probeContext with scene := some { oneLayer with sched := [dueNow] } }
         { oneLayer with sched := [dueNow] } dueNow [] with
       | .ok _ _ => true
       | _ => false),
     (layered (layerOp 0x80 9) framed, .frameEnd, fun s =>
       let x := { probeContext with scene := some framed }
       match ((((Run.start s).forScene x framed).drawLayers x framed emptyRun emptyRun.entries).bind fun ds r =>
           r.finalEntries x framed emptyRun ds).bind fun ds r => (r.compose x framed 0 (ds.map Prod.fst)).bind fun _ r =>
             (r.updateLayers 0 x framed emptyRun ds).bind fun _ r => r.closeFrame 0 x framed emptyRun with
       | .ok _ _ => true
       | _ => false)] := fires (by decide +kernel)

/-- What is seen of the scene. -/
def sceneOf (f : Scene → Nat) (t : State) : Nat := (((mapFind t.gaffer.ctxs 0).bind Context.scene).map f).getD 77

theorem test_lehr : yields (layered (layerOp 0x80 9) oneLayer) (fun t => (t.core 0).shpen.toNat + sceneOf (fun z => z.shpen.toNat) t)
      [(.layerInstructionPerform, 18)] = true ∧
    yields (layered (layerOp 0x43 1) oneLayer) (fun t => ((t.slot 0 0).faults.map fun f => f.cause.toNat).sum)
      [(.layerInstructionPerform, 0x90)] = true ∧
    yields (layered (layerOp 0x80 9) { oneLayer with sched := [dueNow] }) (sceneOf fun z => z.frame.toNat + natOf z.run.isSome) [(.frameStart, 2)] = true ∧
    yields (layered (layerOp 0x80 9) framed) (sceneOf fun z => natOf z.run.isSome) [(.frameEnd, 0)] = true := by decide +kernel

/-- `lnew` takes the free id 0 and makes its entry allocated (08 R259). -/
theorem test_lnew : yields (layered (layerOp 0x3D 0x61000) oneLayer) (fun t => match (Run.start t).readLayer probeContext oneLayer 0 with
    | .ok e _ => layerState e + layerSurf e
    | _ => 0) [(.layerInstructionPerform, 0x61001)] = true := by decide +kernel

/-! ### The mailbox, images, identity and the links -/

/-- A machine in a start stage, whose host has started a command with some dwords of its request, each an offset and the
value. -/
def boxed (opc stage : Nat) (l : List (Nat × Nat)) (f : Mgmt → Mgmt := id) : State :=
  { based with
    mgmt := f { Mgmt.reset with
      mbcmd := BitVec.ofNat 64 (2 ^ 63 + opc)
      stage := BitVec.ofNat 8 stage
      payload := l.foldl (fun m e => writeBytes m e.1 (toBytes 8 e.2)) [] }
    link := { Link.reset with up := true } }

/-- RESULT and DETAIL of MBSTAT, when GO is 0. -/
def answered (t : State) : Nat := if t.mgmt.go then 0xF00000 else t.mgmt.detail.toNat * 2 ^ 8 + t.mgmt.result.toNat

/-- A write of the host at an offset of BAR 0. -/
def written (off : Nat) (bs : List Byte) : State :=
  on { num := off, data := bs } { boxed 0 5 [] with mgmt := { Mgmt.reset with stage := 5 } }

/-- 1,024 queues stand registered. -/
def crowded : State :=
  let s := boxed 2 5 [(0x18, 16)]
  { s with gaffer := { s.gaffer with queues := (List.range 1024).map fun k => (k, someQueue none) } }

/-- The commands, each with its code and the stage from which it is available. -/
def commands : List (Nat × Nat × Instr) :=
  [(0x01, 1, .status), (0x02, 5, .qreg), (0x03, 5, .qunreg), (0x04, 5, .part), (0x05, 5, .savereg), (0x06, 5, .inval), (0x07, 5, .lmeta),
   (0x08, 5, .scrub), (0x09, 5, .errcnt), (0x0A, 1, .staging), (0x0B, 5, .stage), (0x0C, 5, .horead)]

theorem witness_MailboxRules : Fires (
    (commands.map fun c => (boxed c.1 (c.2.1 - 1) [], c.2.2, fun s : State => s.mgmt.go && ! s.paused && s.mgmt.opc == c.1)) ++
    ([(6, Instr.inval), (7, .lmeta), (8, .scrub)].flatMap fun c =>
      [(boxed c.1 5 [(0, 2 ^ 20)], c.2, fun s : State => decide (5 ≤ s.mgmt.stage.toNat)),
       (boxed c.1 5 [(0, 2 ^ 20 - 1), (8, 2 ^ 57)], c.2, fun s => decide ((request s 0).toNat < 2 ^ 20))]) ++
    [(boxed 7 5 [(8, 64)], .lmeta, always), (boxed 8 5 [(8, 16)], .scrub, always), (boxed 8 5 [(16, 129)], .scrub, always),
     (boxed 8 5 [], .scrub, always), (boxed 3 5 [], .qunreg, fun s => s.gaffer.queues.isEmpty), (boxed 11 5 [(0, 16)], .stage, always),
     (boxed 11 5 [(0, 15)] fun m => { m with repl := 4 }, .stage, fun s => ! s.paused),
     (boxed 11 5 [(0, 15)] fun m => { m with late := true }, .stage, fun s => s.mgmt.repl == 0),
     (crowded, .qreg, fun s => ((queueChecks s).find? fun c => c.2) == none && decide (1024 ≤ s.gaffer.queues.length)),
     (written 0x1FFF [7], .registerWrite, fun s => ! s.mgmt.go && s.link.up), (written 8 [7, 7], .registerWrite, always),
     ({ written 0 [7] with mgmt := { Mgmt.reset with mbcmd := 2 ^ 63 + 1 } }, .registerWrite, fun s => s.mgmt.go),
     (written 0 (toBytes 8 (2 ^ 63 + 0x0D)), .registerWrite, fun s => ! s.paused), (written 0 (toBytes 8 (2 ^ 63 + 1)), .registerWrite, always)]) :=
  fires (by decide +kernel)

theorem test_refused_commands : (commands.all fun c => yields (boxed c.1 (c.2.1 - 1) []) answered [(c.2.2, 3)]) = true ∧
    yields (boxed 6 5 [(0, 2 ^ 20)]) answered [(.inval, 4)] = true ∧ yields (boxed 8 5 []) answered [(.scrub, 0x1004)] = true ∧
    yields (boxed 7 5 [(8, 64)]) answered [(.lmeta, 0x804)] = true ∧ yields (boxed 3 5 []) answered [(.qunreg, 4)] = true := by decide +kernel

theorem test_registerWrite : yields (written 0 (toBytes 8 (2 ^ 63 + 0x0D))) answered [(.registerWrite, 2)] = true ∧
    yields (written 0 (toBytes 8 (2 ^ 63 + 1))) answered [(.registerWrite, 0xF00000)] = true ∧
    yields (written 0x1008 [7]) (fun t => (request t 8).toNat) [(.registerWrite, 7)] = true := by decide +kernel

/-- A command whose request is in order, in stage FULL. -/
def inFull (opc : Nat) (l : List (Nat × Nat)) : State := boxed opc 5 l

/-- Whether a command is started that is available. -/
def available (s : State) : Bool := s.mgmt.go && ! s.paused && decide (5 ≤ s.mgmt.stage.toNat)

/-- Whether an address of process 0 has a place in HBM for an access. -/
def hasPlace (s : State) (va : Nat) (k : Access) : Bool :=
  match commandPlace s 0 va k with
  | (_, .ok _) => true
  | (_, .error _) => false

theorem witness_Commands : Fires
    [(boxed 1 1 [], .status, fun s => s.mgmt.go), (inFull 6 [(0, 9), (8, 2 ^ 57 - 1), (16, 2 ^ 57)], .inval, fun s => available s &&
       s.gaffer.ctxs.all fun e => e.2.pid != 9), (inFull 6 [], .inval, fun s => available s && s.gaffer.ctxs.length == 1 &&
       s.gaffer.ctxs.all fun e => e.2.pid == 0 && e.2.given && match (Run.start s).hbm (e.2.xlat.toNat % 2 ^ 52) 64 with
         | .ok _ _ => true
         | _ => false),
     (inFull 7 [(8, 0x30000)], .lmeta, fun s => available s && hasPlace s 0x30000 .read),
     (inFull 7 [(8, 0x40000000)], .lmeta, fun s => ! hasPlace s 0x40000000 .read),
     (inFull 8 [(8, 0x30020), (16, 1)], .scrub, fun s => available s && hasPlace s 0x30020 .write),
     (inFull 8 [(8, 0x40000000), (16, 1)], .scrub, fun s => ! hasPlace s 0x40000000 .write), (inFull 9 [], .errcnt, available),
     (boxed 12 5 [] fun m => { m with handover := [1, 2] }, .horead, available),
     (inFull 5 [(0, 0x100000), (8, 0x80000)], .savereg, fun s => available s && s.power.retained.isEmpty),
     (boxed 10 1 [(0, 0x1000)], .staging, fun s => s.mgmt.stage != 3),
     (inFull 4 [(0, 15), (8, 1), (0x10, 0x40000), (0x18, 0x40400), (0x20, 0x104)], .part, fun s => available s && s.power.retained.isEmpty),
     (inFull 2 [(0, 0x30000), (8, 0x30400), (0x10, 0x50000), (0x18, 19)], .qreg, fun s => available s && ((queueChecks s).find? fun c => c.2) == none),
     ({ inFull 3 [] with gaffer := { based.gaffer with queues := [(0, someQueue none)] } }, .qunreg, available)] := fires (by decide +kernel)

/-- Dword k of the payload. -/
def reply (k : Nat) (t : State) : Nat := (request t (8 * k)).toNat

theorem test_commands : yields (boxed 1 1 []) answered [(.status, 0)] = true ∧ yields (inFull 9 []) (reply 0) [(.errcnt, 4)] = true ∧
    yields (boxed 12 5 [] fun m => { m with handover := [1, 2] }) (reply 0) [(.horead, 0x201)] = true ∧
    yields (inFull 7 [(8, 0x40000000)]) (fun t => t.mgmt.result.toNat) [(.lmeta, 5)] = true ∧
    yields (inFull 5 [(0, 0x100000), (8, 0x80000)]) (fun t => t.gaffer.saveBase + t.gaffer.saveSize) [(.savereg, 0x180000)] = true ∧
    yields (inFull 4 [(0, 15), (8, 1), (0x20, 0x104)]) (fun t => ((mapFind t.power.parts 15).map Part.permits).getD 0) [(.part, 64)] = true := by
  decide +kernel

theorem test_queue_commands : yields (inFull 2 [(0, 0x30000), (8, 0x30400), (0x10, 0x50000), (0x18, 19)])
      (fun t => ((mapFind t.gaffer.queues 0).map fun q => q.ring + q.size + q.level).getD 0) [(.qreg, 0x30007)] = true ∧
    yields ({ inFull 3 [] with gaffer := { based.gaffer with queues := [(0, someQueue none)] } } : State) (fun t => t.gaffer.queues.length)
      [(.qunreg, 0)] = true ∧
    yields (inFull 8 [(8, 0x10000), (16, 1)]) (fun t => ofBytes (readBytes t.mem (physKey .hbm 0x10000) 4)) [(.scrub, 0)] = true := by
  decide +kernel

/-- An image of layer 2. -/
def someImage : Image :=
  { layer := 2, major := 1, minor := 0, svn := 1, hmajor := 0, hminmin := 0, hschema := 0, entries := [], measure := List.replicate 64 0xA5 }

/-- A live replacement that stands in a state since TIME 0. -/
def replacing (repl : BitVec 4) (time : BitVec 64) (f : Replace → Replace := id) (x : Sel := {}) : State :=
  on x { based with
    time := time
    link := { Link.reset with up := true }
    mgmt := { Mgmt.reset with
      stage := 5
      repl := repl
      handover := List.replicate 0x50 0
      replace := some (f { image := someImage, since := 0, next := 1, missed := 0, beatAt := none, redo := none, before := [] }) } }

/-- Keys are being derived. -/
def derivingKeys (stage : BitVec 8) (next : Nat) : State :=
  { based with mgmt := { Mgmt.reset with stage := stage, derive := some { next := next, code := 0, layer := 1 } } }

theorem witness_Replacement : Fires
    [(derivingKeys 2 0, .keyDerivationComplete, fun s => s.power.parts.isEmpty && ! s.mgmt.staged), (derivingKeys 4 1, .keyDerivationComplete, always),
     (derivingKeys 4 3, .keyDerivationComplete, always), (derivingKeys 5 3, .keyDerivationComplete, always),
     ({ derivingKeys 4 3 with link := { Link.reset with up := true } }, .keyDerivationComplete, fun s => s.link.up),
     (boxed 11 5 [(0, 15)], .stage, fun s => s.mgmt.repl == 0 && match (Run.start s).directory with
       | .ok e _ => e.length == 16
       | _ => false),
     (replacing 2 10000000, .quiesceTimeout, always), (replacing 2 9999999, .quiesceSafePoint, always), (replacing 4 0, .heartbeat, always),
     (replacing 4 0 id { write := true, yes := true }, .heartbeat, always), (replacing 4 0 id { write := true }, .heartbeat, always),
     (replacing 4 1000000 fun p => { p with missed := 2 }, .probationDeadline, fun s => s.mgmt.replace.any fun p => decide (p.deadline ≤ s.time.toNat)),
     (replacing 4 3000000 fun p => { p with next := 3, beatAt := some 1 }, .probationDeadline, fun s => s.mgmt.recordState != 2),
     (replacing 4 1000000, .probationDeadline, always),
     (replacing 4 100000000 fun p => { p with next := 100, beatAt := some 1 }, .probationDeadline, always),
     (replacing 5 0, .fallback, fun s => ! s.mgmt.go && match (Run.start s).directory.bind fun e r => r.reinstall e 2 [] [1, 2, 3] [] with
       | .ok l _ => l.isEmpty
       | _ => false)] := fires (by decide +kernel)

theorem test_replacement : yields (derivingKeys 2 0) (fun t => t.mgmt.stage.toNat) [(.keyDerivationComplete, 3)] = true ∧
    yields (derivingKeys 4 3) (fun t => t.mgmt.stage.toNat) [(.keyDerivationComplete, 5)] = true ∧
    yields (replacing 2 10000000) (fun t => t.mgmt.repl.toNat + t.mgmt.result.toNat) [(.quiesceTimeout, 9)] = true ∧
    yields (replacing 4 0 id { write := true }) (fun t => t.mgmt.repl.toNat) [(.heartbeat, 5)] = true ∧
    yields (replacing 4 1000000 fun p => { p with missed := 2 }) (fun t => t.mgmt.repl.toNat) [(.probationDeadline, 5)] = true ∧
    yields (replacing 4 1000000) (fun t => t.mgmt.repl.toNat) [(.probationDeadline, 4)] = true ∧
    yields (replacing 5 0) (fun t => t.mgmt.repl.toNat) [(.fallback, 0)] = true := by decide +kernel

/-- A directory of zeros names an image that fails the first check. -/
theorem test_stage : yields (boxed 11 5 [(0, 15)]) answered [(.stage, 0xD20104)] = true := by decide +kernel

/-- The host link is up, and a request or access arrives. -/
def asked (x : Sel) : State := on x { based with
  link := { Link.reset with up := true, trained := true }
  mgmt := { Mgmt.reset with stage := 5 } }

theorem witness_Spdm : Fires (
    ([.getVersion, .getCapabilities, .negotiateAlgorithms, .getDigests, .getCertificate, .challenge, .getMeasurements].map fun i =>
      (asked { num := 0 }, i, fun s : State => s.link.up)) ++
    [(asked { num := 0xFF }, .getMeasurements, always), (asked { num := 4, yes := true }, .getMeasurements, always),
     (asked { slot := 1 }, .getCertificate, always), (asked { slot := 1 }, .challenge, always),
     ({ asked {} with mgmt := { Mgmt.reset with keys := [(3, { p := 0, q := 0 })] } }, .challenge, fun s => s.mgmt.derive.isNone && (mapFind s.mgmt.keys 3).isSome)]) :=
  fires (by decide +kernel)

/-- What a peer does to a dword of HBM at 0x5000. -/
def peering (slot core aux : Nat) (l : List (Nat × Nat × Nat) := []) : State :=
  let s := asked { num := 0x5000, slot := slot, core := core, aux := aux, data := toBytes 8 5 }
  l.foldl (fun s e => placed e.1 [e.2.1] s) s

/-- The dword of HBM there. -/
def hbmAt (a : Nat) (t : State) : Nat := ofBytes (readBytes t.mem (physKey .hbm a) 8)

/-- Whether an address of HBM can be read plainly. -/
def reads (a : Nat) (s : State) : Bool :=
  match physRead s .hbm a 8 false with
  | (_, .ok _) => inTier false a 8
  | _ => false

theorem witness_Links : Fires
    [(asked { num := 7, aux := 16, yes := true }, .linkTraining, fun s => ! s.mgmt.staged && ! linkLapses s && linkWidth s.sel.aux == some 16),
     (asked {}, .linkDown, fun s => s.link.up), ({ State.reset with time := 10000000 }, .linkDownTimeout, fun s => ! s.link.up && ! s.link.expired
       && s.pageReqs.isEmpty && s.mgmt.stage != 3 && s.slots.isEmpty && s.cores.isEmpty && s.colls.isEmpty && s.gaffer.ctxs.isEmpty
       && s.gaffer.queues.isEmpty && s.gaffer.launches.isEmpty && ! s.mgmt.go && s.mgmt.replace.isNone), (asked { num := 5, yes := true }, .kenlinkTraining, fun s => ! linkLapses s),
     (asked { num := 9 }, .peerDeviceFailed, fun s => s.link.failed.isEmpty),
     (asked { num := 0x5000, aux := 8 }, .hostDeviceMemoryAccess, fun s => reads 0x5000 s && decide (2 ≤ s.mgmt.stage.toNat)),
     (asked { num := 0x5000, write := true, data := [1, 2] }, .hostDeviceMemoryAccess, fun s => match physWrite s .hbm 0x5000 [1, 2] false true with
       | (_, .ok _) => true
       | _ => false),
     (asked { slot := 1, num := 2 ^ 52 - 2, write := true, data := [1, 2] }, .hostDeviceMemoryAccess, always),
     (asked { slot := 2, num := 0x1FF8, aux := 8 }, .hostDeviceMemoryAccess, always),
     ({ peering 3 0 8 with empties := [physKey .hbm 0x5000] }, .peerGlAccess, fun s => ! tagFull s (physKey .hbm 0x5000)),
     (peering 0 0 8, .peerGlAccess, reads 0x5000), (peering 1 0 8, .peerGlAccess, fun s => reads 0x5000 s && s.link.trained)] := fires (by decide +kernel)

theorem test_link_steps : yields (asked { num := 7, aux := 16, yes := true }) (fun t => t.link.gen + t.link.width) [(.linkTraining, 23)] = true ∧
    yields (asked { num := 0x5000, write := true, data := [1, 2] }) (hbmAt 0x5000) [(.hostDeviceMemoryAccess, 0x201)] = true ∧
    yields (peering 1 0 8) (hbmAt 0x5000) [(.peerGlAccess, 5)] = true ∧
    yields (asked {}) (fun t => natOf t.link.up) [(.linkDown, 0)] = true := by decide +kernel

/-- A peer's load waits while the dword is empty. -/
theorem test_peer_waits : yields ({ peering 3 0 8 with empties := [physKey .hbm 0x5000] } : State) (fun t => t.feWaits.length)
    [(.peerGlAccess, 1)] = true := by decide +kernel

/-- The host reads GO and the opcode of MBCMD, and its last payload byte. -/
theorem test_bar_reads : yields ({ asked { slot := 2, num := 0, aux := 8 } with mgmt := { Mgmt.reset with mbcmd := 2 ^ 63 + 1 } } : State)
    (fun t => ((t.link.hostReply.map fun p => ofBytes p.1).getD 0)) [(.hostDeviceMemoryAccess, 2 ^ 63 + 1)] = true := by decide +kernel

/-! ### The machine as a whole -/

theorem witness_DecodeEncode : [Instr.add 3 1 2, .jal 0x3FFFFF, .bget 22 32].all (fun i => wellFormed i && (encode i).isSome
    && (encodeLone i true).isSome) = true ∧ decodeWord 0xC0000000 = .ok (.add 0 0 0) := ⟨by decide +kernel, rfl⟩

/-- Assigned opcodes whose words no instruction has, and opcodes that are not assigned. -/
theorem witness_ReservedEncodings : decodeWord 0xC0000001 = .error .reservedField ∧ decodeWord 0x84800000 = .error .reservedOp ∧
    decodeWord 0xC9C00000 = .error .reservedOp ∧ decodeWord 0xDC400000 = .error .reservedOp := ⟨rfl, rfl, rfl, rfl⟩

/-- Conditions that a state in canonical form meets, with a step that it takes. -/
def Steps (l : List (State × (State → Bool))) : Prop := ∀ p ∈ l, p.1.Inv ∧ p.2 p.1 = true ∧ ∃ t, step p.1 = .next t

theorem steps {l : List (State × (State → Bool))}
    (h : (l.all fun p => canonical p.1 && p.2 p.1 && match step p.1 with
      | .next _ => true
      | _ => false) = true) : Steps l := by
  intro p hp
  have := List.all_eq_true.mp h p hp
  simp only [Bool.and_eq_true] at this
  refine ⟨inv_of this.1.1, this.1.2, ?_⟩
  have h2 := this.2
  split at h2
  · exact ⟨_, by assumption⟩
  · cases h2

/-- The supervisor's turn at a word. -/
def atWord (w : Nat) : State := State.reset.withFetchWord 32 w

/-- The turn that stands first on the agenda. -/
def turned (s : State) : State := { s with agenda := [], sel := { core := 0 } }

/-- The conditions of `evenTurn` and `eligible`, but for what the park and the faults say. -/
def evenly (s : State) : Bool :=
  s.powered && (s.hereSlot != 0 || setLevel s s.hereCore == s.hereOf.level) && s.sel.num == 0
    && ! slotBarred s s.hereCore s.hereSlot && s.here.faults.isEmpty && s.here.park.isNone

theorem witness_StepsKeepForms : Steps [(atWord 0xC0000000, always), ({ State.reset with agenda := [(.dieReport, {})] }, always)] :=
  steps (by decide +kernel)

theorem witness_TurnsRunBundles : Steps
    [(atWord (loneWord (.addi 3 0 7)).toNat, fun s => evenly (turned s) && fetched (turned s) (.addi 3 0 7)),
     (atWord 0x84800000, fun s => evenly (turned s) && match decodeWord 0x84800000 with
       | .error .reservedOp => true
       | _ => false),
     (atWord 0xC0000001, fun s => evenly (turned s) && match decodeWord 0xC0000001 with
       | .error .reservedField => true
       | _ => false),
     ({ (atWord 0).setSlot 0 0 { Slot.reset with wspV := true, stopped := true } with agenda := [(.barrelTurn, {})] },
       fun s => slotBarred s 0 0 && ! slotOff s 0 0 && lowestIdle s 0 != some 0)] := steps (by decide +kernel)

/-- `addi g3, g0, 7` runs as the first instruction. -/
theorem test_first_step : (match step (atWord (loneWord (.addi 3 0 7)).toNat) with
    | .next t => (gReg t 0 0 3).toNat
    | _ => 0) = 7 := by decide +kernel

/-- The supervisor at a bundle of two words, where some registers hold values. -/
def atPair (w v : Nat) (l : List (Nat × Nat)) : State :=
  let s := placed 0x10000 [w + v * 2 ^ 32] (turned (atWord 0))
  { s with mem := l.foldl (fun m e => writeBytes m (localKey 0 .wm (8 * e.1)) (toBytes 8 e.2)) s.mem }

/-- The bits of an instruction as a word of a pair. -/
def inPair (i : Instr) : Nat := (loneWord i).toNat % 2 ^ 31

/-- The bundle that the supervisor fetches is the pair of two instructions. -/
def pairOf (i k : Instr) (s : State) : Bool :=
  match fetchBundle s 0 s.hereSlot s.herePc with
  | .words [w, v] _ => w.toNat == inPair i && v.toNat == inPair k
  | _ => false

/-- The pair of two instructions. -/
def atBoth (i k : Instr) (l : List (Nat × Nat)) : State := atPair (inPair i) (inPair k) l

/-- The supervisor at `addi g3, g0, 7` with the park marker, while a message is awaited. -/
def marked : State :=
  let s := turned (atWord ((loneWord (.addi 3 0 7)).toNat + 2 ^ 29))
  s.setSlot 0 0 { s.slot 0 0 with async := [s.newOp (.g 5) (.recv 0)], seq := 1 }

theorem witness_PairsAndParks : Fires
    [(atBoth (.bEq 1 2 4) (.add 1 1 3) [(3, 9)], .barrelTurn, fun s => evenly s && pairOf (.bEq 1 2 4) (.add 1 1 3) s && s.g 1 == s.g 2),
     (atBoth (.bEq 1 2 4) (.add 1 1 3) [(1, 4), (3, 9)], .barrelTurn, fun s => s.g 1 != s.g 2 && ! s.loopEnds),
     (atBoth (.jr 1 0) (.add 2 3 3) [(1, 2 ^ 57), (3, 9)], .barrelTurn, fun s => evenly s && pairOf (.jr 1 0) (.add 2 3 3) s &&
       decide (2 ^ 57 ≤ (s.regTarget 1 0).toNat)),
     (atBoth (.jal 0) (.add 31 1 2) [], .barrelTurn, fun s => evenly s && pairOf (.jal 0) (.add 31 1 2) s),
     (marked, .barrelTurn, fun s => evenly s && s.here.outstanding == 1 && (pendingOf s.here [3, 0]).isEmpty)] := fires (by decide +kernel)

/-- Both words see the registers as they stood, and a word that traps takes the other with it. -/
theorem test_pairs : yields (atBoth (.bEq 1 2 4) (.add 1 1 3) [(3, 9)]) (fun t => pcImage t 0 0 + (gReg t 0 0 1).toNat)
      [(.barrelTurn, 0x10019)] = true ∧
    yields (atBoth (.bEq 1 2 4) (.add 1 1 3) [(1, 4), (3, 9)]) (fun t => pcImage t 0 0 + (gReg t 0 0 1).toNat) [(.barrelTurn, 0x10015)] = true ∧
    yields (atBoth (.jr 1 0) (.add 2 3 3) [(1, 2 ^ 57), (3, 9)]) (fun t => causeOf 0 t + (gReg t 0 0 2).toNat) [(.barrelTurn, 0x42)] = true ∧
    yields (atBoth (.jal 0) (.add 31 1 2) []) (causeOf 0) [(.barrelTurn, 5)] = true ∧
    yields marked (fun t => natOf (t.slot 0 0).park.isSome + (gReg t 0 0 3).toNat) [(.barrelTurn, 8)] = true := by decide +kernel

/-- The supervisor, in strict mode, with a result pending in g3; or a user thread. -/
def strict : State :=
  let s := sup [(0x2E8, 1, 1)]
  s.setSlot 0 0 { s.slot 0 0 with async := [s.newOp (.g 3) (.recv 0)] }

theorem witness_DecodeTraps :
    ([(user [], Instr.bget 22 65, fun _ : State => ! wellFormed (.bget 22 65)), (user [], .rte, fun s => s.hereSlot != 0 && privileged .rte),
      (strict, .add 4 3 1, fun s => strictOn s 0 0 && pendingOf s.here (readsOf (.add 4 3 1)) == [3]),
      (strict, .add 3 4 1, fun s => pendingOf s.here (readsOf (.add 3 4 1)) == [] && pendingOf s.here (writesOf (.add 3 4 1)) == [3])].all
      fun p => canonical p.1 && evenly p.1 && (encode p.2.1).isSome && p.2.2 p.1) = true := by decide +kernel

theorem test_decode_traps : yields (user []) trapOf [(.bget 22 65, 2), (.rte, 6)] = true ∧
    yields strict (causeOf 0) [(.add 4 3 1, 4), (.add 3 4 1, 4)] = true := by decide +kernel

/-- A write that ends well, as a computation. -/
theorem wrote {x : List Eff × Except AccFault Unit} (h : (match x.2 with | .ok () => true | _ => false) = true) : x.2 = .ok () := by
  split at h
  · assumption
  · cases h

theorem witness_LinesReadBack : State.reset.Inv ∧ rising State.reset.ceData = true ∧ rising State.reset.ceMeta = true ∧
    noiseWritten State.reset (physKey .hbm 0x107F) [some 1] = [] ∧
    (lineWrite State.reset (physKey .hbm 0x1060) (List.replicate 32 0xA5) false false).2 = .ok () ∧
    (lineWrite State.reset (physKey .hbm 0x107F) [1] false false).2 = .ok () := by
  exact ⟨inv_of (by decide +kernel), by decide +kernel, by decide +kernel, by decide +kernel, wrote (by decide +kernel), wrote (by decide +kernel)⟩

theorem test_line_read_back : (match lineRead (applyAll State.reset (lineWrite State.reset (physKey .hbm 0x107F) [1] false false).1)
      (physKey .hbm 0x107E) 2 false with
    | (_, .ok bs) => ofBytes bs
    | _ => 0) = 0x100 := by decide +kernel

/-! ### Memory that nothing has damaged -/

/-- `State.Sound` as a computation over the lines that are listed. -/
def soundly (s : State) : Bool :=
  s.ueData.isEmpty && s.ueMeta.isEmpty && s.ceData.isEmpty && s.ceMeta.isEmpty && s.noiseIn.isEmpty && s.noiseOut.isEmpty
    && (s.lineMeta.all fun e => tagOf e.2 == 0 && (List.range 4).all fun i => ! poisoned e.2 i &&
      checkOf e.2 i == sectorCheck (readBytes s.mem (e.1 + 32 * i) 32))
    && s.mem.all fun e => decide (e.1 < 2 ^ 60) || s.lineMeta.any fun x => x.1 == lineBase e.1

theorem mapGet_cases {α : Type} (d : α) (m : Map α) (k : Nat) :
    (∃ e ∈ m, e.1 = k ∧ mapGet d m k = e.2) ∨ mapGet d m k = d ∧ ∀ e ∈ m, e.1 ≠ k := by
  induction m with
  | nil => exact .inr ⟨rfl, by simp⟩
  | cons x r ih =>
    obtain ⟨j, v⟩ := x
    by_cases h : j = k
    · exact .inl ⟨(j, v), .head _, h, by simp [mapGet, h]⟩
    · rcases ih with ⟨e, he, hk, hv⟩ | ⟨hv, hn⟩
      · exact .inl ⟨e, .tail _ he, hk, by simp [mapGet, h, hv]⟩
      · exact .inr ⟨by simp [mapGet, h, hv], by simpa [h] using hn⟩

theorem readBytes_zero {m : List Host.Cell} (n : Nat) {k : Nat} (h : ∀ j, k ≤ j → j < k + n → readByte m j = 0) :
    (readBytes m k n).all (· == 0) = true := by
  induction n generalizing k with
  | zero => rfl
  | succ n ih =>
    simp only [readBytes, List.all_cons, Bool.and_eq_true, beq_iff_eq]
    exact ⟨h k (Nat.le_refl k) (by omega), ih fun j a b => h j (by omega) (by omega)⟩

theorem sound_of {s : State} (h : soundly s = true) : s.Sound := by
  simp only [soundly, Bool.and_eq_true, List.isEmpty_iff, List.all_eq_true, List.mem_range, beq_iff_eq, Bool.not_eq_true',
    Bool.or_eq_true, decide_eq_true_eq, List.any_eq_true] at h
  obtain ⟨⟨⟨⟨⟨⟨⟨h1, h2⟩, h3⟩, h4⟩, h5⟩, h6⟩, hl⟩, hm⟩ := h
  refine ⟨⟨h1, h2, h3, h4⟩, ⟨h5, h6⟩, fun k => ?_⟩
  rcases mapGet_cases 0 s.lineMeta (lineBase k) with ⟨e, he, hk, hv⟩ | ⟨hv, hn⟩
  · rw [lineMetaOf, hv, ← hk]
    exact ⟨(hl e he).1, fun i hi => ⟨((hl e he).2 i hi).1, fun _ => ((hl e he).2 i hi).2⟩⟩
  · rw [lineMetaOf, hv]
    refine ⟨by decide, fun i hi => ⟨by simp [poisoned], fun hkey => ?_⟩⟩
    have hz : ∀ j, lineBase k + 32 * i ≤ j → j < lineBase k + 32 * i + 32 → readByte s.mem j = 0 := by
      intro j ha hb
      rcases mapGet_cases Memory.unlisted s.mem j with ⟨e, he, hj, _⟩ | ⟨hv, _⟩
      · simp only [memoryKey, Bool.and_eq_true, decide_eq_true_eq] at hkey
        simp only [lineBase] at ha hb
        rcases hm e he with hs | ⟨x, hx, hb2⟩
        · omega
        · refine absurd ?_ (hn x hx)
          rw [hb2, lineBase, lineBase, hj]
          omega
      · exact hv
    rw [sectorCheck, if_pos (readBytes_zero 32 hz)]
    simp [checkOf, field, fieldN]

theorem witness_Sound : State.reset.Sound ∧ based.Sound := ⟨sound_of (by decide +kernel), sound_of (by decide +kernel)⟩

/-! ### Sent loads and stores of GL -/

/-- A context whose second range entry covers the MiB from 1 GiB on, with some flags and its dwords 0x20 and 0x28. -/
def ranged (flags d4 d5 : Nat) : State :=
  { placed 0x2040 [0x40000000, 0x40100000, 0, flags, d4, d5, 0, 0] based with
    gaffer := { based.gaffer with ctxs := [(0, { probeContext with rcnt := 2 })] } }

/-- The supervisor's load of some lanes, on its way. -/
def fetchesGl (s : State) (sp : Space) (lanes : List Lane) (sext : Nat) : State :=
  on {} (s.setSlot 0 0 { Slot.reset with
    wspV := true, async := [s.newOp (.g 3) (.load sp lanes sext (BitVec.allOnes 128))], seq := 1 })

/-- What an access of core 0 to GL comes to. -/
def xlatIs (s : State) (a : Nat) (kind : Access) (x : Xlat) : Bool := translate s (s.ctxOf 0) a kind == x

theorem witness_sent_loads : Fires
    [(fetchesGl based .gl [⟨0x5000, 8, 0⟩] 0, .asyncResultWrite, fun s => soundly s && ! s.selSlot.dying && ! s.selSlot.unreadBefore 0 0 &&
       xlatIs s 0x5000 .read (.at .hbm 0x5000 false) && (linkState s .hbm).isNone),
     (fetchesGl based .gl [⟨0x5078, 8, 0⟩, ⟨0x507C, 4, 8⟩] 64, .asyncResultWrite, fun s => soundly s &&
       xlatIs s 0x5078 .read (.at .hbm 0x5078 false) && xlatIs s 0x507C .read (.at .hbm 0x507C false)),
     (fetchesGl based .wm [⟨0x4000, 1, 0⟩] 8, .asyncResultWrite, fun s => soundly s && peerReach s 0 (wmCore 0 0x4000) == some true),
     (fetchesGl (ranged 0x47 0x1122334455667788 0) .gl [⟨0x40000005, 2, 0⟩] 16, .asyncResultWrite, fun s => soundly s &&
       xlatIs s 0x40000005 .read (.fill 0x1122334455667788 0 0)),
     (fetchesGl based .gl [⟨0x5000, 8, 0⟩, ⟨0x40000000, 8, 8⟩] 0, .asyncResultWrite, fun s => soundly s && s.selSlot.takes 0 &&
       xlatIs s 0x40000000 .read (.fault 0x42 0)),
     (fetchesGl based .wm [⟨0x20000, 8, 0⟩] 0, .asyncResultWrite, fun s => soundly s && (peerReach s 0 (wmCore 0 0x20000)).isNone),
     (fetchesGl (ranged 0x87 0 0) .gl [⟨0x5000, 8, 0⟩, ⟨0x40000000, 8, 8⟩] 0, .asyncResultWrite, fun s => soundly s &&
       xlatIs s 0x40000000 .read .page && ! s.link.expired && s.pageReqs.isEmpty),
     (fetchesGl (ranged 0x47 7 0x6000) .gl [⟨0x400FFFF8, 8, 0⟩] 0, .asyncResultWrite, fun s => soundly s &&
       xlatIs s 0x400FFFF8 .read (.fill 7 0x6000 15) && xlatIs s 0x6000 .write (.at .hbm 0x6000 false))] := fires (by decide +kernel)

/-- The value of the load in g3, and how many faults and page requests there are. -/
def loaded (t : State) : Nat := (gReg t 0 0 3).toNat
def troubles (t : State) : Nat := 10 * (t.slot 0 0).faults.length + t.pageReqs.length

theorem test_sent_loads : yields (fetchesGl (placed 0x5000 [0x8877665544332211] based) .gl [⟨0x5006, 2, 0⟩] 16) loaded
      [(.asyncResultWrite, 0xFFFFFFFFFFFF8877)] = true ∧
    yields (fetchesGl (ranged 0x47 0x1122334455667788 0) .gl [⟨0x40000005, 2, 0⟩] 0) loaded [(.asyncResultWrite, 0x2233)] = true ∧
    yields (fetchesGl (ranged 0x87 0 0) .gl [⟨0x40000000, 8, 0⟩] 0) troubles [(.asyncResultWrite, 1)] = true ∧
    yields (fetchesGl based .gl [⟨0x40000000, 8, 0⟩] 0) troubles [(.asyncResultWrite, 10)] = true := by decide +kernel

/-- The supervisor's store at the head of its buffer. -/
def storing (s : State) (a : Nat) (bs : List Byte) : State :=
  on {} (s.setSlot 0 0 { Slot.reset with wspV := true, sb := [s.newEntry (.store .gl [(a, bs)])], seq := 1 })

theorem witness_sent_stores : Fires
    [(storing based 0x507F [1], .storeBufferDrain, fun s => soundly s && ! s.selSlot.dying && s.selSlot.async.isEmpty &&
       xlatIs s 0x507F .write (.at .hbm 0x507F false)),
     (storing (ranged 0x2D 0 0) 0x40005000 [1, 2], .storeBufferDrain, fun s => soundly s &&
       xlatIs s 0x40005000 .write (.at .hbm 0x5000 true)),
     (storing (ranged 0x47 0 0) 0x40000000 [1, 2], .storeBufferDrain, fun s => soundly s && s.selSlot.takes 0 &&
       xlatIs s 0x40000000 .write (.fault 0x47 0)),
     (storing (ranged 0x8F 0 0) 0x40000000 [1, 2], .storeBufferDrain, fun s => soundly s && xlatIs s 0x40000000 .write .page)] :=
  fires (by decide +kernel)

theorem test_sent_stores : yields (storing based 0x507F [7]) (fun t => ofBytes (readBytes t.mem (physKey .hbm 0x507E) 3))
      [(.storeBufferDrain, 0x700)] = true ∧
    yields (storing (ranged 0x47 0 0) 0x40000000 [1]) troubles [(.storeBufferDrain, 10)] = true ∧
    yields (storing (ranged 0x8F 0 0) 0x40000000 [1]) troubles [(.storeBufferDrain, 1)] = true := by decide +kernel

/-! ### The wait list of a word -/

/-- A thread of slot n, or its `stfe`, waits for the word at WM 0x4000. -/
def feLoad (f : FeKind) (st : OpState) : Slot :=
  { Slot.reset with wspV := true, block := 1, async := [(user []).newOp (.g 3) (.fe f .wm 0x4000 0) st], seq := 1 }

def feStore (k : SbKind) : Slot := { Slot.reset with wspV := true, block := 2, sb := [(user []).newEntry k] }

/-- The dword of WM at 0x4000 of core 0. -/
def feKey : Nat := wmKey 0 0x4000

/-- Core 0 with slots 1 to 3, of which those in l wait for the word, which is full or empty. -/
def awaited (x y z : Slot) (l : List Nat) (full : Bool) : State :=
  { on (slot1) (user []) with
    slots := [(slotKey 0 1, x), (slotKey 0 2, y), (slotKey 0 3, z)].filter fun e => e.2 ≠ Slot.reset
    feWaits := l.map fun k => { key := feKey, core := 0, slot := k, seq := 0 }
    empties := if full then [] else [feKey] }

/-- `ldfe` finds the word full, for which an `stfe` waits. -/
def takenByStore : State := awaited (feLoad .ldfe .sent) (feStore (.stfe .wm 0x4000 9)) Slot.reset [2] true

/-- A store of the word, for which an `ldfx` and an `ldfe` wait. -/
def takenByLoads (k : SbKind) : State :=
  on { slot := 1 } (awaited (feStore k) (feLoad .ldfx .waiting) (feLoad .ldfe .waiting) [2, 3] false)

theorem takenByStore_waits : takenByStore.storeWaits feKey { key := feKey, core := 0, slot := 2, seq := 0 } 9 :=
  ⟨rfl, by decide, by decide +kernel, by decide +kernel, (user []).newEntry (.stfe .wm 0x4000 9), [], 0x4000, by decide +kernel,
    by decide +kernel, by decide +kernel, by decide +kernel, by decide +kernel, .inr (by decide)⟩

theorem takenByLoads_waits (k : SbKind) (sl : Nat) (f : FeKind) (h : (sl = 2 ∧ f = .ldfx) ∨ (sl = 3 ∧ f = .ldfe)) :
    (takenByLoads k).loadWaits feKey { key := feKey, core := 0, slot := sl, seq := 0 } f := by
  rcases h with ⟨rfl, rfl⟩ | ⟨rfl, rfl⟩ <;>
  exact ⟨by decide, rfl, by decide, (user []).newOp (.g 3) (.fe _ .wm 0x4000 0) .waiting, 0x4000, 0, rfl, rfl, rfl, rfl, rfl⟩

theorem witness_Waiters : takenByStore.Waiters feKey ∧ (takenByLoads (.feset .wm 0x4000 true)).Waiters feKey ∧
    (takenByLoads (.stff .wm 0x4000 5)).Waiters feKey := by
  have hl (k : SbKind) : (takenByLoads k).Waiters feKey := by
    refine ⟨fun w hw _ => .inl ?_, ?_, ?_⟩
    · simp only [takenByLoads, on, awaited, List.map_cons, List.map_nil, List.mem_cons, List.not_mem_nil, or_false] at hw
      rcases hw with rfl | rfl
      · exact ⟨_, takenByLoads_waits k 2 _ (.inl ⟨rfl, rfl⟩)⟩
      · exact ⟨_, takenByLoads_waits k 3 _ (.inr ⟨rfl, rfl⟩)⟩
    · exact (by decide : (([2, 3] : List Nat).map fun k => (0, k, 0)).Nodup)
    · refine List.Pairwise.sublist (List.Sublist.map _ List.filter_sublist) ?_
      exact (by decide : (([2, 3] : List Nat).map fun k => (0, k)).Nodup)
  refine ⟨⟨fun w hw _ => .inr ?_, by decide +kernel, by decide +kernel⟩, hl _, hl _⟩
  simp only [takenByStore, awaited, List.map_cons, List.map_nil, List.mem_cons, List.not_mem_nil, or_false] at hw
  subst hw
  exact ⟨9, takenByStore_waits⟩

theorem witness_walks : Fires
    [(takenByStore, .feHomeOperation, fun s => s.selSlot.takes 0 && tagFull s feKey && noiseRead s feKey 8 == []),
     (takenByLoads (.stff .wm 0x4000 5), .feHomeOperation, fun s => ! tagFull s feKey && s.feWaits.length == 2),
     (takenByLoads (.stfe .wm 0x4000 5), .feHomeOperation, fun s => ! tagFull s feKey),
     (takenByLoads (.feset .wm 0x4000 true), .feHomeOperation, fun s => ! tagFull s feKey && noiseRead s feKey 8 == []),
     (on (slot1) (awaited (feStore (.feset .wm 0x4000 false)) (feStore (.stfe .wm 0x4000 9)) Slot.reset [2] true), .feHomeOperation,
       fun s => tagFull s feKey)] := fires (by decide +kernel)

/-- After the `ldfe` the word holds what the `stfe` stores, and is full. -/
theorem test_walks : yields takenByStore (fun t => wmOf 0x4000 8 t + 100 * t.feWaits.length + 1000 * t.empties.length)
      [(.feHomeOperation, 9)] = true ∧
    yields (takenByLoads (.stff .wm 0x4000 5)) (fun t => wmOf 0x4000 8 t + 100 * t.feWaits.length + 1000 * t.empties.length)
      [(.feHomeOperation, 1005)] = true := by decide +kernel

/-! ### Translation -/

/-- A page table whose leaf, of 1 GiB, maps the VA 2^40, the entry at level 2 given; the context has it. -/
def tabled (w : Nat) : State :=
  placed 0x7000 [0x8001, 0, 0, 0] (placed 0x8000 [0, 0, 0x9001, 0] (placed 0x9000 [w, 0, 0, 0] based))

def tableContext : Context := { probeContext with pt0 := 0x7000 }

/-- On sound memory an access of a context comes to this. -/
def comesTo (s : State) (x : Context) (va : Nat) (kind : Access) (y : Xlat) : Bool :=
  soundly s && ! x.rootBad && x.rtab % 64 == 0 && x.pt0 % 4096 == 0 && translate s (some x) va kind == y

theorem test_translation :
    comesTo based probeContext 0x3FFFFFFF .rw (.at .hbm 0x3FFFFFFF false) = true ∧
    comesTo based probeContext 0x40000000 .read (.fault 0x42 0) = true ∧
    comesTo based probeContext (2 ^ 57) .read (.fault 0x42 0) = true ∧
    comesTo (ranged 0x40F 0 0) { probeContext with rcnt := 2 } 0x50000000 .read (.fault 0x48 0x105) = true ∧
    comesTo (ranged 0x40F 0 0) { probeContext with rcnt := 2 } 0x5000 .read (.at .hbm 0x5000 false) = true ∧
    comesTo (ranged 0x47 0 0) { probeContext with rcnt := 2 } 0x40000000 .fetch (.fault 0x42 0) = true := by decide +kernel

theorem test_page_tables :
    comesTo (tabled (0x1B + 3 * 2 ^ 58)) tableContext (2 ^ 40 + 2 ^ 30 - 1) .read (.at .hbm (2 ^ 30 - 1) false) = true ∧
    comesTo (tabled (0x1B + 3 * 2 ^ 58)) tableContext (2 ^ 40) .fetch (.fault 0x43 0) = true ∧
    comesTo (tabled (0x1B + 2 * 2 ^ 58)) tableContext (2 ^ 40) .read (.fault 0x48 2) = true ∧
    comesTo (tabled 0) tableContext (2 ^ 40) .read (.fault 0x42 0) = true := by decide +kernel

/-! ### Barriers, permutations and records of events -/

/-- A thread whose arrival at a barrier of n completes an episode at which the thread of slot 2 waits, or slots 2 and 3 do. -/
def arriving (n : Nat) (l : List Nat) : State :=
  l.foldl (fun s k => s.setSlot 0 k { Slot.reset with
      wspV := true, block := k, async := [(user []).newOp (.g 3) (.barrier someBarrier n) .waiting], seq := 1 })
    { pending (.g 3) (.barrier someBarrier n) with episodes := if l = [] then [] else [⟨someBarrier, n, l.map fun k => (0, k, 0)⟩] }

theorem witness_episodes : Fires
    [(arriving 1 [], .barrierArrival, fun s => s.episodes.isEmpty), (arriving 3 [2], .barrierArrival, fun s => s.episodes.length == 1),
     (arriving 3 [2, 3], .barrierArrival, fun s => s.episodes.all fun e => e.arrivals.length == 2 && e.arrivals.all fun a =>
       ((s.slot a.1 a.2.1).findOp a.2.2).any fun p => p.kind == .barrier someBarrier 3 && p.st == .waiting)] := fires (by decide +kernel)

/-- The rank that an arrival has been given, one more. -/
def rankOf (sl : Nat) (t : State) : Nat := (((t.slot 0 sl).findOp 0).map fun p => match p.st with
  | .done v => v.toNat + 1
  | _ => 0).getD 0

theorem test_ranks : yields (arriving 3 [2, 3]) (fun t => 100 * rankOf 2 t + 10 * rankOf 3 t + rankOf 1 t) [(.barrierArrival, 123)] = true ∧
    yields (arriving 1 []) (rankOf 1) [(.barrierArrival, 1)] = true ∧ yields (arriving 3 [2]) (rankOf 1) [(.barrierArrival, 0)] = true := by
  decide +kernel

theorem witness_solved : (List.range 64).reverse.Perm (List.range 64) ∧ permOf (solvePerm (List.range 64).reverse) = (List.range 64).reverse :=
  ⟨by decide +kernel, by decide +kernel⟩

/-- A machine with a partition whose ring holds records up to EWIDX, of which those below ERIDX have been read. -/
def ringed (w r : Nat) (s : State) : State :=
  placed 0x40400 [w, r, 7, 0] { s with power := { s.power with parts := [(1, somePart 64)] } }

theorem witness_events : (soundly (ringed 12 1 based) && soundly (ringed 11 0 based) && soundly (ringed 12 0 based)) = true ∧
    mapFind (ringed 12 0 based).power.parts 1 = some (somePart 64) ∧
    Fires [(ringed 11 0 (derivingKeys 5 3), .keyDerivationComplete, fun s => s.mgmt.derive.any fun d => d.next == 3),
      (ringed 0 0 (replacing 2 9999999), .quiesceSafePoint, fun s => s.mgmt.replace.isSome),
      (ringed 0 0 (replacing 5 0), .fallback, fun s => match (Run.start s).directory.bind fun e r => r.reinstall e 2 [] [1, 2, 3] [] with
       | .ok l _ => l.isEmpty
       | _ => false)] := ⟨by decide +kernel, by decide +kernel, fires (by decide +kernel)⟩

/-- A group of five goes into the ring, or is lost whole. -/
def groupOf (w : Nat) : State :=
  ((Run.start (ringed w 0 based)).events 1 77 (firmwareGroup Mgmt.reset 0x10 0xD0 2 (List.replicate 64 0xA5))).s

def hbmWord (a : Nat) (t : State) : Nat := ofBytes (readBytes t.mem (physKey .hbm a) 8)

theorem test_group_lost : hbmWord 0x40400 (groupOf 12) = 12 ∧ hbmWord 0x40410 (groupOf 12) = 12 := by decide +kernel

theorem test_groups : hbmWord 0x40400 (groupOf 11) = 16 ∧ hbmWord 0x40410 (groupOf 11) = 7 ∧
    hbmWord (0x40000 + 32 * 11 + 8) (groupOf 11) = 0x1002 ∧
    hbmWord (0x40000 + 32 * 15 + 8) (groupOf 11) = 4 * 2 ^ 32 + 0x1103 := by decide +kernel

/-! ### Numbers -/

/-- A magnitude of a format lies at code c or between c and c + 1, counted in units of 2^u. -/
def between (f : Fmt) (mag : Nat) (exp u : Int) (c : Nat) : Bool :=
  let x := mag * 2 ^ (exp - u).toNat
  mag != 0 && decide (u ≤ exp) && decide (u ≤ 1 - f.bias - f.m) && decide (f.unitsAt u c ≤ x) && decide (x < f.unitsAt u (c + 1))

/-- A format of 8 bits without subnormals and without infinities. -/
def plainFmt : Fmt := { sign := 1, e := 4, m := 3, bias := 7, spec := 0, subn := false }

/-- A format whose top code alone is no number, and one of fixed point. -/
def topFmt : Fmt := { sign := 1, e := 4, m := 3, bias := 7, spec := 2, subn := true }
def fixedFmt : Fmt := { sign := 1, e := 0, m := 3, bias := 1, spec := 0, subn := true }

theorem witness_rounding : fmt16.floats ∧ plainFmt.floats ∧
    (between fmt16 3 (-25) (-25) 1 && between fmt16 2047 (-25) (-25) 1023 && between fmt16 1 (-24) (-24) 1 &&
      between fmt16 2049 0 (-24) 26624 && between fmt16 65519 0 (-24) fmt16.maxCode) = true ∧
    1 * 2 ^ ((-10 : Int) - -10).toNat < plainFmt.unitsAt (-10) (2 ^ 3) ∧
    fmt16.unitsAt (-24) fmt16.maxCode + (fmt16.unitsAt (-24) (fmt16.maxCode + 1) - fmt16.unitsAt (-24) fmt16.maxCode) = 65536 * 2 ^ 24 := by
  exact ⟨⟨by decide, by decide, by decide, by decide, by decide⟩, ⟨by decide, by decide, by decide, by decide, by decide⟩,
    by decide +kernel, by decide +kernel, by decide +kernel⟩

/-- The results and flags of binary16 and of the other formats, worked out by hand: 1 is inexact, 2 underflow, 4 overflow. -/
theorem test_rounding : fmt16.round 0 0 false 3 (-25) = (2, 3) ∧ fmt16.round 0 0 false 2047 (-25) = (1024, 3) ∧
    fmt16.round 0 0 true 2049 0 = (0xE800, 1) ∧ fmt16.round 0 0 false 65519 0 = (0x7BFF, 1) ∧
    fmt16.round 0 0 false 65520 0 = (0x7C00, 5) ∧ fmt16.round 1 0 false 65536 0 = (0x7BFF, 5) ∧
    fmt16.round 3 0 false 1 (-30) = (1, 3) ∧ plainFmt.round 0 0 false 1 (-10) = (0, 3) ∧
    fixedFmt.round 0 0 false 3 (-2) = (2, 1) ∧ fixedFmt.round 0 0 true 9 0 = (8, 5) := by decide +kernel

theorem test_number_codes : fmt16.decode 0x7C00 = .inf false ∧ fmt16.decode 0x7E00 = .nan false ∧ fmt16.decode 0x7D00 = .nan true ∧
    fmt16.decode 1 = .fin false 1 (-24) ∧ fmt16.decode 0xBC00 = .fin true 1024 (-10) ∧ topFmt.decode 0x7F = .nan false ∧
    (∃ u, plainFmt.decode 7 = .fin false 0 u) ∧ fixedFmt.decode 0xF = .fin true 1 (-1) ∧ fmt16.nan = 0x7E00 ∧
    fmt16.largest true = 0xFBFF ∧ topFmt.inf false = 0x7F ∧ fixedFmt.inf true = 8 := by
  exact ⟨rfl, rfl, rfl, rfl, rfl, rfl, ⟨_, rfl⟩, rfl, rfl, rfl, rfl, rfl⟩

theorem test_integer_conversions : convertInt true 8 0 0 (.fin false 255 (-1)) = (127, 16) ∧
    convertInt true 8 0 0 (.fin false 253 (-1)) = (126, 1) ∧ convertInt true 8 0 0 (.fin true 128 0) = (0x80, 0) ∧
    convertInt false 8 0 0 (.fin true 1 (-2)) = (0, 1) ∧ convertInt false 8 1 0 (.inf true) = (0, 16) ∧
    convertInt true 16 0 0 (.nan false) = (0, 16) := by decide +kernel

theorem test_special_operands : sumNums 0 [.inf true, .fin false 1 0, .inf false] = (.nan false, 16) ∧
    sumNums 0 [.nan true, .inf false] = (.nan false, 16) ∧ sumNums 0 [.inf true, .fin false 1 0] = (.inf true, 0) ∧
    mulNum (.inf false) (.fin true 0 0) = (.nan false, 16) ∧ divNum (.fin true 3 0) (.fin false 0 0) = (.inf true, 8) ∧
    divNum (.fin false 0 0) (.fin false 0 0) = (.nan false, 16) ∧ sqrtNum (.fin true 1 0) = (.nan false, 16) := by decide +kernel

theorem test_choices : chooseFloat fmt16 true false 0x7E00 0x3C00 = (0x7E00, 0) ∧ chooseFloat fmt16 true true 0x7D00 0x3C00 = (0x3C00, 16) ∧
    chooseFloat fmt16 true false 0x8000 0 = (0, 0) ∧ chooseFloat fmt16 false false 0 0x8000 = (0x8000, 0) ∧
    chooseFloat fmt16 true false 0xBC00 0x3C00 = (0x3C00, 0) ∧ chooseFloat fmt16 false false 0xFC00 0x3C00 = (0xFC00, 0) := by decide +kernel

/-- The first draws of the generator from the seed 1. -/
theorem test_generator : generator 1 1 = 0x42021 ∧ drawn 1 0 = 4 ∧ drawn 0 0 = drawn 0x6A09E667 0 := by decide +kernel

/-! ### States of threads -/

theorem witness_status : ((user []).slot 0 1).outstanding ≤ 16 ∧ queuedLicensed (user []) 0 ≤ 64 := by decide +kernel

/-- The supervisor displaces the thread of slot 1, which sleeps parked by a bundle of n operations, one of them a wait. -/
def displacing (n : Nat) (p : Park) : State :=
  let s := beside (gs [(1, 1), (2, 0x1801)])
  s.setSlot 0 1 { s.slot 0 1 with
    async := [{ s.newOp (.g 5) (.recv 0) with seq := 0 }], seq := n, park := some p }

theorem witness_displaced : Meets 0
    [(displacing 1 ⟨.marker, true, 0x40, false, 0, 0⟩, .wspx 3 1 2, fun s => (sleepOf s 0 (s.slot 0 1)).isSome &&
       (s.slot 0 1).own.length == 1 && ! wspxWaits s 0 (s.slot 0 1)),
     (displacing 2 ⟨.marker, true, 0x40, false, 0, 0⟩, .wspx 3 1 2, fun s => (sleepOf s 0 (s.slot 0 1)).isSome && ! wspxWaits s 0 (s.slot 0 1)),
     (displacing 1 ⟨.join, false, 0x40, false, 0, 0⟩, .wspx 3 1 2, fun s => wspxWaits s 0 (s.slot 0 1) || (sleepOf s 0 (s.slot 0 1)).isNone),
     (sup (gs [(2, 0x2C0), (3, 1)]), .wwr 3 1 2, fun s => s.g 2 == 0x2C0 && s.g 3 == 1),
     (sup (gs [(2, 0x2D8), (3, 2 ^ 54)]), .wwr 3 1 2, always)] := meets (by decide +kernel)

/-- A bit buffer that holds a bit which is not the stream's, as `wwr` has left it. -/
def wild : State := cored fun x => { x with wildBits := [1] }

theorem witness_free_bits : Meets 0 [(wild, .bget 3 1, fun s => ! bitsHold s 0 1), (unsound [], .bget 3 1, fun s => ! bitsHold s 0 1),
    (bound [], .bget 3 64, fun s => bitsHold s 0 1 && kept s), (wild, .bbind 1 2, fun s => s.hereOf.wildBits.contains s.hereBlock)] :=
  meets (by decide +kernel)

/-- Levels 1 and 2 end on one word: the inner one with its last iteration. -/
theorem test_levels_end : let x (k : Nat) : LoopState := { active := k ≠ 0, length := 2, count := if k = 1 then 5 else 1, start := 0x1000 * k }
    (levelsEnd (x 1).lastWord.toNat 0x99 3 fun k => if k = 2 then { x 2 with start := 0x1000 } else x k).2 = 0x1000 ∧
    ((levelsEnd (x 1).lastWord.toNat 0x99 3 fun k => if k = 2 then { x 2 with start := 0x1000 } else x k).1 1).count = 4 := by decide +kernel

/-! ### Data that engines move -/

/-- Every coordinate below some extents. -/
def allCoords : List Nat → List (List Nat)
  | [] => [[]]
  | d :: l => (allCoords l).flatMap fun r => (List.range d).map fun x => x :: r

theorem mem_allCoords (dims co : List Nat) (h : co.length = dims.length) (hd : ∀ d, d < dims.length → nth co d < nth dims d) :
    co ∈ allCoords dims := by
  induction dims generalizing co with
  | nil => simp_all [allCoords]
  | cons x l ih =>
    obtain ⟨a, r, rfl⟩ : ∃ a r, co = a :: r := by cases co with
      | nil => simp at h
      | cons a r => exact ⟨a, r, rfl⟩
    simp only [allCoords, List.mem_flatMap, List.mem_map, List.mem_range]
    refine ⟨r, ih r (by simpa using h) fun d hlt => ?_, a, ?_, rfl⟩
    · exact hd (d + 1) (by simpa using hlt)
    · exact hd 0 (by simp)

/-- `State.Fits` of a record in local memory, as a computation. -/
def fitsNow (t : Tlr) (writes : Bool) : Bool :=
  let dims := (List.range t.rank).map (nth t.dims)
  (dims.all fun d => d != 0) && (allCoords dims).all fun co =>
    let o := (t.locate co).1
    if t.space = 1 then
      ownRank 0 t.base && decide (t.base % 2 ^ 17 + o + t.accessed ≤ 2 ^ 17) && (! writes ||
        decide ((t.base + o) % 2 ^ 17 + t.accessed ≤ 0x480 ∨ 0x4A8 ≤ (t.base + o) % 2 ^ 17))
    else decide (1 < t.space ∧ t.space < 5) && decide (t.base + o + t.accessed ≤ spaceBytes t.sp)

theorem fits_of {s : State} {t : Tlr} {gl : Nat → List Byte} {w : Bool} (h : fitsNow t w = true) : s.Fits t gl 0 w := by
  unfold fitsNow at h
  simp only [Bool.and_eq_true, List.all_eq_true] at h
  obtain ⟨hd, hc⟩ := h
  refine ⟨by decide, fun hs => ?_, fun d hlt => ?_, fun co hl hlt => ?_⟩
  · have hpos : ∀ d, d < t.rank → 0 < nth t.dims d := fun d hlt => by
      have := hd _ (List.mem_map.mpr ⟨d, List.mem_range.mpr hlt, rfl⟩)
      simp at this; omega
    have := hc (List.replicate t.rank 0) (mem_allCoords _ _ (by simp) fun d hlt => by
      simp only [List.length_map, List.length_range] at hlt
      simpa [nth, hlt] using hpos d hlt)
    simp [hs] at this
  · have := hd _ (List.mem_map.mpr ⟨d, List.mem_range.mpr hlt, rfl⟩)
    simp at this; omega
  · have := hc co (mem_allCoords _ _ (by simpa using hl) fun d h => by
      simp only [List.length_map, List.length_range] at h
      simpa [nth, h] using hlt d h)
    split at this
    · next hs =>
      simp only [Bool.and_eq_true, decide_eq_true_eq, Bool.or_eq_true, Bool.not_eq_true'] at this
      refine .inr (.inl ⟨hs, this.1.1, this.1.2, fun hw => ?_⟩)
      cases this.2 with
      | inl h => simp [hw] at h
      | inr h => exact h
    · simp only [Bool.and_eq_true, decide_eq_true_eq] at this
      exact .inr (.inr ⟨this.1.1, this.1.2, this.2⟩)

/-- A condition of the first command that an instruction gives an engine, with its records. -/
def moves (s : State) (i : Instr) (e : Nat) (p : EngCmd → Tlr → Tlr → Bool) : Bool :=
  match (((ran i s).slot 0 1).port e).cmds with
  | cmd :: _ => match EngCmd.record s 0 cmd.dst with
    | some dst => fitsNow dst true && (if cmd.src = [] then p cmd dst dst else match EngCmd.record s 0 cmd.src with
      | some src => fitsNow src false && p cmd src dst
      | none => false)
    | none => false
  | [] => false

/-- In each case a command has records that fit, and the condition beside it holds. -/
def Moves (l : List (State × Instr × Nat × (EngCmd → Tlr → Tlr → Bool))) : Prop :=
  ∀ q ∈ l, ∃ cmd src dst, EngCmd.record q.1 0 cmd.dst = some dst ∧ q.1.Fits dst (fun _ => []) 0 true ∧
    (cmd.src = [] ∨ EngCmd.record q.1 0 cmd.src = some src ∧ q.1.Fits src (fun _ => []) 0 false) ∧ q.2.2.2 cmd src dst = true

theorem moves_of {l : List (State × Instr × Nat × (EngCmd → Tlr → Tlr → Bool))}
    (h : (l.all fun q => moves q.1 q.2.1 q.2.2.1 q.2.2.2) = true) : Moves l := by
  intro q hq
  have := List.all_eq_true.mp h q hq
  unfold moves at this
  repeat' split at this
  all_goals first
    | exact absurd this Bool.false_ne_true
    | (simp only [Bool.and_eq_true] at this
       first
         | exact absurd this.2 Bool.false_ne_true
         | exact ⟨_, _, _, by assumption, fits_of this.1, .inl (by assumption), this.2⟩
         | exact ⟨_, _, _, by assumption, fits_of this.1, .inr ⟨by assumption, fits_of this.2.1⟩, this.2.2⟩)

theorem witness_EngineMoves : Moves
    [(recorded [], .xcopyFill 0 2 0 0 0, 0, fun cmd _ _ => hdrOpc cmd.hdr == 1 && cmd.src == []),
     (recorded [], .xcopy 1 1 0 0 0, 0, fun cmd _ _ => hdrOpc cmd.hdr == 0 && cmd.src != [] && ! bitAt cmd.hdr 6),
     (recorded [], .xcopy 3 3 0 1 7, 0, fun cmd _ _ => hdrOpc cmd.hdr == 0 && bitAt cmd.hdr 6)] := moves_of (by decide +kernel)

theorem witness_EngineGathers : Moves
    [(recorded [], .xgat 2 2 0, 1, fun cmd src dst => hdrOpc cmd.hdr == 0 && src.rank == 2 && dst.rank == 2 &&
       ! bitAt (hdrArg cmd.hdr) 20 && decide (field (hdrArg cmd.hdr) 16 0 + 2 * nth dst.wins 1 ≤ 2 ^ 17)),
     (recorded [], .xgatSca 2 2 0, 1, fun cmd src _ => hdrOpc cmd.hdr == 1 && src.rank == 2),
     (recorded [], .xgatScadd 2 2 0, 1, fun cmd src _ => hdrOpc cmd.hdr == 2 && src.rank == 2),
     (recorded (gs [(8, 8 * 2 ^ 24)]), .xform 2 2 8, 2, fun cmd src dst => hdrOpc cmd.hdr == 0 && src.rank == dst.rank &&
       dordOk (hdrArg cmd.hdr) dst.rank)] := moves_of (by decide +kernel)

/-! A blob of one chunk, in WM at 0x6000, whose 32 symbols are all 0: every state is 2^16 and the one symbol has the
whole of the table, at 0x4800. It expands into 32 bytes of AB. -/

def quietBlob : List Byte :=
  let states := (List.replicate 32 (toBytes 4 0x10000)).flatten
  toBytes 4 1 ++ toBytes 2 1 ++ List.replicate 10 0 ++ toBytes 4 0 ++ toBytes 2 (crc16 states) ++ List.replicate 10 0 ++ states

/-- A thread with the blob and its table, and records of the blob and of its symbols. -/
def blobbed : State :=
  let s := user (tensor 0x3800 1 0x6000 2 1 (160, 0) (160, 0) 0 ++ tensor 0x3900 3 0 2 1 (32, 0) (32, 0) 0 ++
    [(0x4000, 8, 15), (0x4008, 4, 0x8000)] ++ gs [(1, 0x4000), (2, 0x4100), (8, 0x4800 * 2 ^ 24)])
  { s with mem := writeBytes s.mem (localKey 0 .wm 0x6000) quietBlob }

theorem quietBlob_expands : Expands 15 1 (fun _ => 0x8000) (fun _ => 0) ((quietBlob.drop 16).take 0x90) 0 32 (List.replicate 32 0) := by
  refine ⟨by decide +kernel, by decide +kernel, by decide +kernel, by decide, fun _ _ => 0x10000, fun _ => 0, rfl, rfl, ?_, ?_⟩
  · decide +kernel
  · intro i hi
    have hs : nth (List.replicate 32 0) i = 0 := (by decide : ∀ i, i < 32 → nth (List.replicate 32 0) i = 0) i hi
    simp only [hs]
    refine ⟨by decide, by decide, fun j hj => absurd hj (Nat.not_lt_zero j), fun _ _ _ => by simp,
      fun h => absurd h (by decide), fun _ => ⟨by simp, by simp⟩⟩

theorem witness_Blobs : Moves
    [(blobbed, .xformRans 1 2 8, 2, fun cmd src dst =>
       let arg := hdrArg cmd.hdr
       let table := readBytes blobbed.mem (localKey 0 .wm (field arg 16 0)) 2060
       hdrOpc cmd.hdr == 1 && src.rank == 1 && src.elem == intElem false 8 && src.space != dst.space && quietBlob.length == src.count
         && decide (∀ i, i < src.count → quietBlob.getD i 0 = BitVec.ofNat 8 (src.seen (fun _ => []) 0 blobbed.mem (src.tensor [i])))
         && dst.count == 32 && ofBytes (table.take 8) == 15 && ofBytes ((table.drop 8).take 4) == 0x8000
         && ! bitAt arg 38 && decide (1 ≤ 2 ^ dst.elem.bits))] := moves_of (by decide +kernel)

theorem test_blob : yields (on { num := 2 } (ran (.xformRans 1 2 8) blobbed)) (fun t =>
    natOf (((t.core 0).engine 2).run.any fun p => let x := (Run.start t).execute 0 2 p.2
      x.stop.isNone && x.bad == [] && x.done == 32)) [(.engineCommandStart, 1)] = true := by decide +kernel

/-! ### Matrix operations that retire -/

/-- Whether the operation that a quad executes meets a condition. -/
def retires (s : State) (p : MatOp → Bool) : Bool :=
  (s.quad 0).exec == some 0 && s.badBytes == [] && s.powered && (match (s.core 0).matq with
    | o :: _ => p o
    | [] => false)

/-- Whether the rows of a drained tile lie inside their buffer and apart. -/
def rowsFit (w : Word) (n : Nat) : Bool :=
  ! noBuffer w && decide (field w 16 0 + 63 * field w 40 24 + n ≤ spaceBytes (Sys2Proof.Machine.bufferOf (field w 19 17))) && decide (n ≤ field w 40 24)

/-- A drain into AB whose format is binary16. -/
def drains (o : MatOp) : Bool :=
  o.kind == .mmd && field o.ga 15 0 == 0 && rowsFit o.gb 128 && (match recordElem o.nf (field o.gb 55 48) with
    | some (.ok f) => rowLength f == 128 && drainFmt false (field o.gb 55 48) (some f)
    | _ => false)

/-- A multiplication whose operands are both of binary16. -/
def multiplies (o : MatOp) : Bool :=
  o.munf.any fun m => 
    (match recordElem o.nf (field m.gc 55 48) with
    | some (.ok f) => gemmK (tf m.tlr 1 7 0) f == some 64 && gemmK (field m.gc 55 48) f == some 64
    | _ => false) &&
    (let t := o.tensor
     t.space == 3 && t.rank == 2 && (allCoords [nth t.dims 0, nth t.dims 1]).all fun co =>
       decide (t.base + (t.locate co).1 + t.accessed ≤ 2 ^ 17))

theorem witness_Retirements : Fires
    [(on {} (ran (.mmd 0 1 0 0 0 0) (user (gs [(1, rows 0 128 3 0x10)]))), .matrixOperationRetire, fun s => retires s drains),
     (on {} (ran (.mmd 0 1 1 7 1 0) (user (gs [(1, rows 0 128 3 0x10)]))), .matrixOperationRetire, fun s => retires s fun o =>
       drains o && (bitAt o.xop 2 || bitAt o.xop 6)),
     (on {} (ran (.qtile 0 1) (user (gs [(1, rows 0 128 3 128)]))), .matrixOperationRetire, fun s => retires s fun o =>
       o.kind == .qtile && rowsFit o.gb (field o.gb 60 48)),
     (on {} (ran (.mma 0 0 0 0 0 0 0) (configured [])), .matrixOperationRetire, fun s => retires s fun o => o.kind == .mma &&
       multiplies o),
     (on {} (ran (.mmac 0 0 0 0 0 0 0) (configured [])), .matrixOperationRetire, fun s => retires s fun o => o.kind == .mmac &&
       multiplies o)] := fires (by decide +kernel)

/-! ### Collectives -/

/-- A collective in which every core of its scope has taken part. -/
def gathered : State := on {} (ran .engineCommandComplete collecting)

theorem witness_Collectives : gathered.colls.any (fun k => k.ready gathered && k.opc != 1 && (match k.parts with
    | [p] => (match EngCmd.record gathered 0 p.cmd.dst, EngCmd.record gathered 0 p.cmd.src with
      | some dst, some src => p.core == 0 && fitsNow dst true && fitsNow src false && dst.count == src.count &&
          decide (field (hdrArg p.cmd.hdr) 31 29 < 3)
      | _, _ => false)
    | _ => false)) = true := by decide +kernel

/-! ### Layer tables -/

/-- The dwords of a layer entry: status and order, dword 0x18, surface. -/
def entry (d0 d3 surf : Nat) : List Nat := [d0, 0, 0, d3, 0, surf] ++ List.replicate 26 0

/-- A scene of three layers: 0 and 1 are live on one surface, 0 names 1 as a caster, and 2 is free. -/
def threeLayers : Scene :=
  { oneLayer with desc := oneLayer.desc.set 2 (3 * 2 ^ 32 + 4 * 2 ^ 16 + 4) }

/-- A supervisor of a context with that scene. -/
def layerScene : State :=
  let s := ((List.range 4).foldl (fun s i => placed (0x40000 + 128 * i)
    (((entry (1 + 5 * 2 ^ 16) 0x1001 0 ++ entry 2 0 0).drop (16 * i)).take 16) s) based)
  { s with gaffer := { s.gaffer with ctxs := [(0, { probeContext with scene := some threeLayers })] } }

/-- The entries as memory holds them. -/
def entryNow (i : Nat) : List Byte := readBytes layerScene.mem (physKey .hbm (0x40000 + 256 * i)) 256

/-- Whether a read of GL gives these bytes and leaves nothing behind. -/
def readsNow (a n : Nat) (bs : List Byte) : Bool :=
  match (Run.start layerScene).gl (some probeContext) a n with
  | .ok v q => v == bs && q.s == layerScene && q.effs.isEmpty && q.rejects.isEmpty
  | _ => false

theorem reads_of {a n : Nat} {bs : List Byte} (h : readsNow a n bs = true) :
    (Run.start layerScene).gl (some probeContext) a n = .ok bs (Run.start layerScene) := by
  unfold readsNow at h
  split at h
  · next v q hq =>
    simp only [Bool.and_eq_true, beq_iff_eq, List.isEmpty_iff] at h
    obtain ⟨⟨⟨rfl, hs⟩, he⟩, hr⟩ := h
    rw [hq]
    cases q
    simp_all [Run.start]
  · cases h

/-- The entries of the scene are read as they stand. -/
theorem witness_Tabled : (Run.start layerScene).Tabled probeContext threeLayers entryNow := by
  refine ⟨by decide, fun i hi => ⟨reads_of ?_, ?_⟩⟩
  · exact (by decide +kernel : ∀ i, i < threeLayers.lcount → readsNow (threeLayers.table + 256 * i) 256 (entryNow i) = true) i hi
  · exact (by decide +kernel : ∀ i, i < threeLayers.lcount → (entryNow i).length = 256) i hi

/-- An entry with some dwords replaced. -/
def amended (e : List Byte) (l : List (Nat × Word)) : List Byte :=
  (List.range 32).flatMap fun i => toBytes 8 (((l.find? fun p => p.1 == i).map Prod.snd).getD (dwordAt e i)).toNat

/-- `Amends` as a computation. -/
def amendsNow (e e' : List Byte) (l : List (Nat × Word)) : Bool :=
  e'.length == 256 && (List.range 32).all fun i => dwordAt e' i == ((l.find? fun p => p.1 == i).map Prod.snd).getD (dwordAt e i)

/-- What a run of the Lehr comes to. -/
def layerValue (l : LayerOp) : Nat :=
  match (Run.start layerScene).layerPerform 0 probeContext threeLayers l with
  | .ok (.ok v) _ => v.toNat
  | .ok (.error e) _ => 2 ^ 64 + e.1.toNat
  | _ => 2 ^ 65

/-- Whether an entry can be written, and the changed ones of a table. -/
def putsNow (i : Nat) (y : List Byte) : Bool :=
  match (Run.start layerScene).glSet (some probeContext) (threeLayers.table + 256 * i) y false with
  | .ok _ _ => true
  | _ => false

def changesNow (e' : List (List Byte)) : Bool :=
  match (Run.start layerScene).writeTable probeContext threeLayers 0 (entriesOf 3 entryNow) e' with
  | .ok _ _ => true
  | _ => false

/-- An operation that changes its own entry alone. -/
def setsAlone (i : Nat) (l : List (Nat × Word)) : Bool :=
  amendsNow (entryNow i) (amended (entryNow i) l) l && putsNow i (amended (entryNow i) l)

/-- The operands of a layer instruction. -/
def layerArgs (op : BitVec 8) (xop : BitVec 7) (a b c : Word) : LayerOp := ⟨op, xop, a, b, c, 0⟩

/-- The dwords of entry 0. -/
def d0 (j : Nat) : Word := dwordAt (entryNow 0) j

/-! A new layer takes entry 2; a layer that is freed is named no more; two layers of one surface merge without masks; and
every operation on one entry writes it. -/

theorem witness_LayerTable : ((List.range 3).map (fun i => field (dwordAt (entryNow i) 0) 7 0) == [1, 2, 0]
    && names (d0 3) 0 1 && field (d0 5) 56 0 == field (dwordAt (entryNow 1) 5) 56 0 && field (d0 6) 56 0 == 0) = true := by
  decide +kernel

theorem witness_LayerFreed : changesNow [amended (entryNow 0) [(3, 1)], amended (entryNow 1) [(0, refield 2 7 0 0), (3, 0)],
    entryNow 2] = true := by decide +kernel

theorem witness_LayerCommitted : changesNow [amended (entryNow 0) [(0, refield (refield (d0 0) 63 32 0) 7 0 2)], entryNow 1,
    entryNow 2] = true := by decide +kernel

theorem witness_LayersMerged : changesNow [amended (entryNow 0) [(3, 0x1000)], amended (entryNow 1) [(0, refield 2 7 0 0)],
    entryNow 2] = true := by decide +kernel

theorem witness_LayerMade :
    (let l : List (Nat × Word) := (0, 1 + 7 * 2 ^ 16) :: (1, 0xFFFFFFFF00000000) :: (5, 0x61000) ::
        [8, 13, 18, 20, 25, 30].map (fun j => (j, 0x3FF0000000000000#64));
      amendsNow [] (amended [] l) l && putsNow 2 (amended [] l)) = true := by decide +kernel

theorem witness_LayerWrites : ([[(1, refield (d0 1) 63 32 9)], [(0, refield (d0 0) 31 16 9)],
    [(2, refield (refield (d0 2) 15 0 1) 63 32 4)], [(3, 0)], [(0, refield (d0 0) 10 10 0)]].all (setsAlone 0)) = true := by
  decide +kernel

theorem witness_LayerSteps : ([(layerArgs 0x3E 0 2 0 0, 2 ^ 64 + 0x90), (layerArgs 0x42 0 0 0 0, 2 ^ 64 + 0x93),
    (layerArgs 0x43 1 0 0 0, 1 + 5 * 2 ^ 16), (layerArgs 0x47 0 0 0x1002 0, 2 ^ 64 + 0x94)].all fun p =>
      layerValue p.1 == p.2) = true := by decide +kernel

/-- The pose of a layer and its template are read, and their destinations written. -/
theorem witness_LayerReads :
    (readsNow 0x70000 128 (List.replicate 128 0) && readsNow (threeLayers.side) 128 (List.replicate 128 0)
      && readsNow 0x70000 64 (List.replicate 64 0) && readsNow (threeLayers.status + 0x10) 8 (List.replicate 8 0)
      && layerValue (layerArgs 0x48 0 0 0x70000 0) == 0) = true := by decide +kernel

/-! Two layers of one pixel each conflict where neither is in front of the other, and are listed by depth there. -/

def pixel (id order : Nat) (depth : Nat) : Drawn := { id := id, order := order, err := 0, pixels := [(0, (depth, 1))] }

theorem witness_Conflicts :
    (∀ ds ∈ [[pixel 0 0 0x3FF0000000000000, pixel 1 0 0x4000000000000000], [pixel 0 0 0x3FF0000000000000, pixel 1 1 0x3FF0000000000000]],
      (ds.map Drawn.id).Nodup ∧ ∀ d ∈ ds, ∀ p ∈ d.pixels, (fmt64.decode p.2.1).isNan = false) ∧
    conflictPairs [pixel 0 0 0x3FF0000000000000, pixel 1 1 0x3FF0000000000000] = [(0, 1)] ∧
    (listAt [pixel 0 1 0x3FF0000000000000, pixel 1 0 0x4000000000000000] [] 0).map (fun y => y.layer.id) = [1, 0] := by decide +kernel

/-! ### Replies to page requests -/

/-- `OnlyWait` of slot 0 of core 0, as a computation. -/
def onlyWaits (s : State) (p : Reply) (o : AsyncOp) (l : List Slot) : Bool :=
  canonical s && (s.slot 0 0).async == [o] && (s.slot 0 0).streams.isEmpty && (l.all fun y => y.sb.isEmpty && y.park.isSome && y.async.all fun q =>
      (wantsPage (s.setSlot 0 0 y) { core := 0, slot := 0, num := q.seq } p forkRecordPushRun).isNone)
    && slotsOf s p.pid == [(0, 0)] && ((coresOf s p.pid).all fun k => (List.range 4).all fun e => ((s.core k).engine e).run.isNone)
    && s.colls.isEmpty && (s.gaffer.ctxs.all fun e => e.2.scene.isNone) && s.gaffer.launches.isEmpty && s.gaffer.saves.isEmpty
    && s.gaffer.queues.isEmpty

theorem onlyWait_of {s : State} {p : Reply} {o : AsyncOp} {l : List Slot} (h : onlyWaits s p o l = true) :
    OnlyWait s p 0 0 o l := by
  unfold onlyWaits at h
  simp only [Bool.and_eq_true, beq_iff_eq, List.isEmpty_iff, List.all_eq_true, List.mem_range, Option.isNone_iff_eq_none] at h
  obtain ⟨⟨⟨⟨⟨⟨⟨⟨⟨⟨hcan, hasync⟩, hstr⟩, hl⟩, hslots⟩, heng⟩, hcolls⟩, hctxs⟩, hlaunch⟩, hsaves⟩, hqueues⟩ := h
  have slotOf : ∀ {r : Run}, r.Beside s 0 0 l → ∃ q, ∃ y ∈ l, r.s = ({ s with pageReqs := q } : State).setSlot 0 0 y ∧ r.s.slot 0 0 = y :=
    fun hr => by
      obtain ⟨q, y, hy, hs⟩ := hr.state
      exact ⟨q, y, hy, hs, by
        rw [hs]; exact mapGet_mapSet_same _ _ _ _ (inv_of hcan).slots⟩
  refine { ops := ?_, head := ?_, streams := ?_, forks := ?_, bundle := ?_, slots := ?_, engines := ?_, colls := ?_, scenes := ?_,
           queues := ?_, launches := ?_ }
  · intro q hq hne; rw [hasync] at hq; simp only [List.mem_singleton] at hq; exact absurd hq hne
  · intro r hr
    obtain ⟨q, y, hy, hs, hy2⟩ := slotOf hr
    unfold Run.answerHead
    rw [hy2, (hl y hy).1.1]
  · intro r hr b hb; rw [hstr] at hb; cases hb
  · intro r hr q hq
    obtain ⟨z, y, hy, hs, hy2⟩ := slotOf hr
    rw [hy2] at hq
    have hw := (hl y hy).2 q hq
    have : wantsPage r.s { core := 0, slot := 0, num := q.seq } p forkRecordPushRun = none := by rw [hs]; exact hw
    unfold Run.answerFork
    rw [this]
  · intro r hr
    obtain ⟨q, y, hy, hs, hy2⟩ := slotOf hr
    unfold Run.answerBundle bundleWaits
    simp [hy2, (hl y hy).1.2]
  · intro r hr x hx hne; rw [hslots] at hx; simp only [List.mem_singleton] at hx; exact absurd hx hne
  · intro r hr k hk e he
    obtain ⟨q, y, hy, hs, hy2⟩ := slotOf hr
    have hc : (r.s.core k).engine e = (s.core k).engine e := by rw [hs]; rfl
    unfold Run.answerEngine
    rw [hc, heng k hk e he]
  · intro r hr k hk; rw [hcolls] at hk; cases hk
  · intro r hr x hx hp
    obtain ⟨q, y, hy, hs, hy2⟩ := slotOf hr
    have hg : r.s.gaffer = s.gaffer := by rw [hs]; rfl
    refine ⟨?_, ?_⟩
    · unfold Run.answerScene; rw [hctxs x hx]
    · unfold Run.answerTables tablesWait
      simp [hg, hlaunch, hsaves, Run.answerGaffer]
  · intro r hr q hq; rw [hqueues] at hq; cases hq
  · intro r hr y hy; rw [hlaunch] at hy; cases hy

/-- The four things that the waiting load's slot may have become. -/
def slotsAfter (s : State) (o : AsyncOp) (a : Nat) : List Slot :=
  let x := s.slot 0 0
  [x, x.faulted o 0x44 (BitVec.ofNat 64 a) 0, x.setOp { o with st := .sent, tries := 0 }, x.setOp { o with tries := o.tries + 1 }]

theorem witness_OnlyWait : ∀ s ∈ [paging 0x5000 0 false 0, paging 0x5000 0 true 100000000, paging 0x5000 0 true 0, paging away 0 true 0,
    paging away 2 true 0], ∃ q o a, requestOf s = some q ∧ (s.slot 0 0).async = [o] ∧ o.st = .paged ∧
      ∀ ok, OnlyWait s (q.reply ok) 0 0 o (slotsAfter s o a) := by
  have : ([paging 0x5000 0 false 0, paging 0x5000 0 true 100000000, paging 0x5000 0 true 0, paging away 0 true 0,
      paging away 2 true 0].all fun s => match requestOf s, (s.slot 0 0).async with
    | some q, [o] => o.st == .paged && onlyWaits s (q.reply false) o (slotsAfter s o (q.page * 4096)) &&
        onlyWaits s (q.reply true) o (slotsAfter s o (q.page * 4096))
    | _, _ => false) = true := by decide +kernel
  intro s hs
  have h := List.all_eq_true.mp this s hs
  split at h
  · next q o hq ho =>
    simp only [Bool.and_eq_true, beq_iff_eq] at h
    exact ⟨q, o, q.page * 4096, hq, ho, h.1.1, fun ok => by cases ok; exact onlyWait_of h.1.2; exact onlyWait_of h.2⟩
  · cases h

end Sys2Proof.Tests
end

section
/-!
SUPPORT. The scalar arithmetic of 04 R94, R95, R98 and R99 in the terms of the specification, the shapes that those
instructions have, and the statements about them settled.
-/

namespace Sys2Proof.Machine

/-! ### Arithmetic of dwords -/

/-- The count of a shift is its register modulo 64. -/
theorem field_shiftCount (x : Word) : field x 5 0 = x.toNat % 64 := by
  simp only [field, fieldN, Nat.pow_zero, Nat.div_one, Nat.reduceAdd, Nat.reducePow, Nat.sub_zero]

/-- The upper half of 128 bits is the quotient by 2^64, rounded down. -/
theorem upperHalf_ofInt (i : Int) :
    (BitVec.ofInt 128 i).extractLsb' 64 64 = BitVec.ofInt 64 (i / 2 ^ 64) := by
  apply BitVec.eq_of_toNat_eq
  simp only [BitVec.extractLsb'_toNat, BitVec.toNat_ofInt, Nat.shiftRight_eq_div_pow]
  omega

theorem highProduct_signed (x y : Word) :
    highProduct x.toInt y.toInt = (x.signExtend 128 * y.signExtend 128).extractLsb' 64 64 := by
  have hw (z : Word) : BitVec.ofInt 128 z.toInt = z.signExtend 128 := by
    rw [← BitVec.toInt_signExtend_of_le (x := z) (show 64 ≤ 128 by decide), BitVec.ofInt_toInt]
  rw [highProduct, ← upperHalf_ofInt, BitVec.ofInt_mul, hw, hw]

theorem highProduct_unsigned (x y : Word) :
    highProduct x.toNat y.toNat = (x.setWidth 128 * y.setWidth 128).extractLsb' 64 64 := by
  have hw (z : Word) : BitVec.ofInt 128 z.toNat = z.setWidth 128 := by
    rw [BitVec.ofInt_natCast, BitVec.ofNat_toNat]
  rw [highProduct, ← upperHalf_ofInt, BitVec.ofInt_mul, hw, hw]

/-- The model prefers the first operand of equal ones and the statement the second. -/
theorem signedMin_comm (x y : Word) : (if y.slt x then y else x) = if x.slt y then x else y := by
  simp only [BitVec.slt_iff_toInt_lt]
  rcases Int.lt_trichotomy x.toInt y.toInt with h | h | h
  · rw [if_neg (Int.lt_asymm h), if_pos h]
  · rw [BitVec.toInt_inj.mp h]
  · rw [if_pos h, if_neg (Int.lt_asymm h)]

theorem unsignedMin_comm (x y : Word) : (if y.ult x then y else x) = if x.ult y then x else y := by
  simp only [BitVec.ult_iff_toNat_lt]
  rcases Nat.lt_trichotomy x.toNat y.toNat with h | h | h
  · rw [if_neg (Nat.lt_asymm h), if_pos h]
  · rw [BitVec.eq_of_toNat_eq h]
  · rw [if_pos h, if_neg (Nat.lt_asymm h)]

theorem bit01_slt (x y : Word) : (bit01 (x.slt y) : Word) = if x.toInt < y.toInt then 1 else 0 := by
  simp only [bit01, BitVec.slt_iff_toInt_lt]

theorem bit01_ult (x y : Word) : (bit01 (x.ult y) : Word) = if x.toNat < y.toNat then 1 else 0 := by
  simp only [bit01, BitVec.ult_iff_toNat_lt]

theorem toInt_immS {w : Nat} (h : w ≤ 64) (m : BitVec w) : (immS m).toInt = m.toInt :=
  BitVec.toInt_signExtend_of_le h

/-! ### Quotients and remainders (04 R95) -/

theorem quotient_zero (sg : Bool) (x : Word) : quotient sg x 0 = BitVec.allOnes 64 := if_pos rfl

theorem remainder_zero (sg : Bool) (x : Word) : remainder sg x 0 = x := if_pos rfl

/-- The signed quotient that overflows wraps as `sdiv` does. -/
theorem quotient_signed {x y : Word} (h : y ≠ 0) : quotient true x y = x.sdiv y := by
  rw [quotient, if_neg h, if_pos rfl]
  apply BitVec.toInt_inj.mp
  rw [BitVec.toInt_ofInt, BitVec.toInt_sdiv]

theorem quotient_unsigned {x y : Word} (h : y ≠ 0) : quotient false x y = x.udiv y := by
  rw [quotient, if_neg h, if_neg Bool.false_ne_true, ← BitVec.toNat_udiv, BitVec.ofNat_toNat,
    BitVec.setWidth_eq, BitVec.udiv_eq]

theorem remainder_signed {x y : Word} (h : y ≠ 0) : remainder true x y = x.srem y := by
  rw [remainder, if_neg h, if_pos rfl, ← BitVec.toInt_srem, BitVec.ofInt_toInt]

theorem remainder_unsigned {x y : Word} (h : y ≠ 0) : remainder false x y = x.umod y := by
  rw [remainder, if_neg h, if_neg Bool.false_ne_true, ← BitVec.toNat_umod, BitVec.ofNat_toNat,
    BitVec.setWidth_eq, BitVec.umod_eq]

/-! ### The shapes of scalar instructions -/

/-- An instruction of two g operands whose only effect is to write f of them to a g register. -/
structure Binary (k : Reg → Reg → Reg → Instr) (f : Word → Word → Word) : Prop where
  reads  : ∀ d a b, readsOf (k d a b) = [gc a, gc b] := by intros; rfl
  writes : ∀ d a b, writesOf (k d a b) = [gc d] := by intros; rfl
  means  : ∀ d a b s, exec (k d a b) s = runLone (k d a b) (fun e => e.putG d (f (e.g a) (e.g b))) s

/-- An instruction of a g operand and an immediate whose only effect is to write f of them to a g register. -/
structure Immediate {w : Nat} (k : Reg → Reg → BitVec w → Instr) (f : Word → BitVec w → Word) : Prop where
  reads  : ∀ d a m, readsOf (k d a m) = [gc a] := by intros; rfl
  writes : ∀ d a m, writesOf (k d a m) = [gc d] := by intros; rfl
  means  : ∀ d a m s, exec (k d a m) s = runLone (k d a m) (fun e => e.putG d (f (e.g a) m)) s

/-- A division of two g operands (04 R95) that gives f of them. -/
structure Divides (k : Reg → Reg → Reg → Instr) (f : Word → Word → Word) : Prop where
  reads  : ∀ d a b, readsOf (k d a b) = [gc a, gc b] := by intros; rfl
  writes : ∀ d a b, writesOf (k d a b) = [gc d] := by intros; rfl
  means  : ∀ d a b s, exec (k d a b) s =
    runLone (k d a b) (fun e => e.divide d (e.g a) (e.g b) (f (e.g a) (e.g b))) s

theorem Binary.congr {k : Reg → Reg → Reg → Instr} {f g : Word → Word → Word} (h : Binary k f)
    (hf : ∀ x y, f x y = g x y) : Binary k g :=
  (funext fun x => funext (hf x) : f = g) ▸ h

theorem Immediate.congr {w : Nat} {k : Reg → Reg → BitVec w → Instr} {f g : Word → BitVec w → Word}
    (h : Immediate k f) (hf : ∀ x m, f x m = g x m) : Immediate k g :=
  (funext fun x => funext (hf x) : f = g) ▸ h

section
variable {s : State} {k : Reg → Reg → Reg → Instr} {f : Word → Word → Word} {d a b : Reg}

theorem Binary.setsG (h : Binary k f) (hi : s.Inv) (hp : Plain s (k d a b)) :
    SetsG s (k d a b) d (f (s.g a) (s.g b)) :=
  setsG_of hi hp (h.means d a b s) (by simp only [h.writes, List.mem_singleton])
    (by rw [hp.env_g (r := a) (by simp only [h.reads, List.mem_cons, true_or]),
      hp.env_g (r := b) (by simp only [h.reads, List.mem_cons, true_or, or_true])])

theorem Immediate.setsG {w : Nat} {k : Reg → Reg → BitVec w → Instr} {f : Word → BitVec w → Word} {m : BitVec w}
    (h : Immediate k f) (hi : s.Inv) (hp : Plain s (k d a m)) : SetsG s (k d a m) d (f (s.g a) m) :=
  setsG_of hi hp (h.means d a m s) (by simp only [h.writes, List.mem_singleton])
    (by rw [hp.env_g (r := a) (by simp only [h.reads, List.mem_cons, true_or])])

/-- The meaning of a division that issues, in the registers as the state holds them. -/
theorem Divides.divide_env (h : Divides k f) (hp : Plain s (k d a b)) :
    (s.env (k d a b) []).divide d ((s.env (k d a b) []).g a) ((s.env (k d a b) []).g b)
        (f ((s.env (k d a b) []).g a) ((s.env (k d a b) []).g b)) =
      (s.env (k d a b) []).divide d (s.g a) (s.g b) (f (s.g a) (s.g b)) := by
  rw [hp.env_g (r := a) (by simp only [h.reads, List.mem_cons, true_or]),
    hp.env_g (r := b) (by simp only [h.reads, List.mem_cons, true_or, or_true])]

/-- By zero, with the trap enabled. -/
theorem Divides.traps (h : Divides k f) (hp : Plain s (k d a b)) (hb : s.g b = 0)
    (ht : bitAt (fflagsOf s s.hereCore s.hereBlock) 13 = true) : Traps s (k d a b) 0x20 (s.g a) 0 :=
  traps_of hp (h.means d a b s) (by decide)
    ((h.divide_env hp).trans ((if_pos hb).trans (if_pos ht)))

/-- By zero, with the trap not enabled. -/
theorem Divides.raisesDZ (h : Divides k f) (hi : s.Inv) (hp : Plain s (k d a b)) (hb : s.g b = 0)
    (ht : bitAt (fflagsOf s s.hereCore s.hereBlock) 13 = false) :
    RaisesDZ s (k d a b) d (f (s.g a) 0) := by
  have hm : (s.env (k d a b) []).divide d (s.g a) (s.g b) (f (s.g a) (s.g b)) =
      .ok { effs := raiseEffs s flagDZ ++ (s.env (k d a b) []).setG d (f (s.g a) 0), srg := none } := by
    rw [← hb]
    exact (if_pos hb).trans (if_neg (ne_true_of_eq_false ht))
  exact ((flaggedG_of hi hp (h.means d a b s) (by simp only [h.writes, List.mem_singleton])
    ((h.divide_env hp).trans hm)).mono fun t ⟨hg, hr, _⟩ => ⟨hg, hr⟩).same rfl

/-- By a divisor that is not zero. -/
theorem Divides.setsG (h : Divides k f) (hi : s.Inv) (hp : Plain s (k d a b)) (hb : s.g b ≠ 0) :
    SetsG s (k d a b) d (f (s.g a) (s.g b)) :=
  setsG_of hi hp (h.means d a b s) (by simp only [h.writes, List.mem_singleton])
    ((h.divide_env hp).trans (if_neg hb))

end

/-! ### Operations on registers (04 R94) -/

theorem binary_add : Binary .add fun x y => x + y := { means := fun _ _ _ _ => rfl }

theorem binary_sub : Binary .sub fun x y => x - y := { means := fun _ _ _ _ => rfl }

theorem binary_and : Binary .and fun x y => x &&& y := { means := fun _ _ _ _ => rfl }

theorem binary_or : Binary .or fun x y => x ||| y := { means := fun _ _ _ _ => rfl }

theorem binary_xor : Binary .xor fun x y => x ^^^ y := { means := fun _ _ _ _ => rfl }

theorem binary_shl : Binary .shl fun x y => x <<< (y.toNat % 64) :=
  Binary.congr (f := fun x y => x <<< field y 5 0) { means := fun _ _ _ _ => rfl }
    fun x y => congrArg (x <<< ·) (field_shiftCount y)

theorem binary_shr : Binary .shr fun x y => x >>> (y.toNat % 64) :=
  Binary.congr (f := fun x y => x >>> field y 5 0) { means := fun _ _ _ _ => rfl }
    fun x y => congrArg (x >>> ·) (field_shiftCount y)

theorem binary_sra : Binary .sra fun x y => x.sshiftRight (y.toNat % 64) :=
  Binary.congr (f := fun x y => x.sshiftRight (field y 5 0)) { means := fun _ _ _ _ => rfl }
    fun x y => congrArg x.sshiftRight (field_shiftCount y)

theorem binary_mul : Binary .mul fun x y => x * y := { means := fun _ _ _ _ => rfl }

theorem binary_mulh :
    Binary .mulh fun x y => (x.signExtend 128 * y.signExtend 128).extractLsb' 64 64 :=
  Binary.congr (f := fun x y => highProduct x.toInt y.toInt) { means := fun _ _ _ _ => rfl }
    highProduct_signed

theorem binary_mulhu :
    Binary .mulhu fun x y => (x.setWidth 128 * y.setWidth 128).extractLsb' 64 64 :=
  Binary.congr (f := fun x y => highProduct x.toNat y.toNat) { means := fun _ _ _ _ => rfl }
    highProduct_unsigned

theorem binary_min : Binary .min fun x y => if x.slt y then x else y :=
  Binary.congr (f := fun x y => if y.slt x then y else x) { means := fun _ _ _ _ => rfl }
    signedMin_comm

theorem binary_max : Binary .max fun x y => if x.slt y then y else x := { means := fun _ _ _ _ => rfl }

theorem binary_minu : Binary .minu fun x y => if x.ult y then x else y :=
  Binary.congr (f := fun x y => if y.ult x then y else x) { means := fun _ _ _ _ => rfl }
    unsignedMin_comm

theorem binary_maxu : Binary .maxu fun x y => if x.ult y then y else x := { means := fun _ _ _ _ => rfl }

theorem binary_slt : Binary .slt fun x y => if x.toInt < y.toInt then 1 else 0 :=
  Binary.congr (f := fun x y => bit01 (x.slt y)) { means := fun _ _ _ _ => rfl }
    bit01_slt

theorem binary_sltu : Binary .sltu fun x y => if x.toNat < y.toNat then 1 else 0 :=
  Binary.congr (f := fun x y => bit01 (x.ult y)) { means := fun _ _ _ _ => rfl }
    bit01_ult

/-! ### Operations with an immediate (04 R98) -/

theorem immediate_addi : Immediate .addi fun x m => x + m.signExtend 64 := { means := fun _ _ _ _ => rfl }

theorem immediate_andi : Immediate .andi fun x m => x &&& m.signExtend 64 := { means := fun _ _ _ _ => rfl }

theorem immediate_ori : Immediate .ori fun x m => x ||| m.setWidth 64 := { means := fun _ _ _ _ => rfl }

theorem immediate_xori : Immediate .xori fun x m => x ^^^ m.setWidth 64 := { means := fun _ _ _ _ => rfl }

theorem immediate_shli : Immediate .shli fun x n => x <<< n.toNat := { means := fun _ _ _ _ => rfl }

theorem immediate_shri : Immediate .shri fun x n => x >>> n.toNat := { means := fun _ _ _ _ => rfl }

theorem immediate_srai : Immediate .srai fun x n => x.sshiftRight n.toNat := { means := fun _ _ _ _ => rfl }

theorem immediate_slti : Immediate .slti fun x m => if x.toInt < m.toInt then 1 else 0 :=
  Immediate.congr (f := fun x m => bit01 (x.slt (immS m))) { means := fun _ _ _ _ => rfl }
    fun x m => by rw [bit01_slt, toInt_immS (by decide)]

theorem immediate_sltiu : Immediate .sltiu fun x m => if x.toNat < (m.signExtend 64).toNat then 1 else 0 :=
  Immediate.congr (f := fun x m => bit01 (x.ult (immS m))) { means := fun _ _ _ _ => rfl }
    fun x m => bit01_ult x (immS m)

/-! ### Constants (04 R99) -/

theorem setsG_kon {s : State} {d : Reg} {k : BitVec 17} (hi : s.Inv) (hp : Plain s (.kon d k)) :
    SetsG s (.kon d k) d (k.signExtend 64) :=
  setsG_of hi hp rfl (List.mem_singleton_self _) (sem := semKon d k) rfl

/-- `konh` reads its destination. -/
theorem setsG_konh {s : State} {d : Reg} {k : BitVec 17} (hi : s.Inv) (hp : Plain s (.konh d k)) :
    SetsG s (.konh d k) d (s.g d <<< 17 ||| k.setWidth 64) := by
  have hd : gc d ∈ writesOf (.konh d k) := List.mem_singleton_self _
  refine setsG_of hi hp (sem := semKonh d k) rfl hd ?_
  rw [semKonh, hp.env_gw hd, immZ]

/-! ### Divisions (04 R95) -/

theorem divides_div : Divides .div (quotient true) := { means := fun _ _ _ _ => rfl }

theorem divides_divu : Divides .divu (quotient false) := { means := fun _ _ _ _ => rfl }

theorem divides_rem : Divides .rem (remainder true) := { means := fun _ _ _ _ => rfl }

theorem divides_remu : Divides .remu (remainder false) := { means := fun _ _ _ _ => rfl }

/-! ### The statements -/

/-- Settles O1: each instruction has the shape `Binary` or `Immediate` of its expression, or is a constant. -/
theorem scalarArithmetic : Obligations.ScalarArithmetic := by
  unfold Obligations.ScalarArithmetic
  constructor
  · intro s d a b hi
    exact ⟨binary_add.setsG hi, binary_sub.setsG hi, binary_and.setsG hi, binary_or.setsG hi,
      binary_xor.setsG hi, binary_shl.setsG hi, binary_shr.setsG hi, binary_sra.setsG hi,
      binary_mul.setsG hi, binary_mulh.setsG hi, binary_mulhu.setsG hi, binary_min.setsG hi,
      binary_max.setsG hi, binary_minu.setsG hi, binary_maxu.setsG hi, binary_slt.setsG hi,
      binary_sltu.setsG hi⟩
  · intro s d a m n k hi
    exact ⟨immediate_addi.setsG hi, immediate_andi.setsG hi, immediate_ori.setsG hi,
      immediate_xori.setsG hi, immediate_shli.setsG hi, immediate_shri.setsG hi,
      immediate_srai.setsG hi, immediate_slti.setsG hi, immediate_sltiu.setsG hi, setsG_kon hi,
      setsG_konh hi⟩

/-- Settles O3, by the three ways a division goes: a zero divisor with the trap enabled, a zero divisor without, and
a divisor that is not zero. -/
theorem division : Obligations.Division := by
  unfold Obligations.Division
  intro s d a b hi
  refine ⟨fun i hm hp hb ht => ?_, fun hb ht => ?_, fun hb => ?_⟩
  · simp only [List.mem_cons, List.not_mem_nil, or_false] at hm
    rcases hm with rfl | rfl | rfl | rfl
    · exact divides_div.traps hp hb ht
    · exact divides_divu.traps hp hb ht
    · exact divides_rem.traps hp hb ht
    · exact divides_remu.traps hp hb ht
  · exact ⟨fun hp => quotient_zero true (s.g a) ▸ divides_div.raisesDZ hi hp hb ht,
      fun hp => quotient_zero false (s.g a) ▸ divides_divu.raisesDZ hi hp hb ht,
      fun hp => remainder_zero true (s.g a) ▸ divides_rem.raisesDZ hi hp hb ht,
      fun hp => remainder_zero false (s.g a) ▸ divides_remu.raisesDZ hi hp hb ht⟩
  · exact ⟨fun hp => quotient_signed hb ▸ divides_div.setsG hi hp hb,
      fun hp => quotient_unsigned hb ▸ divides_divu.setsG hi hp hb,
      fun hp => remainder_signed hb ▸ divides_rem.setsG hi hp hb,
      fun hp => remainder_unsigned hb ▸ divides_remu.setsG hi hp hb⟩

end Sys2Proof.Machine
end
